-- ==== Sys2Proof/Word.lean ====
section
/-! DEFINITION. Words and bytes of the A9, the four streams of a context, and the engines (R2, R7, R10, R301). -/

namespace Sys2Proof

/-- A 64-bit register value or instruction word (R10, R74). -/
abbrev Word := BitVec 64

/-- One byte of memory (R2). -/
abbrev Byte := BitVec 8

/-- The four sequencers of a context; `Stream.code` gives the stream number of R93. -/
inductive Stream
  | x | l | c | s
deriving DecidableEq, Repr

/-- Stream numbers: 0 X, 1 L, 2 C, 3 S (R93). -/
def Stream.code : Stream → Nat
  | .x => 0
  | .l => 1
  | .c => 2
  | .s => 3

/-- The engines the C stream feeds through an engine queue (R168, R306). -/
inductive EUnit
  | matrix | vector | sfu
deriving DecidableEq, Repr

/-- The two command engines: SQ0 feeds the index engine, SQ1 the merge unit (R250). -/
inductive CmdUnit
  | ie | mu
deriving DecidableEq, Repr

/-- A unit that the drydock tests (R438): core by die × 16 + core, quay, channel by die × 128 + channel. -/
inductive UnitKind
  | core | quay | channel
deriving DecidableEq, Repr

end Sys2Proof
end

