-- ==== Sys2Proof/Syntax.lean ====
section
/-! DEFINITION. The syntax of the A9: every row of the opcode table is one constructor of `Instr`.
Rows of the table are of two sorts: instruction words of Filim (R74 to R90), and events, the whole and indivisible steps
of the device's engines, firmware and host interface (spec/95). An event's arguments are what comes from outside it. -/

namespace Sys2Proof

/-- BOOST, GN and GP of an X-format word (R75, R76). -/
structure Guard where
  boost : BitVec 2
  gn : Bool
  gp : BitVec 3
deriving DecidableEq, Repr

/-- The wait queues, the post queue and the stamp of an E-format word (R79). -/
structure Sync where
  w0 : BitVec 4
  w1 : BitVec 4
  w2 : BitVec 4
  pq : BitVec 4
  stamp : BitVec 14
deriving DecidableEq, Repr

/-- The common layout of vector operation fields (R204). -/
structure VOp where
  vd : BitVec 5
  va : BitVec 5
  vb : BitVec 5
  vf : BitVec 4
  md : BitVec 2
  mken : Bool
  mm : BitVec 3
deriving DecidableEq, Repr

/-- Which queued access performs, and at which point (R287). -/
inductive PerformWhat
  /-- The oldest entry of a stream's store queue performs at CORE scope. -/
  | core (ctx : Nat) (st : Stream)
  /-- The core's store of this position in its list performs at its home. -/
  | home (core idx : Nat)
deriving DecidableEq, Repr

/-- A collective message: source rank, tag and bytes, on a communicator of a function (R435). -/
structure CollMsg where
  vf : Nat
  comm : Nat
  dst : Nat
  src : Nat
  tag : Nat
  data : List Byte
deriving DecidableEq, Repr

/-- What a lease's pattern run showed (R442, R443): the outputs that its set defines, of a core the scratchpad, the ACC.RDX images of the 32 tiles,
VSTAT and every ACCSTAT, of a channel each window's read-back, of a quay the payloads received; whether an uncorrectable error or an
ACC_CHECK was met; and the corrected events, of a channel by window. -/
structure LeaseObs where
  outputs : List Byte
  uncorrectable : Bool
  corrected : List Nat
deriving DecidableEq, Repr

/-- A flit of the link layer (R427); the CRC is judged outside and given beside it. -/
structure Flit where
  vc : Nat
  ty : Nat
  fseq : BitVec 12
  aseq : BitVec 12
  credVc : Nat
  cred : Nat
  payload : List Byte
deriving DecidableEq, Repr

/-- The origin of a firmware request: the issuing function and ring, the address for the reply, the sequence (R391). -/
structure FwReq where
  vf : Nat
  ring : Nat
  replyVa : Word
  seq : Nat
deriving DecidableEq, Repr

/-- Targets that keep an access table (R360). -/
inductive MatTarget
  | hbm | l2 | scratchpad | csr | quay
deriving DecidableEq, Repr

/-- A demand range of a paging policy (R359): first address, 64 KiB pages, rights to grant. -/
structure DemandRange where
  va : Word
  pages : Nat
  rd : Bool
  w : Bool
deriving DecidableEq, Repr

/-- What a debug request names (R423). -/
inductive DbgItem
  | csr (n : Nat)
  | xreg (st : Stream) (r : BitVec 5)
  | pred (st : Stream) (r : BitVec 3)
  | pc (st : Stream)
  | scratch (off : Nat)
  | bkpt (st : Stream) (n : BitVec 4)
  | frame (off : Nat)
  | tile (t : Nat) (elem : Nat)
  | code (pa : Nat)
  | bt (st : Stream) (n : Fin 4)
  | lc (st : Stream) (n : Fin 4)
  | vreg (r : BitVec 5) (off : Nat)
  | mreg (m : Fin 8) (word : Nat)
deriving DecidableEq, Repr

/-- One rank of a communicator (R432): fabric address, die and function. -/
structure CommRank where
  fabric : Nat
  die : Nat
  vf : Nat
deriving DecidableEq, Repr

/-- What the reset stages meet (R453 to R455): the image whose signature fails, the channels that fail training twice, the units of any other
failure, what the runs and retests of the initial sweep show on units that do not simply pass, the quays whose link trains, and those of them
whose peer does not answer. -/
structure BootObs where
  badImage : Option Nat
  badChannels : List Nat
  failed : List (UnitKind × Nat)
  sweep : List (UnitKind × Nat × LeaseObs × LeaseObs)
  quayUp : List Nat
  silent : List Nat
deriving DecidableEq, Repr

/-- One constructor per row of the opcode table, in the table's order but for QUANTUM_CHECKPOINT. Instruction words carry their encoding's
fields; events carry what comes from outside the step. -/
inductive Instr
  /-- ADD: R108. -/
  | add (g : Guard) (d a b : BitVec 5)
  /-- SUB: R108. -/
  | sub (g : Guard) (d a b : BitVec 5)
  /-- AND: R108. -/
  | and (g : Guard) (d a b : BitVec 5)
  /-- OR: R108. -/
  | or (g : Guard) (d a b : BitVec 5)
  /-- XOR: R108. -/
  | xor (g : Guard) (d a b : BitVec 5)
  /-- SHL: R108. -/
  | shl (g : Guard) (d a b : BitVec 5)
  /-- SHR: R108. -/
  | shr (g : Guard) (d a b : BitVec 5)
  /-- SAR: R108. -/
  | sar (g : Guard) (d a b : BitVec 5)
  /-- MUL: R108. -/
  | mul (g : Guard) (d a b : BitVec 5)
  /-- MULHU: R108. -/
  | mulhu (g : Guard) (d a b : BitVec 5)
  /-- MULHS: R108. -/
  | mulhs (g : Guard) (d a b : BitVec 5)
  /-- DIVU: R108. -/
  | divu (g : Guard) (d a b : BitVec 5)
  /-- REMU: R108. -/
  | remu (g : Guard) (d a b : BitVec 5)
  /-- MIN: R108. -/
  | min (g : Guard) (d a b : BitVec 5)
  /-- MAX: R108. -/
  | max (g : Guard) (d a b : BitVec 5)
  /-- MINU: R108. -/
  | minu (g : Guard) (d a b : BitVec 5)
  /-- MAXU: R108. -/
  | maxu (g : Guard) (d a b : BitVec 5)
  /-- CLZ: R109. -/
  | clz (g : Guard) (d a : BitVec 5)
  /-- POPC: R109. -/
  | popc (g : Guard) (d a : BitVec 5)
  /-- BFX: R109; `sx` is the `.s` suffix. -/
  | bfx (g : Guard) (d a : BitVec 5) (pos : BitVec 6) (len : BitVec 7) (sx : Bool)
  /-- BFI: R109. -/
  | bfi (g : Guard) (d a : BitVec 5) (pos : BitVec 6) (len : BitVec 7)
  /-- MOV: R109. -/
  | mov (g : Guard) (d a : BitVec 5)
  /-- ADDI: R110. -/
  | addi (g : Guard) (d a : BitVec 5) (imm : BitVec 32)
  /-- ANDI: R110. -/
  | andi (g : Guard) (d a : BitVec 5) (imm : BitVec 32)
  /-- ORI: R110. -/
  | ori (g : Guard) (d a : BitVec 5) (imm : BitVec 32)
  /-- XORI: R110. -/
  | xori (g : Guard) (d a : BitVec 5) (imm : BitVec 32)
  /-- LI: R110. -/
  | li (g : Guard) (d : BitVec 5) (imm : BitVec 32)
  /-- LIH: R110. -/
  | lih (g : Guard) (d a : BitVec 5) (imm : BitVec 32)
  /-- CMP_EQ: R111. -/
  | cmpEq (g : Guard) (pd : BitVec 3) (a b : BitVec 5)
  /-- CMP_NE: R111. -/
  | cmpNe (g : Guard) (pd : BitVec 3) (a b : BitVec 5)
  /-- CMP_LT: R111. -/
  | cmpLt (g : Guard) (pd : BitVec 3) (a b : BitVec 5)
  /-- CMP_LE: R111. -/
  | cmpLe (g : Guard) (pd : BitVec 3) (a b : BitVec 5)
  /-- CMP_LTU: R111. -/
  | cmpLtu (g : Guard) (pd : BitVec 3) (a b : BitVec 5)
  /-- CMP_LEU: R111. -/
  | cmpLeu (g : Guard) (pd : BitVec 3) (a b : BitVec 5)
  /-- PAND: R112. -/
  | pand (g : Guard) (pd pa pb : BitVec 3) (na nb : Bool)
  /-- POR: R112. -/
  | por (g : Guard) (pd pa pb : BitVec 3) (na nb : Bool)
  /-- PNOT: R112. -/
  | pnot (g : Guard) (pd pa : BitVec 3)
  /-- SEL: R113. -/
  | sel (g : Guard) (d a b : BitVec 5) (pp : BitVec 3) (np : Bool)
  /-- PBT: R118; `imm` counts words. -/
  | pbt (g : Guard) (bd : BitVec 2) (a : BitVec 5) (imm : BitVec 32)
  /-- BT: R120; `commit` 0 none, 1 `.ct`, 2 `.cn`. -/
  | bt (g : Guard) (bd : BitVec 2) (commit : BitVec 2) (cn : Bool) (cp : BitVec 3)
  /-- CALL: R121. -/
  | call (g : Guard) (d : BitVec 5) (bn : BitVec 2)
  /-- RET: R121. -/
  | ret (g : Guard) (a : BitVec 5)
  /-- LOOP: R124. -/
  | loop (g : Guard) (ld : BitVec 2) (a : BitVec 5) (icount : BitVec 23) (bodylen : BitVec 9)
  /-- BRK: R127. -/
  | brk (g : Guard)
  /-- TRIG: R130. -/
  | trig (g : Guard)
  /-- EXIT: R131. -/
  | exit (g : Guard)
  /-- NOP: R132. -/
  | nop (g : Guard)
  /-- CMTB: R137. -/
  | cmtb (g : Guard)
  /-- CLRB: R137. -/
  | clrb (g : Guard)
  /-- VANY: R139. -/
  | vany (g : Guard) (pd ma mb : BitVec 3) (masked : Bool)
  /-- VALL: R139. -/
  | vall (g : Guard) (pd ma mb : BitVec 3) (masked : Bool)
  /-- LD: R146; `w` is SUB: the access is of 2^w bytes. -/
  | ld (g : Guard) (d a : BitVec 5) (w : BitVec 2) (u acq : Bool) (scope : BitVec 3) (imm : BitVec 32)
  /-- LOAD_RETURN: R146: the oldest load of the stream's load queue performs and returns. -/
  | loadReturn (ctx : Nat) (st : Stream)
  /-- ST: R147. -/
  | st (g : Guard) (a b : BitVec 5) (w : BitVec 2) (rel : Bool) (scope : BitVec 3) (imm : BitVec 32)
  /-- ACCESS_PERFORM: R287. -/
  | accessPerform (what : PerformWhat)
  /-- LDS: R148. -/
  | lds (g : Guard) (d a : BitVec 5) (w : BitVec 2) (u : Bool) (imm : BitVec 32)
  /-- STS: R148. -/
  | sts (g : Guard) (a b : BitVec 5) (w : BitVec 2) (imm : BitVec 32)
  /-- MARK: R149. -/
  | mark (g : Guard)
  /-- FENCE: R150. -/
  | fence (g : Guard) (scope : BitVec 3) (eng : Bool)
  /-- AMO_ADD: R151. -/
  | amoAdd (g : Guard) (d a b : BitVec 5) (scope : BitVec 3) (w64 : Bool)
  /-- AMO_AND: R151. -/
  | amoAnd (g : Guard) (d a b : BitVec 5) (scope : BitVec 3) (w64 : Bool)
  /-- AMO_OR: R151. -/
  | amoOr (g : Guard) (d a b : BitVec 5) (scope : BitVec 3) (w64 : Bool)
  /-- AMO_XOR: R151. -/
  | amoXor (g : Guard) (d a b : BitVec 5) (scope : BitVec 3) (w64 : Bool)
  /-- AMO_MIN: R151. -/
  | amoMin (g : Guard) (d a b : BitVec 5) (scope : BitVec 3) (w64 : Bool)
  /-- AMO_MAX: R151. -/
  | amoMax (g : Guard) (d a b : BitVec 5) (scope : BitVec 3) (w64 : Bool)
  /-- AMO_MINU: R151. -/
  | amoMinu (g : Guard) (d a b : BitVec 5) (scope : BitVec 3) (w64 : Bool)
  /-- AMO_MAXU: R151. -/
  | amoMaxu (g : Guard) (d a b : BitVec 5) (scope : BitVec 3) (w64 : Bool)
  /-- AMO_SWAP: R151. -/
  | amoSwap (g : Guard) (d a b : BitVec 5) (scope : BitVec 3) (w64 : Bool)
  /-- CAS: R152. -/
  | cas (g : Guard) (d a b : BitVec 5) (scope : BitVec 3) (w64 : Bool)
  /-- PIN_RETRY: R295: a refused access of the stream is tried again. -/
  | pinRetry (ctx : Nat) (st : Stream)
  /-- PIN_TIMEOUT: R296. -/
  | pinTimeout (core line : Nat)
  /-- TKWAIT: R153. -/
  | tkwait (g : Guard) (q0 q1 q2 : BitVec 4)
  /-- TKPOST: R154. -/
  | tkpost (g : Guard) (q : BitVec 4)
  /-- TOKEN_DEADLOCK: R155. -/
  | tokenDeadlock (ctx : Nat)
  /-- FQPUSH: R158. -/
  | fqpush (g : Guard) (d a : BitVec 5)
  /-- SQPUSH: R159; `n` names SQ0 or SQ1. -/
  | sqpush (g : Guard) (d a : BitVec 5) (n : BitVec 1)
  /-- YPOP: R160. -/
  | ypop (g : Guard) (d : BitVec 5)
  /-- QCANCEL: R161. -/
  | qcancel (g : Guard) (d a : BitVec 5)
  /-- FQ_LEFTOVER: R9. -/
  | fqLeftover (ctx : Nat)
  /-- ITERATION_RETIRE: R8. -/
  | iterationRetire (ctx : Nat)
  /-- BAR_INIT: R162, R163. -/
  | barInit (g : Guard) (n : BitVec 7) (expect : BitVec 12)
  /-- BAR_ARV: R162, R163. -/
  | barArv (g : Guard) (d : BitVec 5) (n : BitVec 7)
  /-- BAR_EXP: R162, R163. -/
  | barExp (g : Guard) (d a : BitVec 5) (n : BitVec 7) (arv : Bool)
  /-- BAR_WAIT: R162, R163. -/
  | barWait (g : Guard) (a : BitVec 5) (n : BitVec 7)
  /-- BAR_TEST: R162, R163. -/
  | barTest (g : Guard) (pd : BitVec 3) (a : BitVec 5) (n : BitVec 7)
  /-- TIDE_RD: R164. -/
  | tideRd (g : Guard) (d : BitVec 5)
  /-- REGION_TIMED: R165. -/
  | regionTimed (g : Guard) (lead : BitVec 16) (chain : Bool)
  /-- TIDE_BASE: R166. -/
  | tideBase (g : Guard) (a : BitVec 5)
  /-- REGION_LOCKED: R167. -/
  | regionLocked (g : Guard)
  /-- SCHEDULE_MISS: R169. -/
  | scheduleMiss (ctx : Nat)
  /-- REGION_RESTART: R169. -/
  | regionRestart (ctx : Nat)
  /-- CSRR: R172. -/
  | csrr (g : Guard) (d : BitVec 5) (csr : BitVec 12)
  /-- CSRW: R172. -/
  | csrw (g : Guard) (a : BitVec 5) (csr : BitVec 12)
  /-- JNLBASE_APPLY: R33. -/
  | jnlbaseApply (ctx : Nat)
  /-- SYSC_INFO: R173; service 0 INFO, and every number that names no service (x10 := all ones). -/
  | syscInfo (g : Guard) (n : BitVec 32)
  /-- SYSC_LOG: R173, service 1. -/
  | syscLog (g : Guard)
  /-- SYSC_PREFAULT: R173, service 2. -/
  | syscPrefault (g : Guard)
  /-- SYSC_YIELD: R173, service 3. -/
  | syscYield (g : Guard)
  /-- TRAP: R174. -/
  | trap (g : Guard) (imm : BitVec 32)
  /-- BKPT: R175. -/
  | bkpt (g : Guard) (imm : BitVec 32)
  /-- OPBIND: R264. -/
  | opbind (g : Guard) (d a b : BitVec 5) (idx : BitVec 6)
  /-- BUNDLE_FETCH: R114. -/
  | bundleFetch (ctx : Nat) (st : Stream) (addr : Word)
  /-- ENGINE_ISSUE: R180. -/
  | engineIssue (ctx : Nat) (u : EUnit)
  /-- MMA: R177, R185. -/
  | mma (y : Sync) (aw bw : BitVec 6) (acc : BitVec 5) (koff : BitVec 9)
  /-- MMA_S: R177, R187. -/
  | mmaS (y : Sync) (aw : BitVec 6) (sp : BitVec 2) (nm1 : BitVec 7) (acc : BitVec 5)
  /-- MMA_C: R177, R188. -/
  | mmaC (y : Sync) (bw : BitVec 6) (asrc acc : BitVec 5) (mm1 : BitVec 7)
  /-- ACC_ZERO: R190. -/
  | accZero (y : Sync) (acc : BitVec 5) (anchor : BitVec 12)
  /-- ACC_LD: R191. -/
  | accLd (y : Sync) (w : BitVec 6) (acc : BitVec 5) (row0 : BitVec 7)
  /-- ACC_RD: R192. -/
  | accRd (y : Sync) (w : BitVec 6) (acc : BitVec 5) (row0 : BitVec 7) (rm : BitVec 2) (wide : Bool)
  /-- ACC_RDX: R193. -/
  | accRdx (y : Sync) (w : BitVec 6) (acc : BitVec 5) (row0 : BitVec 7)
  /-- ACC_REBASE: R69, R194. -/
  | accRebase (y : Sync) (acc : BitVec 5) (n : BitVec 6)
  /-- ACC_WM: R184. -/
  | accWm (y : Sync) (d acc : BitVec 5) (row : BitVec 8)
  /-- ACC_STAT: R194. -/
  | accStat (y : Sync) (d acc : BitVec 5) (clr : BitVec 3)
  /-- TD_RD: R197. -/
  | tdRd (y : Sync) (d : BitVec 5) (kind : Bool) (index : BitVec 10)
  /-- TFILL_ZERO: R198. -/
  | tfillZero (y : Sync) (blk : BitVec 10) (nm1 : BitVec 5)
  /-- TFILL_CONST: R198. -/
  | tfillConst (y : Sync) (fmt : BitVec 4) (blk : BitVec 10) (a nm1 : BitVec 5)
  /-- TFILL_IDENT: R198. -/
  | tfillIdent (y : Sync) (fmt : BitVec 4) (blk : BitVec 10) (nm1 : BitVec 5)
  /-- MATRIX_COMPLETE: R181. -/
  | matrixComplete (ctx : Nat)
  /-- VSHAPE: R206. -/
  | vshape (y : Sync) (shape : BitVec 24)
  /-- VLD: R215, R216. -/
  | vld (y : Sync) (vr : BitVec 5) (port : Bool) (win : BitVec 6) (xo : BitVec 5) (vf : BitVec 4) (mken : Bool) (mm : BitVec 3)
  /-- VST: R215, R217. -/
  | vst (y : Sync) (vr : BitVec 5) (port : Bool) (win : BitVec 6) (xo : BitVec 5) (vf : BitVec 4) (mken : Bool) (mm : BitVec 3)
  /-- VMOV: R212. -/
  | vmov (y : Sync) (o : VOp)
  /-- VBCAST: R212. -/
  | vbcast (y : Sync) (o : VOp)
  /-- VADD: R209. -/
  | vadd (y : Sync) (o : VOp)
  /-- VSUB: R209. -/
  | vsub (y : Sync) (o : VOp)
  /-- VMUL: R209. -/
  | vmul (y : Sync) (o : VOp)
  /-- VFMA: R209. -/
  | vfma (y : Sync) (o : VOp)
  /-- VMIN: R210. -/
  | vmin (y : Sync) (o : VOp)
  /-- VMAX: R210. -/
  | vmax (y : Sync) (o : VOp)
  /-- VABS: R210. -/
  | vabs (y : Sync) (o : VOp)
  /-- VNEG: R210. -/
  | vneg (y : Sync) (o : VOp)
  /-- VAND: R212. -/
  | vand (y : Sync) (o : VOp)
  /-- VOR: R212. -/
  | vor (y : Sync) (o : VOp)
  /-- VXOR: R212. -/
  | vxor (y : Sync) (o : VOp)
  /-- VSHL: R211. -/
  | vshl (y : Sync) (o : VOp)
  /-- VSHR: R211. -/
  | vshr (y : Sync) (o : VOp)
  /-- VIADD: R211. -/
  | viadd (y : Sync) (o : VOp)
  /-- VIMUL: R211. -/
  | vimul (y : Sync) (o : VOp)
  /-- VCMP: R213. -/
  | vcmp (y : Sync) (o : VOp)
  /-- VSEL: R214. -/
  | vsel (y : Sync) (o : VOp)
  /-- VCVT: R218, R219. -/
  | vcvt (y : Sync) (towin : Bool) (dst : BitVec 6) (va : BitVec 5) (dfmt vf : BitVec 4) (rm pol : BitVec 2) (dsmode : Bool)
  /-- VRED: R220, R221. -/
  | vred (y : Sync) (o : VOp)
  /-- VSCAN: R220, R222. -/
  | vscan (y : Sync) (o : VOp)
  /-- VTRN: R223. -/
  | vtrn (y : Sync) (o : VOp)
  /-- VPERM: R223. -/
  | vperm (y : Sync) (o : VOp)
  /-- VEXT: R223. -/
  | vext (y : Sync) (vd va vb : BitVec 5) (vf : BitVec 4) (xo : BitVec 5)
  /-- VRCP: R225, R227. -/
  | vrcp (y : Sync) (o : VOp)
  /-- VRSQ: R226, R227. -/
  | vrsq (y : Sync) (o : VOp)
  /-- VRCPS: R228. -/
  | vrcps (y : Sync) (o : VOp)
  /-- VRSQS: R228. -/
  | vrsqs (y : Sync) (o : VOp)
  /-- VEXP2: R229. -/
  | vexp2 (y : Sync) (o : VOp)
  /-- VLOG2: R229. -/
  | vlog2 (y : Sync) (o : VOp)
  /-- VECTOR_LAND: R230. -/
  | vectorLand (ctx : Nat) (u : EUnit)
  /-- TWDEF: R235. -/
  | twdef (g : Guard) (a b : BitVec 5) (n : BitVec 6)
  /-- AGSET: R239. -/
  | agset (g : Guard) (a : BitVec 5) (n : BitVec 3)
  /-- SPBIND_IN: R242. -/
  | spbindIn (g : Guard) (p : BitVec 2) (agd : BitVec 3) (scaled : Bool) (ags : BitVec 3) (fmt : BitVec 4) (layout : BitVec 2) (fam : Bool)
  /-- SPBIND_OUT: R242. -/
  | spbindOut (g : Guard) (p : BitVec 2) (agd : BitVec 3) (fmt : BitVec 4)
  /-- SPBIND_OFF: R242. -/
  | spbindOff (g : Guard) (p : BitVec 2)
  /-- STREAM_PORT_FETCH: R243. -/
  | streamPortFetch (ctx : Nat) (p : Fin 4)
  /-- OUTPUT_PORT_WRITE: R244. -/
  | outputPortWrite (ctx : Nat) (p : Fin 4)
  /-- CPY: R245. -/
  | cpy (y : Sync) (xd xs xn : BitVec 5) (dir : BitVec 2) (bar : BitVec 7) (baren : Bool)
  /-- CPY_ND: R246. -/
  | cpyNd (y : Sync) (mode : BitVec 2) (win : BitVec 6) (sag dag : BitVec 3) (bar : BitVec 7) (baren : Bool)
  /-- COPY_PIECE_PERFORM: R248. -/
  | copyPiecePerform (ctx idx piece : Nat)
  /-- COPY_COMPLETE: R248. -/
  | copyComplete (ctx idx : Nat)
  /-- COLL_START: R259. -/
  | collStart (g : Guard) (d a b : BitVec 5) (comm : BitVec 16) (reply : Bool)
  /-- UOP: R81, R265. -/
  | uop (opc : BitVec 8) (w0 w1 w2 pq : BitVec 4) (arg : BitVec 40)
  /-- LDE_LOAD: R282. -/
  | ldeLoad (core bank ctx : Nat)
  /-- LDE_VERIFY: R282. -/
  | ldeVerify (core bank : Nat)
  /-- GATHER_ROWS: R250 to R254: the index engine starts the oldest SQ0 entry, of this kind. -/
  | gatherRows (ctx : Nat)
  /-- GATHER_ELEM: R250 to R254: the index engine starts the oldest SQ0 entry, of this kind. -/
  | gatherElem (ctx : Nat)
  /-- SCATTER_ROWS: R250 to R254: the index engine starts the oldest SQ0 entry, of this kind. -/
  | scatterRows (ctx : Nat)
  /-- SCATTER_ADD: R250 to R254: the index engine starts the oldest SQ0 entry, of this kind. -/
  | scatterAdd (ctx : Nat)
  /-- MERGE_ADD: R257, R258: the merge unit starts the oldest SQ1 entry. -/
  | mergeAdd (ctx : Nat)
  /-- IE_BATCH_COMPLETE: R252. -/
  | ieBatchComplete (ctx : Nat)
  /-- SQ_COMMAND_END: R255. -/
  | sqCommandEnd (ctx : Nat) (u : CmdUnit)
  /-- COLL_ENTRY_START: R436. -/
  | collEntryStart (ctx : Nat)
  /-- SEND: R434. -/
  | send (ctx : Nat)
  /-- RECV: R434. -/
  | recv (ctx : Nat)
  /-- RECV_XADD: R434. -/
  | recvXadd (ctx : Nat)
  /-- RECV_FADD: R434. -/
  | recvFadd (ctx : Nat)
  /-- FWD: R434. -/
  | fwd (ctx : Nat)
  /-- COLL_MESSAGE_ARRIVE: R435. -/
  | collMessageArrive (die : Nat) (m : CollMsg)
  /-- COLL_ENTRY_END: R437. -/
  | collEntryEnd (ctx : Nat)
  /-- FAULT_STOP: R307. -/
  | faultStop (ctx : Nat)
  /-- FRAME_CLOSE: R307, R308. -/
  | frameClose (ctx : Nat)
  /-- HOLD_ABORT_TIMEOUT: R308. -/
  | holdAbortTimeout (ctx : Nat)
  /-- FAULT_RECORD_TIMEOUT: R359. -/
  | faultRecordTimeout (recno : Nat)
  /-- RESTORE_CONTEXT: R319. -/
  | restoreContext (ctx core : Nat)
  /-- PLACE_ITERATION: R395; `launch` is the launch's number in the model's list. -/
  | placeIteration (launch : Nat) (die : Nat)
  /-- PLACE_COHORT: R396. -/
  | placeCohort (launch : Nat)
  /-- TRIGGER_RELEASE: R397. -/
  | triggerRelease (launch : Nat)
  /-- PERIOD_START: R394. -/
  | periodStart
  /-- NEWCOMER_TIMEOUT: R394. -/
  | newcomerTimeout (launch : Nat)
  /-- DRAIN_REDECIDE: R315. -/
  | drainRedecide (ctx : Nat)
  /-- QUANTUM_EXPIRE: R398. -/
  | quantumExpire (ctx : Nat)
  /-- QUANTUM_CHECKPOINT: R398. -/
  | quantumCheckpoint (ctx : Nat)
  /-- LEASE_GRANT: R401, R439. -/
  | leaseGrant (lease : Nat)
  /-- LEASE_FORCE_CHECKPOINT: R401. -/
  | leaseForceCheckpoint (lease : Nat)
  /-- LEASE_OUTCOME: R443 to R445. -/
  | leaseOutcome (lease : Nat) (o : LeaseObs)
  /-- LEASE_HOLD_LIMIT: R439, R441. -/
  | leaseHoldLimit (lease : Nat)
  /-- ROTATION_LEASE: R447. -/
  | rotationLease (k : UnitKind) (unit : Nat)
  /-- WATCH_LEASE: R444. -/
  | watchLease (k : UnitKind) (unit : Nat)
  /-- SCORE_DECAY: R446. -/
  | scoreDecay
  /-- QUAY_LEASE_DEFER: R441. -/
  | quayLeaseDefer (lease : Nat)
  /-- CHANNEL_HOLD: R440. -/
  | channelHold (channel window : Nat)
  /-- CHANNEL_HOLD_END: R440. -/
  | channelHoldEnd (channel : Nat) (restored : Bool)
  /-- QUAY_FLIT_SEND: R417. -/
  | quayFlitSend (quay : Nat)
  /-- FLIT_RECEIVE: R427, R428. -/
  | flitReceive (quay : Nat) (f : Flit) (crcOk : Bool)
  /-- NAK_RECEIVE: R428. -/
  | nakReceive (quay : Nat) (fseq : BitVec 12)
  /-- LINK_DOWN: R428. -/
  | linkDown (quay : Nat)
  /-- WRIDX_FETCHADD: R371, R373. -/
  | wridxFetchadd (vf ring : Nat) (addend : Word)
  /-- WRIDX_DOORBELL: R374. -/
  | wridxDoorbell (vf ring : Nat) (value : Word)
  /-- RINGCFG_WRITE: R369. -/
  | ringcfgWrite (vf ring : Nat) (value : Word)
  /-- RDMIRROR_WRITE: R368. -/
  | rdmirrorWrite (vf ring : Nat) (value : Word)
  /-- HALT: R375. -/
  | halt (vf ring : Nat)
  /-- RESUME: R375. -/
  | resume (vf ring : Nat)
  /-- CANCEL: R375. -/
  | cancel (vf ring : Nat)
  /-- KILL: R375. -/
  | kill (vf ring : Nat)
  /-- RESET: R375. -/
  | reset (vf ring : Nat)
  /-- REGISTER_WRITE: R367, R368. -/
  | registerWrite (vf bar : Nat) (offset : Nat) (value : Word)
  /-- COMMAND_ACCEPT: R372. -/
  | commandAccept (vf ring : Nat)
  /-- LAUNCH: R378: FC0 starts the ring's next accepted command, of this kind. -/
  | launch (vf ring : Nat)
  /-- INVOKE: R380: FC0 starts the ring's next accepted command, of this kind. -/
  | invoke (vf ring : Nat)
  /-- GRAPH: R382: FC0 starts the ring's next accepted command, of this kind. -/
  | graph (vf ring : Nat)
  /-- BERTH_LOAD: R379: FC0 starts the ring's next accepted command, of this kind. -/
  | berthLoad (vf ring : Nat)
  /-- BERTH_DROP: R379: FC0 starts the ring's next accepted command, of this kind. -/
  | berthDrop (vf ring : Nat)
  /-- BERTH_FREE: R379. -/
  | berthFree (vf berth : Nat)
  /-- SIGNAL: R381. -/
  | signal (vf ring : Nat)
  /-- WAIT: R381. -/
  | wait (vf ring : Nat)
  /-- WAIT_TIMEOUT: R381. -/
  | waitTimeout (vf ring : Nat)
  /-- FENCE_COMMAND: R381. -/
  | fenceCommand (vf ring : Nat)
  /-- NOP_COMMAND: R376. -/
  | nopCommand (vf ring : Nat)
  /-- CAPTURE: R385. -/
  | capture (vf ring : Nat)
  /-- REPLAY: R386. -/
  | replay (vf ring : Nat)
  /-- COMMAND_COMPLETE: R377. -/
  | commandComplete (vf ring idx : Nat)
  /-- LAUNCH_NODE: R383, R384; `graph` is the walk's number in the model's list. -/
  | launchNode (graph : Nat)
  /-- COPY_NODE: R383, R384; `graph` is the walk's number in the model's list. -/
  | copyNode (graph : Nat)
  /-- COND: R383, R384; `graph` is the walk's number in the model's list. -/
  | cond (graph : Nat)
  /-- LOOP_NODE: R383, R384; `graph` is the walk's number in the model's list. -/
  | loopNode (graph : Nat)
  /-- SIGNAL_NODE: R383, R384; `graph` is the walk's number in the model's list. -/
  | signalNode (graph : Nat)
  /-- WAIT_NODE: R383, R384; `graph` is the walk's number in the model's list. -/
  | waitNode (graph : Nat)
  /-- TOKGRANT_SET: R394. -/
  | tokgrantSet (q : FwReq) (vf grant : Nat)
  /-- VFCTL_SET: R410, R412, R413. -/
  | vfctlSet (q : FwReq) (vf : Nat) (featmask : Word) (scopelimit : Nat) (dbgen : Bool)
  /-- DRAIN_SET: R410. -/
  | drainSet (q : FwReq) (sleeve bound : Nat)
  /-- L2CLS_WRITE: R361, R391. -/
  | l2clsWrite (q : FwReq) (die cls : Nat) (value : Word)
  /-- L2MON_WRITE: R361, R391. -/
  | l2monWrite (q : FwReq) (die slice : Nat)
  /-- L2FLUSH: R361, R391. -/
  | l2flush (q : FwReq) (die cls : Nat)
  /-- L2CNT_READ: R361, R391. -/
  | l2cntRead (q : FwReq) (die cls : Nat)
  /-- SLEEVE_SET: R410, R411. -/
  | sleeveSet (q : FwReq) (sleeve kind slots owner coreMap base limit : Nat)
  /-- SLEEVE_JOIN: R410. -/
  | sleeveJoin (q : FwReq) (vf sleeve base limit : Nat)
  /-- MAT_WRITE: R360, R415. -/
  | matWrite (q : FwReq) (target : MatTarget) (index entry : Nat) (w0 w1 : Word) (shared : Bool)
  /-- PT_EDIT: R356, R410. -/
  | ptEdit (q : FwReq) (vf : Nat) (va : Word) (level : Nat) (entry : Word)
  /-- MIG_TRACK: R420. -/
  | migTrack (q : FwReq) (vf : Nat)
  /-- MIG_DIRTY: R420. -/
  | migDirty (q : FwReq) (vf : Nat) (va : Word) (count : Nat) (bitmapVa : Word)
  /-- MIG_STOP: R421, R422. -/
  | migStop (q : FwReq) (vf : Nat)
  /-- PAGING_SET: R359. -/
  | pagingSet (q : FwReq) (vf mode : Nat) (ranges : List DemandRange)
  /-- FAULT_DONE: R359. -/
  | faultDone (q : FwReq) (recno answer : Nat)
  /-- DBG_ATTACH: R423. -/
  | dbgAttach (q : FwReq) (ctx : Nat)
  /-- DBG_READ: R423. -/
  | dbgRead (q : FwReq) (ctx : Nat) (item : DbgItem)
  /-- DBG_WRITE: R321, R323, R423. -/
  | dbgWrite (q : FwReq) (ctx : Nat) (item : DbgItem) (value : Word)
  /-- DBG_RESUME: R423. -/
  | dbgResume (q : FwReq) (ctx : Nat) (abort : Bool)
  /-- DBG_DETACH: R322, R423. -/
  | dbgDetach (q : FwReq) (ctx : Nat)
  /-- LOG_READ: R419. -/
  | logRead (q : FwReq)
  /-- LEASE_LIST: R449. -/
  | leaseList (q : FwReq) (k : Option UnitKind) (unit : Nat)
  /-- SCORE_READ: R449. -/
  | scoreRead (q : FwReq) (k : UnitKind) (unit : Nat)
  /-- RETIRE_LIST: R449. -/
  | retireList (q : FwReq)
  /-- DRY_CTL: R447, R449. -/
  | dryCtl (q : FwReq) (k : UnitKind) (period : Nat)
  /-- DRY_LOCATE: R451; a ring is numbered within its function. -/
  | dryLocate (q : FwReq) (ring : Nat) (bufVa : Word) (rec vf : Nat)
  /-- KEY_LOAD: R414. -/
  | keyLoad (q : FwReq) (vf session : Nat) (wrapped : List Byte)
  /-- VF_RESET: R418. -/
  | vfReset (q : FwReq) (vf : Nat)
  /-- QBW_SET: R416. -/
  | qbwSet (q : FwReq) (quay vf share : Nat)
  /-- COMM_SET: R432. -/
  | commSet (q : FwReq) (vf comm size localRank : Nat) (ranks : List CommRank)
  /-- FLR: R418, R452. -/
  | flr (vf : Nat)
  /-- TDISP_ERROR: R418. -/
  | tdispError (vf : Nat)
  /-- COLD_RESET: R452, R453. -/
  | coldReset (o : BootObs)
  /-- WARM_RESET: R452. -/
  | warmReset (o : BootObs)
  /-- SIDEBAND_COLD: R452. -/
  | sidebandCold (o : BootObs)
  /-- SIDEBAND_WARM: R452. -/
  | sidebandWarm (o : BootObs)
  /-- SIDEBAND_STATUS: R454. -/
  | sidebandStatus
  /-- SIDEBAND_LOAD: R454. -/
  | sidebandLoad (image : Nat)
  /-- PWRSTAT_WRITE: R457. -/
  | pwrstatWrite (value : Word)
  /-- POWER_WINDOW: R457; the estimate is the power controller's measurement. -/
  | powerWindow (estimate : Nat)
  /-- HOLD_ANSWER: R308. -/
  | holdAnswer (ctx : Nat) (resume : Bool)
  /-- RDC_LINE_LEAVE: R297. -/
  | rdcLineLeave (die line : Nat)
  /-- LINK_RETRAINED: R428. -/
  | linkRetrained (quay : Nat)
  /-- POWER_DOWN: R456. -/
  | powerDown
  /-- SPDM_REQUEST: R425, R426. -/
  | spdmRequest (vf code : Nat)
  /-- TDISP_REQUEST: R424. -/
  | tdispRequest (vf : Nat) (run : Bool)
  /-- SRIOV_VF_ENABLE: R366: the driver enables VFs 1 to n and disables the others. -/
  | sriovVfEnable (n : Nat)
deriving DecidableEq, Repr

end Sys2Proof
end

