-- ==== Sys2Proof/WellFormed.lean ====
section
/-! DEFINITION. Which terms of the syntax are instructions the encoding admits: the field rules of R77, R78, R85 to R88,
R109 to R139, R162, R177, R198, R204 to R224, R242 to R246, as predicates on field values, and `Instr.wf`. -/

namespace Sys2Proof

/-- Queue codes 13 to 15 are reserved (R30). -/
def badCode (q : BitVec 4) : Bool := decide (12 < q.toNat)

/-- Scope codes 5 to 7 are reserved (R142). -/
def badScope (s : BitVec 3) : Bool := decide (4 < s.toNat)

/-- POS and LEN of BFX and BFI (R109). -/
def badPosLen (pos : BitVec 6) (len : BitVec 7) : Bool :=
  decide (len.toNat = 0) || decide (64 < len.toNat) || decide (64 < pos.toNat + len.toNat)

/-- BODYLEN of LOOP is 1 to 256 (R124). -/
def badBodyLen (n : BitVec 9) : Bool := decide (n.toNat = 0) || decide (256 < n.toNat)

/-- The CSR numbers of R35. -/
def csrListed (n : BitVec 12) : Bool :=
  decide (n.toNat ≤ 0x00E) || (decide (0x010 ≤ n.toNat) && decide (n.toNat ≤ 0x01D)) ||
    (decide (0x020 ≤ n.toNat) && decide (n.toNat ≤ 0x03F))

/-- Format codes 0xC to 0xF are reserved (R39). -/
def badFmt (f : BitVec 4) : Bool := decide (0xB < f.toNat)

/-- The vector formats (R203). -/
def badVf (f : BitVec 4) : Bool :=
  !(f == 0x0 || f == 0x1 || f == 0x2 || f == 0x7 || f == 0x9 || f == 0xA)

/-- FP32, BF16 and FP16 (R209). -/
def isFloatVf (f : BitVec 4) : Bool := f == 0x0 || f == 0x1 || f == 0x2

/-- INT8, INT16 and INT32 (R211). -/
def isIntVf (f : BitVec 4) : Bool := f == 0x7 || f == 0x9 || f == 0xA

/-- The PLAIN formats of R47 other than INT64, for TFILL (R198). -/
def badPlainFmt (f : BitVec 4) : Bool :=
  !(f == 0x0 || f == 0x1 || f == 0x2 || f == 0x3 || f == 0x4 || f == 0x7 || f == 0x9 || f == 0xA)

/-- Q = w / 8 of TFILL.ident (R198): 4 for 32-bit formats, 2 for 16-bit, 1 for 8-bit. -/
def identQ (f : BitVec 4) : Nat :=
  if f == 0x0 || f == 0xA then 4 else if f == 0x1 || f == 0x2 || f == 0x9 then 2 else 1

/-- An IDENT count that is not a multiple of Q (R198). -/
def badIdentCount (f : BitVec 4) (nm1 : BitVec 5) : Bool := decide ((nm1.toNat + 1) % identQ f ≠ 0)

/-- ROW of ACC.WM is 0 to 128 (R177). -/
def badRow (r : BitVec 8) : Bool := decide (128 < r.toNat)

/-- ROWS of a shape that R17 refuses; a product above 1,024 offends both fields, and the spec names neither:
it is charged to ROWS (DETAIL 11), the higher of the two, or to COLS where COLS itself is above 1,024: DESIGN CHOICE (log 93). -/
def badShapeRows (rows cols : BitVec 11) : Bool :=
  decide (rows.toNat = 0) || decide (1024 < rows.toNat) ||
    (decide (cols.toNat ≤ 1024) && decide (1024 < rows.toNat * cols.toNat))

/-- COLS of a shape that R17 refuses. -/
def badShapeCols (cols : BitVec 11) : Bool := decide (cols.toNat = 0) || decide (1024 < cols.toNat)

/-- VSHAPE [23:0] holds a value that R17 allows. -/
def shapeOk (v : BitVec 24) : Bool :=
  v.extractLsb' 22 2 != 3 && !badShapeRows (v.extractLsb' 11 11) (v.extractLsb' 0 11) && !badShapeCols (v.extractLsb' 0 11)

/-- MOD of VMIN, VMAX, VABS and VNEG (R210). -/
def badMinMaxMod (vf : BitVec 4) (md : BitVec 2) : Bool :=
  if isFloatVf vf then md != 0 else md == 2 || md == 3

/-- MOD of VCMP (R213). -/
def badCmpMod (vf : BitVec 4) (md cond : BitVec 2) : Bool :=
  md == 2 || md == 3 || (md == 1 && (isFloatVf vf || cond == 0 || cond == 1))

/-- MOD of VRED and VSCAN (R204, R210, R220): for floating point the rounding mode of add and 0 for max and min; for
integers 0b1x is reserved. -/
def badRedMod (vf : BitVec 4) (md op : BitVec 2) : Bool :=
  if isFloatVf vf then op != 0 && md != 0 else md == 2 || md == 3

/-- DFMT of VCVT: a vector format in the register form, any format but INT64 in the window form (R218). -/
def badCvtFmt (towin : BitVec 1) (f : BitVec 4) : Bool :=
  if towin == 0 then badVf f else decide (0xA < f.toNat)

/-- The wait and post codes of an E-format word (R30, R79). -/
def Sync.wf (y : Sync) : Bool := !(badCode y.w0 || badCode y.w1 || badCode y.w2 || badCode y.pq)

/-- MK is 0 when MKEN = 0 (R204). -/
def maskWf (mken : Bool) (mm : BitVec 3) : Bool := mken || mm == 0

/-- The guard of an instruction that may not be boosted (R87). -/
def Guard.plain (g : Guard) : Bool := g.boost == 0

/-- The guard of an instruction that may be boosted: level 3 is reserved (R75). -/
def Guard.wf (g : Guard) : Bool := g.boost != 3

/-- A vector word of the common layout with a vector format (R204). -/
def VOp.wfV (o : VOp) : Bool := !badVf o.vf && maskWf o.mken o.mm

/-- The unary moves: VB and MOD are unused (R212). -/
def VOp.wfMove (o : VOp) : Bool := o.wfV && o.vb == 0 && o.md == 0

/-- The floating-point arithmetic (R209). -/
def VOp.wfFloat (o : VOp) : Bool := isFloatVf o.vf && maskWf o.mken o.mm

/-- The integer arithmetic (R211). -/
def VOp.wfInt (o : VOp) : Bool := isIntVf o.vf && maskWf o.mken o.mm

/-- The special-function instructions (R224). -/
def VOp.wfSfu (o : VOp) : Bool := o.vf == 0 && maskWf o.mken o.mm

/-- The fields of VRED and VSCAN in place of VB (R220). -/
def VOp.wfRed (o : VOp) : Bool :=
  o.wfV && o.vb.extractLsb' 3 2 != 3 && o.vb.extractLsb' 0 1 == 0 && !badRedMod o.vf o.md (o.vb.extractLsb' 3 2)

/-- The fields of VLD and VST (R215). -/
def memVWf (port : Bool) (win : BitVec 6) (xo : BitVec 5) (vf : BitVec 4) (mken : Bool) (mm : BitVec 3) : Bool :=
  (!port || (win.extractLsb' 2 4 == 0 && xo == 0)) && !badVf vf && maskWf mken mm

/-- Every field of the term holds a value that the instruction's encoding admits; an event is always well formed. -/
def Instr.wf : Instr → Bool
  | .add g _ _ _ => g.wf
  | .sub g _ _ _ => g.wf
  | .and g _ _ _ => g.wf
  | .or g _ _ _ => g.wf
  | .xor g _ _ _ => g.wf
  | .shl g _ _ _ => g.wf
  | .shr g _ _ _ => g.wf
  | .sar g _ _ _ => g.wf
  | .mul g _ _ _ => g.wf
  | .mulhu g _ _ _ => g.wf
  | .mulhs g _ _ _ => g.wf
  | .divu g _ _ _ => g.wf
  | .remu g _ _ _ => g.wf
  | .min g _ _ _ => g.wf
  | .max g _ _ _ => g.wf
  | .minu g _ _ _ => g.wf
  | .maxu g _ _ _ => g.wf
  | .clz g _ _ => g.wf
  | .popc g _ _ => g.wf
  | .bfx g _ _ pos len _ => g.wf && !badPosLen pos len
  | .bfi g _ _ pos len => g.wf && !badPosLen pos len
  | .mov g _ _ => g.wf
  | .addi g _ _ _ => g.wf
  | .andi g _ _ _ => g.wf
  | .ori g _ _ _ => g.wf
  | .xori g _ _ _ => g.wf
  | .li g _ _ => g.wf
  | .lih g _ _ _ => g.wf
  | .cmpEq g _ _ _ => g.wf
  | .cmpNe g _ _ _ => g.wf
  | .cmpLt g _ _ _ => g.wf
  | .cmpLe g _ _ _ => g.wf
  | .cmpLtu g _ _ _ => g.wf
  | .cmpLeu g _ _ _ => g.wf
  | .pand g _ _ _ _ _ => g.wf
  | .por g _ _ _ _ _ => g.wf
  | .pnot g _ _ => g.wf
  | .sel g _ _ _ _ _ => g.wf
  | .pbt g _ _ _ => g.plain
  | .bt g _ commit _ _ => g.plain && commit != 3
  | .call g _ _ => g.plain
  | .ret g _ => g.plain
  | .loop g _ a icount bodylen => g.plain && !badBodyLen bodylen && (a == 0 || icount == 0)
  | .brk g => g.plain
  | .trig g => g.plain
  | .exit g => g.plain
  | .nop g => g.plain
  | .cmtb g => g.plain
  | .clrb g => g.plain
  | .vany g _ _ mb masked => g.plain && (masked || mb == 0)
  | .vall g _ _ mb masked => g.plain && (masked || mb == 0)
  | .ld g _ _ w u acq scope _ => g.wf && (!acq || g.boost == 0) && !badScope scope && (acq || scope == 0) && !(u && w == 3)
  | .loadReturn _ _ => true
  | .st g _ _ _ rel scope _ => g.plain && !badScope scope && (rel || scope == 0)
  | .accessPerform _ => true
  | .lds g _ _ w u _ => g.wf && !(u && w == 3)
  | .sts g _ _ _ _ => g.plain
  | .mark g => g.plain
  | .fence g scope _ => g.plain && !badScope scope
  | .amoAdd g _ _ _ scope _ => g.plain && !badScope scope
  | .amoAnd g _ _ _ scope _ => g.plain && !badScope scope
  | .amoOr g _ _ _ scope _ => g.plain && !badScope scope
  | .amoXor g _ _ _ scope _ => g.plain && !badScope scope
  | .amoMin g _ _ _ scope _ => g.plain && !badScope scope
  | .amoMax g _ _ _ scope _ => g.plain && !badScope scope
  | .amoMinu g _ _ _ scope _ => g.plain && !badScope scope
  | .amoMaxu g _ _ _ scope _ => g.plain && !badScope scope
  | .amoSwap g _ _ _ scope _ => g.plain && !badScope scope
  | .cas g _ _ _ scope _ => g.plain && !badScope scope
  | .pinRetry _ _ => true
  | .pinTimeout _ _ => true
  | .tkwait g q0 q1 q2 => g.plain && !(badCode q0 || badCode q1 || badCode q2)
  | .tkpost g q => g.plain && !badCode q && q != 0
  | .tokenDeadlock _ => true
  | .fqpush g _ _ => g.plain
  | .sqpush g _ _ _ => g.plain
  | .ypop g _ => g.plain
  | .qcancel g _ _ => g.plain
  | .fqLeftover _ => true
  | .iterationRetire _ => true
  | .barInit g _ expect => g.plain && expect != 0
  | .barArv g _ _ => g.plain
  | .barExp g d _ _ arv => g.plain && (arv || d == 0)
  | .barWait g _ _ => g.plain
  | .barTest g _ _ _ => g.plain
  | .tideRd g _ => g.plain
  | .regionTimed g _ _ => g.plain
  | .tideBase g _ => g.plain
  | .regionLocked g => g.plain
  | .scheduleMiss _ => true
  | .regionRestart _ => true
  | .csrr g _ csr => g.plain && csrListed csr
  | .csrw g _ csr => g.plain && csrListed csr
  | .jnlbaseApply _ => true
  | .syscInfo g n => g.plain && n != 1 && n != 2 && n != 3
  | .syscLog g => g.plain
  | .syscPrefault g => g.plain
  | .syscYield g => g.plain
  | .trap g _ => g.plain
  | .bkpt g _ => g.plain
  | .opbind g _ _ _ _ => g.plain
  | .bundleFetch _ _ _ => true
  | .engineIssue _ _ => true
  | .mma y _ _ _ _ => y.wf
  | .mmaS y _ _ _ _ => y.wf
  | .mmaC y _ _ _ _ => y.wf
  | .accZero y _ _ => y.wf
  | .accLd y _ _ _ => y.wf
  | .accRd y _ _ _ _ _ => y.wf
  | .accRdx y _ _ _ => y.wf
  | .accRebase y _ n => y.wf && n != 0
  | .accWm y _ _ row => y.wf && !badRow row
  | .accStat y _ _ _ => y.wf
  | .tdRd y _ kind index => y.wf && (!kind || index.extractLsb' 5 5 == 0)
  | .tfillZero y _ _ => y.wf
  | .tfillConst y fmt _ _ _ => y.wf && !badPlainFmt fmt
  | .tfillIdent y fmt _ nm1 => y.wf && !badPlainFmt fmt && !badIdentCount fmt nm1
  | .matrixComplete _ => true
  | .vshape y shape => y.wf && shapeOk shape
  | .vld y _ port win xo vf mken mm => y.wf && memVWf port win xo vf mken mm
  | .vst y _ port win xo vf mken mm => y.wf && memVWf port win xo vf mken mm
  | .vmov y o => y.wf && o.wfMove
  | .vbcast y o => y.wf && o.wfMove
  | .vadd y o => y.wf && o.wfFloat
  | .vsub y o => y.wf && o.wfFloat
  | .vmul y o => y.wf && o.wfFloat
  | .vfma y o => y.wf && o.wfFloat
  | .vmin y o => y.wf && o.wfV && !badMinMaxMod o.vf o.md
  | .vmax y o => y.wf && o.wfV && !badMinMaxMod o.vf o.md
  | .vabs y o => y.wf && o.wfV && o.vb == 0 && !badMinMaxMod o.vf o.md
  | .vneg y o => y.wf && o.wfV && o.vb == 0 && !badMinMaxMod o.vf o.md
  | .vand y o => y.wf && o.wfV && o.md == 0
  | .vor y o => y.wf && o.wfV && o.md == 0
  | .vxor y o => y.wf && o.wfV && o.md == 0
  | .vshl y o => y.wf && o.wfInt && o.md == 0
  | .vshr y o => y.wf && o.wfInt && o.md != 2 && o.md != 3
  | .viadd y o => y.wf && o.wfInt && o.md != 3
  | .vimul y o => y.wf && o.wfInt
  | .vcmp y o => y.wf && o.wfV && !badCmpMod o.vf o.md (o.vd.extractLsb' 3 2)
  | .vsel y o => y.wf && !badVf o.vf && o.md == 0 && o.mken
  | .vcvt y towin dst _ dfmt vf _ _ dsmode => y.wf && (towin || (dst.extractLsb' 5 1 == 0 && !dsmode)) && !badCvtFmt (BitVec.ofBool towin) dfmt && !badVf vf
  | .vred y o => y.wf && o.wfRed && o.vb.extractLsb' 1 1 == 0
  | .vscan y o => y.wf && o.wfRed
  | .vtrn y o => y.wf && o.wfMove && !o.mken
  | .vperm y o => y.wf && o.wfV && o.md == 0
  | .vext y _ _ _ vf _ => y.wf && !badVf vf
  | .vrcp y o => y.wf && o.wfSfu && o.vb == 0 && o.md == 0
  | .vrsq y o => y.wf && o.wfSfu && o.vb == 0 && o.md == 0
  | .vrcps y o => y.wf && o.wfSfu
  | .vrsqs y o => y.wf && o.wfSfu
  | .vexp2 y o => y.wf && o.wfSfu && o.vb == 0
  | .vlog2 y o => y.wf && o.wfSfu && o.vb == 0
  | .vectorLand _ _ => true
  | .twdef g _ _ _ => g.plain
  | .agset g _ _ => g.plain
  | .spbindIn g _ _ _ _ fmt layout _ => g.plain && !badFmt fmt && layout != 3
  | .spbindOut g _ _ fmt => g.plain && !badFmt fmt
  | .spbindOff g _ => g.plain
  | .streamPortFetch _ _ => true
  | .outputPortWrite _ _ => true
  | .cpy y _ _ _ _ bar baren => y.wf && y.stamp == 0 && (baren || bar == 0)
  | .cpyNd y mode win sag dag bar baren => y.wf && y.stamp == 0 && mode != 3 && (mode != 0 || win == 0) && (mode != 2 || sag == 0) && (mode != 1 || dag == 0) && (baren || bar == 0)
  | .copyPiecePerform _ _ _ => true
  | .copyComplete _ _ => true
  | .collStart g _ _ _ _ _ => g.plain
  | .uop opc w0 w1 w2 pq _ => decide (0xC0 ≤ opc.toNat) && !(badCode w0 || badCode w1 || badCode w2 || badCode pq)
  | .ldeLoad _ _ _ => true
  | .ldeVerify _ _ => true
  | .gatherRows _ => true
  | .gatherElem _ => true
  | .scatterRows _ => true
  | .scatterAdd _ => true
  | .mergeAdd _ => true
  | .ieBatchComplete _ => true
  | .sqCommandEnd _ _ => true
  | .collEntryStart _ => true
  | .send _ => true
  | .recv _ => true
  | .recvXadd _ => true
  | .recvFadd _ => true
  | .fwd _ => true
  | .collMessageArrive _ _ => true
  | .collEntryEnd _ => true
  | .faultStop _ => true
  | .frameClose _ => true
  | .holdAbortTimeout _ => true
  | .faultRecordTimeout _ => true
  | .restoreContext _ _ => true
  | .placeIteration _ _ => true
  | .placeCohort _ => true
  | .triggerRelease _ => true
  | .periodStart => true
  | .newcomerTimeout _ => true
  | .drainRedecide _ => true
  | .quantumExpire _ => true
  | .leaseGrant _ => true
  | .leaseForceCheckpoint _ => true
  | .leaseOutcome _ _ => true
  | .leaseHoldLimit _ => true
  | .rotationLease _ _ => true
  | .watchLease _ _ => true
  | .scoreDecay => true
  | .quayLeaseDefer _ => true
  | .channelHold _ _ => true
  | .channelHoldEnd _ _ => true
  | .quayFlitSend _ => true
  | .flitReceive _ _ _ => true
  | .nakReceive _ _ => true
  | .linkDown _ => true
  | .wridxFetchadd _ _ _ => true
  | .wridxDoorbell _ _ _ => true
  | .ringcfgWrite _ _ _ => true
  | .rdmirrorWrite _ _ _ => true
  | .halt _ _ => true
  | .resume _ _ => true
  | .cancel _ _ => true
  | .kill _ _ => true
  | .reset _ _ => true
  | .registerWrite _ _ _ _ => true
  | .commandAccept _ _ => true
  | .launch _ _ => true
  | .invoke _ _ => true
  | .graph _ _ => true
  | .berthLoad _ _ => true
  | .berthDrop _ _ => true
  | .berthFree _ _ => true
  | .signal _ _ => true
  | .wait _ _ => true
  | .waitTimeout _ _ => true
  | .fenceCommand _ _ => true
  | .nopCommand _ _ => true
  | .capture _ _ => true
  | .replay _ _ => true
  | .commandComplete _ _ _ => true
  | .launchNode _ => true
  | .copyNode _ => true
  | .cond _ => true
  | .loopNode _ => true
  | .signalNode _ => true
  | .waitNode _ => true
  | .tokgrantSet _ _ _ => true
  | .vfctlSet _ _ _ _ _ => true
  | .drainSet _ _ _ => true
  | .l2clsWrite _ _ _ _ => true
  | .l2monWrite _ _ _ => true
  | .l2flush _ _ _ => true
  | .l2cntRead _ _ _ => true
  | .sleeveSet _ _ _ _ _ _ _ _ => true
  | .sleeveJoin _ _ _ _ _ => true
  | .matWrite _ _ _ _ _ _ _ => true
  | .ptEdit _ _ _ _ _ => true
  | .migTrack _ _ => true
  | .migDirty _ _ _ _ _ => true
  | .migStop _ _ => true
  | .pagingSet _ _ _ _ => true
  | .faultDone _ _ _ => true
  | .dbgAttach _ _ => true
  | .dbgRead _ _ _ => true
  | .dbgWrite _ _ _ _ => true
  | .dbgResume _ _ _ => true
  | .dbgDetach _ _ => true
  | .logRead _ => true
  | .leaseList _ _ _ => true
  | .scoreRead _ _ _ => true
  | .retireList _ => true
  | .dryCtl _ _ _ => true
  | .dryLocate _ _ _ _ _ => true
  | .keyLoad _ _ _ _ => true
  | .vfReset _ _ => true
  | .qbwSet _ _ _ _ => true
  | .commSet _ _ _ _ _ _ => true
  | .flr _ => true
  | .tdispError _ => true
  | .coldReset _ => true
  | .warmReset _ => true
  | .sidebandCold _ => true
  | .sidebandWarm _ => true
  | .sidebandStatus => true
  | .sidebandLoad _ => true
  | .pwrstatWrite _ => true
  | .powerWindow _ => true
  | .holdAnswer _ _ => true
  | .rdcLineLeave _ _ => true
  | .linkRetrained _ => true
  | .powerDown => true
  | .quantumCheckpoint _ => true
  | .spdmRequest _ _ => true
  | .tdispRequest _ _ => true
  | .sriovVfEnable _ => true

/-- The instructions that carry a guard with a non-zero BOOST. -/
def Instr.boosted : Instr → Bool
  | .add g _ _ _ => g.boost != 0
  | .sub g _ _ _ => g.boost != 0
  | .and g _ _ _ => g.boost != 0
  | .or g _ _ _ => g.boost != 0
  | .xor g _ _ _ => g.boost != 0
  | .shl g _ _ _ => g.boost != 0
  | .shr g _ _ _ => g.boost != 0
  | .sar g _ _ _ => g.boost != 0
  | .mul g _ _ _ => g.boost != 0
  | .mulhu g _ _ _ => g.boost != 0
  | .mulhs g _ _ _ => g.boost != 0
  | .divu g _ _ _ => g.boost != 0
  | .remu g _ _ _ => g.boost != 0
  | .min g _ _ _ => g.boost != 0
  | .max g _ _ _ => g.boost != 0
  | .minu g _ _ _ => g.boost != 0
  | .maxu g _ _ _ => g.boost != 0
  | .clz g _ _ => g.boost != 0
  | .popc g _ _ => g.boost != 0
  | .bfx g _ _ _ _ _ => g.boost != 0
  | .bfi g _ _ _ _ => g.boost != 0
  | .mov g _ _ => g.boost != 0
  | .addi g _ _ _ => g.boost != 0
  | .andi g _ _ _ => g.boost != 0
  | .ori g _ _ _ => g.boost != 0
  | .xori g _ _ _ => g.boost != 0
  | .li g _ _ => g.boost != 0
  | .lih g _ _ _ => g.boost != 0
  | .cmpEq g _ _ _ => g.boost != 0
  | .cmpNe g _ _ _ => g.boost != 0
  | .cmpLt g _ _ _ => g.boost != 0
  | .cmpLe g _ _ _ => g.boost != 0
  | .cmpLtu g _ _ _ => g.boost != 0
  | .cmpLeu g _ _ _ => g.boost != 0
  | .pand g _ _ _ _ _ => g.boost != 0
  | .por g _ _ _ _ _ => g.boost != 0
  | .pnot g _ _ => g.boost != 0
  | .sel g _ _ _ _ _ => g.boost != 0
  | .pbt g _ _ _ => g.boost != 0
  | .bt g _ _ _ _ => g.boost != 0
  | .call g _ _ => g.boost != 0
  | .ret g _ => g.boost != 0
  | .loop g _ _ _ _ => g.boost != 0
  | .brk g => g.boost != 0
  | .trig g => g.boost != 0
  | .exit g => g.boost != 0
  | .nop g => g.boost != 0
  | .cmtb g => g.boost != 0
  | .clrb g => g.boost != 0
  | .vany g _ _ _ _ => g.boost != 0
  | .vall g _ _ _ _ => g.boost != 0
  | .ld g _ _ _ _ _ _ _ => g.boost != 0
  | .st g _ _ _ _ _ _ => g.boost != 0
  | .lds g _ _ _ _ _ => g.boost != 0
  | .sts g _ _ _ _ => g.boost != 0
  | .mark g => g.boost != 0
  | .fence g _ _ => g.boost != 0
  | .amoAdd g _ _ _ _ _ => g.boost != 0
  | .amoAnd g _ _ _ _ _ => g.boost != 0
  | .amoOr g _ _ _ _ _ => g.boost != 0
  | .amoXor g _ _ _ _ _ => g.boost != 0
  | .amoMin g _ _ _ _ _ => g.boost != 0
  | .amoMax g _ _ _ _ _ => g.boost != 0
  | .amoMinu g _ _ _ _ _ => g.boost != 0
  | .amoMaxu g _ _ _ _ _ => g.boost != 0
  | .amoSwap g _ _ _ _ _ => g.boost != 0
  | .cas g _ _ _ _ _ => g.boost != 0
  | .tkwait g _ _ _ => g.boost != 0
  | .tkpost g _ => g.boost != 0
  | .fqpush g _ _ => g.boost != 0
  | .sqpush g _ _ _ => g.boost != 0
  | .ypop g _ => g.boost != 0
  | .qcancel g _ _ => g.boost != 0
  | .barInit g _ _ => g.boost != 0
  | .barArv g _ _ => g.boost != 0
  | .barExp g _ _ _ _ => g.boost != 0
  | .barWait g _ _ => g.boost != 0
  | .barTest g _ _ _ => g.boost != 0
  | .tideRd g _ => g.boost != 0
  | .regionTimed g _ _ => g.boost != 0
  | .tideBase g _ => g.boost != 0
  | .regionLocked g => g.boost != 0
  | .csrr g _ _ => g.boost != 0
  | .csrw g _ _ => g.boost != 0
  | .syscInfo g _ => g.boost != 0
  | .syscLog g => g.boost != 0
  | .syscPrefault g => g.boost != 0
  | .syscYield g => g.boost != 0
  | .trap g _ => g.boost != 0
  | .bkpt g _ => g.boost != 0
  | .opbind g _ _ _ _ => g.boost != 0
  | .twdef g _ _ _ => g.boost != 0
  | .agset g _ _ => g.boost != 0
  | .spbindIn g _ _ _ _ _ _ _ => g.boost != 0
  | .spbindOut g _ _ _ => g.boost != 0
  | .spbindOff g _ => g.boost != 0
  | .collStart g _ _ _ _ _ => g.boost != 0
  | _ => false

/-- The instructions of R87: those of 0x00 to 0x0D, LD without ACQ, and LDS. -/
def Instr.boostable : Instr → Bool
  | .add _ _ _ _ => true
  | .sub _ _ _ _ => true
  | .and _ _ _ _ => true
  | .or _ _ _ _ => true
  | .xor _ _ _ _ => true
  | .shl _ _ _ _ => true
  | .shr _ _ _ _ => true
  | .sar _ _ _ _ => true
  | .mul _ _ _ _ => true
  | .mulhu _ _ _ _ => true
  | .mulhs _ _ _ _ => true
  | .divu _ _ _ _ => true
  | .remu _ _ _ _ => true
  | .min _ _ _ _ => true
  | .max _ _ _ _ => true
  | .minu _ _ _ _ => true
  | .maxu _ _ _ _ => true
  | .clz _ _ _ => true
  | .popc _ _ _ => true
  | .bfx _ _ _ _ _ _ => true
  | .bfi _ _ _ _ _ => true
  | .mov _ _ _ => true
  | .addi _ _ _ _ => true
  | .andi _ _ _ _ => true
  | .ori _ _ _ _ => true
  | .xori _ _ _ _ => true
  | .li _ _ _ => true
  | .lih _ _ _ _ => true
  | .cmpEq _ _ _ _ => true
  | .cmpNe _ _ _ _ => true
  | .cmpLt _ _ _ _ => true
  | .cmpLe _ _ _ _ => true
  | .cmpLtu _ _ _ _ => true
  | .cmpLeu _ _ _ _ => true
  | .pand _ _ _ _ _ _ => true
  | .por _ _ _ _ _ _ => true
  | .pnot _ _ _ => true
  | .sel _ _ _ _ _ _ => true
  | .ld _ _ _ _ _ acq _ _ => !acq
  | .lds _ _ _ _ _ _ => true
  | _ => false

end Sys2Proof
end

