-- ==== Sys2Proof/Decode.lean ====
section
/-! DEFINITION. Decoding a 64-bit word and encoding an instruction (R74 to R91).
The checks of R91 that read only the word are here (steps 1 and 5); the steps that read the stream, FEATMASK, the binding
table and the region are in `checkWord`, which takes them as an environment. DETAIL is the low bit of the highest
offending field. -/

namespace Sys2Proof

/-- Bits [lo + wd − 1 : lo] of a word. -/
abbrev fld (w : Word) (lo wd : Nat) : BitVec wd := w.extractLsb' lo wd

/-- One bit of a word. -/
abbrev bit (w : Word) (i : Nat) : Bool := w.getLsbD i

/-- BOOST, GN and GP of an X-format word (R75). -/
def guardOf (w : Word) : Guard := ⟨fld w 54 2, bit w 53, fld w 50 3⟩

/-- The synchronisation fields of an E-format word (R79). -/
def syncOf (w : Word) : Sync := ⟨fld w 52 4, fld w 48 4, fld w 44 4, fld w 40 4, fld w 26 14⟩

/-- The common layout of a vector word (R204). -/
def vopOf (w : Word) : VOp :=
  ⟨fld w 21 5, fld w 16 5, fld w 11 5, fld w 7 4, fld w 5 2, bit w 4, fld w 1 3⟩

/-- The service that the IMM of SYSC names (R173). -/
def syscOf (g : Guard) (n : BitVec 32) : Instr :=
  if n = 1 then .syscLog g else if n = 2 then .syscPrefault g else if n = 3 then .syscYield g else .syscInfo g n

/-- The major opcodes of the E format (R88). -/
def isEOpc (o : Nat) : Bool :=
  (0x60 ≤ o && o ≤ 0x6B) || (0x70 ≤ o && o ≤ 0x8B) || (0x90 ≤ o && o ≤ 0x95) || o == 0x9B || o == 0x9C

/-- The major opcodes of the U format (R81). -/
def isUOpc (o : Nat) : Bool := 0xC0 ≤ o

/-- The major opcodes of the X format (R83, R84, R88); 0x5F is accepted only where R90 says. -/
def isXOpc (o : Nat) : Bool :=
  o ≤ 0x0D || (0x20 ≤ o && o ≤ 0x2A) || (0x30 ≤ o && o ≤ 0x37) || (0x40 ≤ o && o ≤ 0x48) ||
    (0x50 ≤ o && o ≤ 0x54) || o == 0x5F || (0x98 ≤ o && o ≤ 0x9A) || o == 0xA8

/-- A major opcode that R82 leaves reserved. -/
def reservedOpc (o : Nat) : Bool := !(isXOpc o || isEOpc o || isUOpc o)

/-- The instruction that an X-format word of major opcode `o` stands for, once its fields are known to be allowed
(R83, R84); `none` for a reserved SUB. -/
def buildX (w : Word) : Option Instr :=
  let g := guardOf w
  let sub := (fld w 32 3).toNat
  match (fld w 56 8).toNat with
  | 0x00 =>
    match sub with
    | 0 => some (.add g (fld w 45 5) (fld w 40 5) (fld w 35 5))
    | 1 => some (.sub g (fld w 45 5) (fld w 40 5) (fld w 35 5))
    | 2 => some (.and g (fld w 45 5) (fld w 40 5) (fld w 35 5))
    | 3 => some (.or g (fld w 45 5) (fld w 40 5) (fld w 35 5))
    | 4 => some (.xor g (fld w 45 5) (fld w 40 5) (fld w 35 5))
    | 5 => some (.shl g (fld w 45 5) (fld w 40 5) (fld w 35 5))
    | 6 => some (.shr g (fld w 45 5) (fld w 40 5) (fld w 35 5))
    | 7 => some (.sar g (fld w 45 5) (fld w 40 5) (fld w 35 5))
    | _ => none
  | 0x01 =>
    match sub with
    | 0 => some (.mul g (fld w 45 5) (fld w 40 5) (fld w 35 5))
    | 1 => some (.mulhu g (fld w 45 5) (fld w 40 5) (fld w 35 5))
    | 2 => some (.mulhs g (fld w 45 5) (fld w 40 5) (fld w 35 5))
    | 3 => some (.divu g (fld w 45 5) (fld w 40 5) (fld w 35 5))
    | 4 => some (.remu g (fld w 45 5) (fld w 40 5) (fld w 35 5))
    | _ => none
  | 0x02 =>
    match sub with
    | 0 => some (.min g (fld w 45 5) (fld w 40 5) (fld w 35 5))
    | 1 => some (.max g (fld w 45 5) (fld w 40 5) (fld w 35 5))
    | 2 => some (.minu g (fld w 45 5) (fld w 40 5) (fld w 35 5))
    | 3 => some (.maxu g (fld w 45 5) (fld w 40 5) (fld w 35 5))
    | _ => none
  | 0x03 =>
    match sub with
    | 0 => some (.clz g (fld w 45 5) (fld w 40 5))
    | 1 => some (.popc g (fld w 45 5) (fld w 40 5))
    | 2 => some (.bfx g (fld w 45 5) (fld w 40 5) (fld w 0 6) (fld w 6 7) (bit w 13))
    | 3 => some (.bfi g (fld w 45 5) (fld w 40 5) (fld w 0 6) (fld w 6 7))
    | _ => none
  | 0x04 =>
    match sub with
    | 0 => some (.addi g (fld w 45 5) (fld w 40 5) (fld w 0 32))
    | _ => none
  | 0x05 =>
    match sub with
    | 0 => some (.andi g (fld w 45 5) (fld w 40 5) (fld w 0 32))
    | _ => none
  | 0x06 =>
    match sub with
    | 0 => some (.ori g (fld w 45 5) (fld w 40 5) (fld w 0 32))
    | _ => none
  | 0x07 =>
    match sub with
    | 0 => some (.xori g (fld w 45 5) (fld w 40 5) (fld w 0 32))
    | _ => none
  | 0x08 =>
    match sub with
    | 0 => some (.li g (fld w 45 5) (fld w 0 32))
    | _ => none
  | 0x09 =>
    match sub with
    | 0 => some (.lih g (fld w 45 5) (fld w 40 5) (fld w 0 32))
    | _ => none
  | 0x0A =>
    match sub with
    | 0 => some (.mov g (fld w 45 5) (fld w 40 5))
    | _ => none
  | 0x0B =>
    match sub with
    | 0 => some (.sel g (fld w 45 5) (fld w 40 5) (fld w 35 5) (fld w 0 3) (bit w 3))
    | _ => none
  | 0x0C =>
    match sub with
    | 0 => some (.cmpEq g (fld w 45 3) (fld w 40 5) (fld w 35 5))
    | 1 => some (.cmpNe g (fld w 45 3) (fld w 40 5) (fld w 35 5))
    | 2 => some (.cmpLt g (fld w 45 3) (fld w 40 5) (fld w 35 5))
    | 3 => some (.cmpLe g (fld w 45 3) (fld w 40 5) (fld w 35 5))
    | 4 => some (.cmpLtu g (fld w 45 3) (fld w 40 5) (fld w 35 5))
    | 5 => some (.cmpLeu g (fld w 45 3) (fld w 40 5) (fld w 35 5))
    | _ => none
  | 0x0D =>
    match sub with
    | 0 => some (.pand g (fld w 45 3) (fld w 40 3) (fld w 35 3) (bit w 0) (bit w 1))
    | 1 => some (.por g (fld w 45 3) (fld w 40 3) (fld w 35 3) (bit w 0) (bit w 1))
    | 2 => some (.pnot g (fld w 45 3) (fld w 40 3))
    | _ => none
  | 0x20 =>
    match sub with
    | 0 => some (.pbt g (fld w 45 2) (fld w 40 5) (fld w 0 32))
    | _ => none
  | 0x21 =>
    match sub with
    | 0 => some (.bt g (fld w 45 2) (fld w 4 2) (bit w 3) (fld w 0 3))
    | _ => none
  | 0x22 =>
    match sub with
    | 0 => some (.call g (fld w 45 5) (fld w 0 2))
    | _ => none
  | 0x23 =>
    match sub with
    | 0 => some (.ret g (fld w 40 5))
    | _ => none
  | 0x24 =>
    match sub with
    | 0 => some (.loop g (fld w 45 2) (fld w 40 5) (fld w 9 23) (fld w 0 9))
    | _ => none
  | 0x25 =>
    match sub with
    | 0 => some (.brk g)
    | _ => none
  | 0x26 =>
    match sub with
    | 0 => some (.trig g)
    | _ => none
  | 0x27 =>
    match sub with
    | 0 => some (.exit g)
    | _ => none
  | 0x28 =>
    match sub with
    | 0 => some (.nop g)
    | _ => none
  | 0x29 =>
    match sub with
    | 0 => some (.cmtb g)
    | 1 => some (.clrb g)
    | _ => none
  | 0x2A =>
    match sub with
    | 0 => some (.vany g (fld w 45 3) (fld w 40 3) (fld w 35 3) (bit w 0))
    | 1 => some (.vall g (fld w 45 3) (fld w 40 3) (fld w 35 3) (bit w 0))
    | _ => none
  | 0x30 =>
    match sub with
    | 0 => some (.ld g (fld w 45 5) (fld w 40 5) 0 (bit w 35) (bit w 36) (fld w 37 3) (fld w 0 32))
    | 1 => some (.ld g (fld w 45 5) (fld w 40 5) 1 (bit w 35) (bit w 36) (fld w 37 3) (fld w 0 32))
    | 2 => some (.ld g (fld w 45 5) (fld w 40 5) 2 (bit w 35) (bit w 36) (fld w 37 3) (fld w 0 32))
    | 3 => some (.ld g (fld w 45 5) (fld w 40 5) 3 (bit w 35) (bit w 36) (fld w 37 3) (fld w 0 32))
    | _ => none
  | 0x31 =>
    match sub with
    | 0 => some (.st g (fld w 40 5) (fld w 35 5) 0 (bit w 46) (fld w 47 3) (fld w 0 32))
    | 1 => some (.st g (fld w 40 5) (fld w 35 5) 1 (bit w 46) (fld w 47 3) (fld w 0 32))
    | 2 => some (.st g (fld w 40 5) (fld w 35 5) 2 (bit w 46) (fld w 47 3) (fld w 0 32))
    | 3 => some (.st g (fld w 40 5) (fld w 35 5) 3 (bit w 46) (fld w 47 3) (fld w 0 32))
    | _ => none
  | 0x32 =>
    match sub with
    | 0 => some (.lds g (fld w 45 5) (fld w 40 5) 0 (bit w 35) (fld w 0 32))
    | 1 => some (.lds g (fld w 45 5) (fld w 40 5) 1 (bit w 35) (fld w 0 32))
    | 2 => some (.lds g (fld w 45 5) (fld w 40 5) 2 (bit w 35) (fld w 0 32))
    | 3 => some (.lds g (fld w 45 5) (fld w 40 5) 3 (bit w 35) (fld w 0 32))
    | _ => none
  | 0x33 =>
    match sub with
    | 0 => some (.sts g (fld w 40 5) (fld w 35 5) 0 (fld w 0 32))
    | 1 => some (.sts g (fld w 40 5) (fld w 35 5) 1 (fld w 0 32))
    | 2 => some (.sts g (fld w 40 5) (fld w 35 5) 2 (fld w 0 32))
    | 3 => some (.sts g (fld w 40 5) (fld w 35 5) 3 (fld w 0 32))
    | _ => none
  | 0x34 =>
    match sub with
    | 0 => some (.mark g)
    | _ => none
  | 0x35 =>
    match sub with
    | 0 => some (.fence g 0 (bit w 0))
    | 1 => some (.fence g 1 (bit w 0))
    | 2 => some (.fence g 2 (bit w 0))
    | 3 => some (.fence g 3 (bit w 0))
    | 4 => some (.fence g 4 (bit w 0))
    | _ => none
  | 0x36 =>
    match sub with
    | 0 => some (.amoAdd g (fld w 45 5) (fld w 40 5) (fld w 35 5) (fld w 0 3) (bit w 3))
    | 1 => some (.amoAnd g (fld w 45 5) (fld w 40 5) (fld w 35 5) (fld w 0 3) (bit w 3))
    | 2 => some (.amoOr g (fld w 45 5) (fld w 40 5) (fld w 35 5) (fld w 0 3) (bit w 3))
    | 3 => some (.amoXor g (fld w 45 5) (fld w 40 5) (fld w 35 5) (fld w 0 3) (bit w 3))
    | 4 => some (.amoMin g (fld w 45 5) (fld w 40 5) (fld w 35 5) (fld w 0 3) (bit w 3))
    | 5 => some (.amoMax g (fld w 45 5) (fld w 40 5) (fld w 35 5) (fld w 0 3) (bit w 3))
    | 6 => some (.amoMinu g (fld w 45 5) (fld w 40 5) (fld w 35 5) (fld w 0 3) (bit w 3))
    | 7 => some (.amoMaxu g (fld w 45 5) (fld w 40 5) (fld w 35 5) (fld w 0 3) (bit w 3))
    | _ => none
  | 0x37 =>
    match sub with
    | 0 => some (.amoSwap g (fld w 45 5) (fld w 40 5) (fld w 35 5) (fld w 0 3) (bit w 3))
    | 1 => some (.cas g (fld w 45 5) (fld w 40 5) (fld w 35 5) (fld w 0 3) (bit w 3))
    | _ => none
  | 0x40 =>
    match sub with
    | 0 => some (.tkwait g (fld w 0 4) (fld w 4 4) (fld w 8 4))
    | _ => none
  | 0x41 =>
    match sub with
    | 0 => some (.tkpost g (fld w 0 4))
    | _ => none
  | 0x42 =>
    match sub with
    | 0 => some (.fqpush g (fld w 45 5) (fld w 40 5))
    | _ => none
  | 0x43 =>
    match sub with
    | 0 => some (.sqpush g (fld w 45 5) (fld w 40 5) 0)
    | 1 => some (.sqpush g (fld w 45 5) (fld w 40 5) 1)
    | _ => none
  | 0x44 =>
    match sub with
    | 0 => some (.ypop g (fld w 45 5))
    | _ => none
  | 0x45 =>
    match sub with
    | 0 => some (.qcancel g (fld w 45 5) (fld w 40 5))
    | _ => none
  | 0x46 =>
    match sub with
    | 0 => some (.barInit g (fld w 0 7) (fld w 7 12))
    | 1 => some (.barArv g (fld w 45 5) (fld w 0 7))
    | 2 => some (.barExp g (fld w 45 5) (fld w 40 5) (fld w 0 7) (bit w 7))
    | 3 => some (.barWait g (fld w 40 5) (fld w 0 7))
    | 4 => some (.barTest g (fld w 45 3) (fld w 40 5) (fld w 0 7))
    | _ => none
  | 0x47 =>
    match sub with
    | 0 => some (.tideRd g (fld w 45 5))
    | 1 => some (.tideBase g (fld w 40 5))
    | _ => none
  | 0x48 =>
    match sub with
    | 0 => some (.regionTimed g (fld w 0 16) (bit w 16))
    | 1 => some (.regionLocked g)
    | _ => none
  | 0x50 =>
    match sub with
    | 0 => some (.csrr g (fld w 45 5) (fld w 0 12))
    | _ => none
  | 0x51 =>
    match sub with
    | 0 => some (.csrw g (fld w 40 5) (fld w 0 12))
    | _ => none
  | 0x52 =>
    match sub with
    | 0 => some (syscOf g (fld w 0 32))
    | _ => none
  | 0x53 =>
    match sub with
    | 0 => some (.trap g (fld w 0 32))
    | _ => none
  | 0x54 =>
    match sub with
    | 0 => some (.bkpt g (fld w 0 32))
    | _ => none
  | 0x5F =>
    match sub with
    | 0 => some (.opbind g (fld w 45 5) (fld w 40 5) (fld w 35 5) (fld w 0 6))
    | _ => none
  | 0x98 =>
    match sub with
    | 0 => some (.twdef g (fld w 40 5) (fld w 35 5) (fld w 0 6))
    | _ => none
  | 0x99 =>
    match sub with
    | 0 => some (.agset g (fld w 40 5) (fld w 0 3))
    | _ => none
  | 0x9A =>
    match sub with
    | 0 => some (.spbindIn g (fld w 0 2) (fld w 2 3) (bit w 5) (fld w 6 3) (fld w 9 4) (fld w 13 2) (bit w 15))
    | 1 => some (.spbindOut g (fld w 0 2) (fld w 2 3) (fld w 9 4))
    | 2 => some (.spbindOff g (fld w 0 2))
    | _ => none
  | 0xA8 =>
    match sub with
    | 0 => some (.collStart g (fld w 45 5) (fld w 40 5) (fld w 35 5) (fld w 0 16) (bit w 16))
    | _ => none
  | _ => none

/-- The fields of an X-format word that R78 and the instruction's own description judge, each as the field's low bit and
whether its value is refused; `none` for a reserved SUB. Where only a part of a field must be 0, as D[4:3] of CMP or IMM[31:12] of CSRR, the low
bit is that part's own: DESIGN CHOICE (log 73), since R91 says the field's and the other part is in use. -/
def fieldsX (w : Word) : Option (List (Nat × Bool)) :=
  let sub := (fld w 32 3).toNat
  match (fld w 56 8).toNat with
  | 0x00 =>
    match sub with
    | 0 => some [(0, fld w 0 32 != 0)]
    | 1 => some [(0, fld w 0 32 != 0)]
    | 2 => some [(0, fld w 0 32 != 0)]
    | 3 => some [(0, fld w 0 32 != 0)]
    | 4 => some [(0, fld w 0 32 != 0)]
    | 5 => some [(0, fld w 0 32 != 0)]
    | 6 => some [(0, fld w 0 32 != 0)]
    | 7 => some [(0, fld w 0 32 != 0)]
    | _ => none
  | 0x01 =>
    match sub with
    | 0 => some [(0, fld w 0 32 != 0)]
    | 1 => some [(0, fld w 0 32 != 0)]
    | 2 => some [(0, fld w 0 32 != 0)]
    | 3 => some [(0, fld w 0 32 != 0)]
    | 4 => some [(0, fld w 0 32 != 0)]
    | _ => none
  | 0x02 =>
    match sub with
    | 0 => some [(0, fld w 0 32 != 0)]
    | 1 => some [(0, fld w 0 32 != 0)]
    | 2 => some [(0, fld w 0 32 != 0)]
    | 3 => some [(0, fld w 0 32 != 0)]
    | _ => none
  | 0x03 =>
    match sub with
    | 0 => some [(35, fld w 35 5 != 0), (0, fld w 0 32 != 0)]
    | 1 => some [(35, fld w 35 5 != 0), (0, fld w 0 32 != 0)]
    | 2 => some [(35, fld w 35 5 != 0), (0, fld w 14 18 != 0), (0, badPosLen (fld w 0 6) (fld w 6 7))]
    | 3 => some [(35, fld w 35 5 != 0), (0, fld w 14 18 != 0), (0, fld w 13 1 != 0), (0, badPosLen (fld w 0 6) (fld w 6 7))]
    | _ => none
  | 0x04 =>
    match sub with
    | 0 => some [(35, fld w 35 5 != 0)]
    | _ => none
  | 0x05 =>
    match sub with
    | 0 => some [(35, fld w 35 5 != 0)]
    | _ => none
  | 0x06 =>
    match sub with
    | 0 => some [(35, fld w 35 5 != 0)]
    | _ => none
  | 0x07 =>
    match sub with
    | 0 => some [(35, fld w 35 5 != 0)]
    | _ => none
  | 0x08 =>
    match sub with
    | 0 => some [(40, fld w 40 5 != 0), (35, fld w 35 5 != 0)]
    | _ => none
  | 0x09 =>
    match sub with
    | 0 => some [(35, fld w 35 5 != 0)]
    | _ => none
  | 0x0A =>
    match sub with
    | 0 => some [(35, fld w 35 5 != 0), (0, fld w 0 32 != 0)]
    | _ => none
  | 0x0B =>
    match sub with
    | 0 => some [(4, fld w 4 28 != 0)]
    | _ => none
  | 0x0C =>
    match sub with
    | 0 => some [(48, fld w 48 2 != 0), (0, fld w 0 32 != 0)]
    | 1 => some [(48, fld w 48 2 != 0), (0, fld w 0 32 != 0)]
    | 2 => some [(48, fld w 48 2 != 0), (0, fld w 0 32 != 0)]
    | 3 => some [(48, fld w 48 2 != 0), (0, fld w 0 32 != 0)]
    | 4 => some [(48, fld w 48 2 != 0), (0, fld w 0 32 != 0)]
    | 5 => some [(48, fld w 48 2 != 0), (0, fld w 0 32 != 0)]
    | _ => none
  | 0x0D =>
    match sub with
    | 0 => some [(48, fld w 48 2 != 0), (43, fld w 43 2 != 0), (38, fld w 38 2 != 0), (2, fld w 2 30 != 0)]
    | 1 => some [(48, fld w 48 2 != 0), (43, fld w 43 2 != 0), (38, fld w 38 2 != 0), (2, fld w 2 30 != 0)]
    | 2 => some [(48, fld w 48 2 != 0), (43, fld w 43 2 != 0), (35, fld w 35 5 != 0), (0, fld w 0 32 != 0)]
    | _ => none
  | 0x20 =>
    match sub with
    | 0 => some [(47, fld w 47 3 != 0), (35, fld w 35 5 != 0)]
    | _ => none
  | 0x21 =>
    match sub with
    | 0 => some [(47, fld w 47 3 != 0), (40, fld w 40 5 != 0), (35, fld w 35 5 != 0), (6, fld w 6 26 != 0), (4, fld w 4 2 == 3)]
    | _ => none
  | 0x22 =>
    match sub with
    | 0 => some [(40, fld w 40 5 != 0), (35, fld w 35 5 != 0), (2, fld w 2 30 != 0)]
    | _ => none
  | 0x23 =>
    match sub with
    | 0 => some [(45, fld w 45 5 != 0), (35, fld w 35 5 != 0), (0, fld w 0 32 != 0)]
    | _ => none
  | 0x24 =>
    match sub with
    | 0 => some [(47, fld w 47 3 != 0), (35, fld w 35 5 != 0), (9, fld w 40 5 != 0 && fld w 9 23 != 0), (0, badBodyLen (fld w 0 9))]
    | _ => none
  | 0x25 =>
    match sub with
    | 0 => some [(45, fld w 45 5 != 0), (40, fld w 40 5 != 0), (35, fld w 35 5 != 0), (0, fld w 0 32 != 0)]
    | _ => none
  | 0x26 =>
    match sub with
    | 0 => some [(45, fld w 45 5 != 0), (40, fld w 40 5 != 0), (35, fld w 35 5 != 0), (0, fld w 0 32 != 0)]
    | _ => none
  | 0x27 =>
    match sub with
    | 0 => some [(45, fld w 45 5 != 0), (40, fld w 40 5 != 0), (35, fld w 35 5 != 0), (0, fld w 0 32 != 0)]
    | _ => none
  | 0x28 =>
    match sub with
    | 0 => some [(45, fld w 45 5 != 0), (40, fld w 40 5 != 0), (35, fld w 35 5 != 0), (0, fld w 0 32 != 0)]
    | _ => none
  | 0x29 =>
    match sub with
    | 0 => some [(45, fld w 45 5 != 0), (40, fld w 40 5 != 0), (35, fld w 35 5 != 0), (0, fld w 0 32 != 0)]
    | 1 => some [(45, fld w 45 5 != 0), (40, fld w 40 5 != 0), (35, fld w 35 5 != 0), (0, fld w 0 32 != 0)]
    | _ => none
  | 0x2A =>
    match sub with
    | 0 => some [(48, fld w 48 2 != 0), (43, fld w 43 2 != 0), (38, fld w 38 2 != 0), (35, fld w 0 1 == 0 && fld w 35 5 != 0), (1, fld w 1 31 != 0)]
    | 1 => some [(48, fld w 48 2 != 0), (43, fld w 43 2 != 0), (38, fld w 38 2 != 0), (35, fld w 0 1 == 0 && fld w 35 5 != 0), (1, fld w 1 31 != 0)]
    | _ => none
  | 0x30 =>
    match sub with
    | 0 => some [(37, badScope (fld w 37 3)), (37, fld w 36 1 == 0 && fld w 37 3 != 0)]
    | 1 => some [(37, badScope (fld w 37 3)), (37, fld w 36 1 == 0 && fld w 37 3 != 0)]
    | 2 => some [(37, badScope (fld w 37 3)), (37, fld w 36 1 == 0 && fld w 37 3 != 0)]
    | 3 => some [(37, badScope (fld w 37 3)), (37, fld w 36 1 == 0 && fld w 37 3 != 0), (35, fld w 35 1 != 0)]
    | _ => none
  | 0x31 =>
    match sub with
    | 0 => some [(47, badScope (fld w 47 3)), (47, fld w 46 1 == 0 && fld w 47 3 != 0), (45, fld w 45 1 != 0)]
    | 1 => some [(47, badScope (fld w 47 3)), (47, fld w 46 1 == 0 && fld w 47 3 != 0), (45, fld w 45 1 != 0)]
    | 2 => some [(47, badScope (fld w 47 3)), (47, fld w 46 1 == 0 && fld w 47 3 != 0), (45, fld w 45 1 != 0)]
    | 3 => some [(47, badScope (fld w 47 3)), (47, fld w 46 1 == 0 && fld w 47 3 != 0), (45, fld w 45 1 != 0)]
    | _ => none
  | 0x32 =>
    match sub with
    | 0 => some [(36, fld w 36 4 != 0)]
    | 1 => some [(36, fld w 36 4 != 0)]
    | 2 => some [(36, fld w 36 4 != 0)]
    | 3 => some [(36, fld w 36 4 != 0), (35, fld w 35 1 != 0)]
    | _ => none
  | 0x33 =>
    match sub with
    | 0 => some [(45, fld w 45 5 != 0)]
    | 1 => some [(45, fld w 45 5 != 0)]
    | 2 => some [(45, fld w 45 5 != 0)]
    | 3 => some [(45, fld w 45 5 != 0)]
    | _ => none
  | 0x34 =>
    match sub with
    | 0 => some [(45, fld w 45 5 != 0), (40, fld w 40 5 != 0), (35, fld w 35 5 != 0), (0, fld w 0 32 != 0)]
    | _ => none
  | 0x35 =>
    match sub with
    | 0 => some [(45, fld w 45 5 != 0), (40, fld w 40 5 != 0), (35, fld w 35 5 != 0), (1, fld w 1 31 != 0)]
    | 1 => some [(45, fld w 45 5 != 0), (40, fld w 40 5 != 0), (35, fld w 35 5 != 0), (1, fld w 1 31 != 0)]
    | 2 => some [(45, fld w 45 5 != 0), (40, fld w 40 5 != 0), (35, fld w 35 5 != 0), (1, fld w 1 31 != 0)]
    | 3 => some [(45, fld w 45 5 != 0), (40, fld w 40 5 != 0), (35, fld w 35 5 != 0), (1, fld w 1 31 != 0)]
    | 4 => some [(45, fld w 45 5 != 0), (40, fld w 40 5 != 0), (35, fld w 35 5 != 0), (1, fld w 1 31 != 0)]
    | _ => none
  | 0x36 =>
    match sub with
    | 0 => some [(0, badScope (fld w 0 3)), (4, fld w 4 28 != 0)]
    | 1 => some [(0, badScope (fld w 0 3)), (4, fld w 4 28 != 0)]
    | 2 => some [(0, badScope (fld w 0 3)), (4, fld w 4 28 != 0)]
    | 3 => some [(0, badScope (fld w 0 3)), (4, fld w 4 28 != 0)]
    | 4 => some [(0, badScope (fld w 0 3)), (4, fld w 4 28 != 0)]
    | 5 => some [(0, badScope (fld w 0 3)), (4, fld w 4 28 != 0)]
    | 6 => some [(0, badScope (fld w 0 3)), (4, fld w 4 28 != 0)]
    | 7 => some [(0, badScope (fld w 0 3)), (4, fld w 4 28 != 0)]
    | _ => none
  | 0x37 =>
    match sub with
    | 0 => some [(0, badScope (fld w 0 3)), (4, fld w 4 28 != 0)]
    | 1 => some [(0, badScope (fld w 0 3)), (4, fld w 4 28 != 0)]
    | _ => none
  | 0x40 =>
    match sub with
    | 0 => some [(45, fld w 45 5 != 0), (40, fld w 40 5 != 0), (35, fld w 35 5 != 0), (12, fld w 12 20 != 0), (8, badCode (fld w 8 4)), (4, badCode (fld w 4 4)), (0, badCode (fld w 0 4))]
    | _ => none
  | 0x41 =>
    match sub with
    | 0 => some [(45, fld w 45 5 != 0), (40, fld w 40 5 != 0), (35, fld w 35 5 != 0), (4, fld w 4 28 != 0), (0, badCode (fld w 0 4)), (0, fld w 0 4 == 0)]
    | _ => none
  | 0x42 =>
    match sub with
    | 0 => some [(35, fld w 35 5 != 0), (0, fld w 0 32 != 0)]
    | _ => none
  | 0x43 =>
    match sub with
    | 0 => some [(35, fld w 35 5 != 0), (0, fld w 0 32 != 0)]
    | 1 => some [(35, fld w 35 5 != 0), (0, fld w 0 32 != 0)]
    | _ => none
  | 0x44 =>
    match sub with
    | 0 => some [(40, fld w 40 5 != 0), (35, fld w 35 5 != 0), (0, fld w 0 32 != 0)]
    | _ => none
  | 0x45 =>
    match sub with
    | 0 => some [(35, fld w 35 5 != 0), (0, fld w 0 32 != 0)]
    | _ => none
  | 0x46 =>
    match sub with
    | 0 => some [(45, fld w 45 5 != 0), (40, fld w 40 5 != 0), (35, fld w 35 5 != 0), (19, fld w 19 13 != 0), (7, fld w 7 12 == 0)]
    | 1 => some [(40, fld w 40 5 != 0), (35, fld w 35 5 != 0), (7, fld w 7 25 != 0)]
    | 2 => some [(35, fld w 35 5 != 0), (45, fld w 7 1 == 0 && fld w 45 5 != 0), (8, fld w 8 24 != 0)]
    | 3 => some [(45, fld w 45 5 != 0), (35, fld w 35 5 != 0), (7, fld w 7 25 != 0)]
    | 4 => some [(48, fld w 48 2 != 0), (35, fld w 35 5 != 0), (7, fld w 7 25 != 0)]
    | _ => none
  | 0x47 =>
    match sub with
    | 0 => some [(40, fld w 40 5 != 0), (35, fld w 35 5 != 0), (0, fld w 0 32 != 0)]
    | 1 => some [(45, fld w 45 5 != 0), (35, fld w 35 5 != 0), (0, fld w 0 32 != 0)]
    | _ => none
  | 0x48 =>
    match sub with
    | 0 => some [(45, fld w 45 5 != 0), (40, fld w 40 5 != 0), (35, fld w 35 5 != 0), (17, fld w 17 15 != 0)]
    | 1 => some [(45, fld w 45 5 != 0), (40, fld w 40 5 != 0), (35, fld w 35 5 != 0), (0, fld w 0 32 != 0)]
    | _ => none
  | 0x50 =>
    match sub with
    | 0 => some [(40, fld w 40 5 != 0), (35, fld w 35 5 != 0), (12, fld w 12 20 != 0), (0, !csrListed (fld w 0 12))]
    | _ => none
  | 0x51 =>
    match sub with
    | 0 => some [(45, fld w 45 5 != 0), (35, fld w 35 5 != 0), (12, fld w 12 20 != 0), (0, !csrListed (fld w 0 12))]
    | _ => none
  | 0x52 =>
    match sub with
    | 0 => some [(45, fld w 45 5 != 0), (40, fld w 40 5 != 0), (35, fld w 35 5 != 0)]
    | _ => none
  | 0x53 =>
    match sub with
    | 0 => some [(45, fld w 45 5 != 0), (40, fld w 40 5 != 0), (35, fld w 35 5 != 0)]
    | _ => none
  | 0x54 =>
    match sub with
    | 0 => some [(45, fld w 45 5 != 0), (40, fld w 40 5 != 0), (35, fld w 35 5 != 0)]
    | _ => none
  | 0x5F =>
    match sub with
    | 0 => some [(6, fld w 6 26 != 0)]
    | _ => none
  | 0x98 =>
    match sub with
    | 0 => some [(45, fld w 45 5 != 0), (6, fld w 6 26 != 0)]
    | _ => none
  | 0x99 =>
    match sub with
    | 0 => some [(45, fld w 45 5 != 0), (35, fld w 35 5 != 0), (3, fld w 3 29 != 0)]
    | _ => none
  | 0x9A =>
    match sub with
    | 0 => some [(45, fld w 45 5 != 0), (40, fld w 40 5 != 0), (35, fld w 35 5 != 0), (16, fld w 16 16 != 0), (9, badFmt (fld w 9 4)), (13, fld w 13 2 == 3)]
    | 1 => some [(45, fld w 45 5 != 0), (40, fld w 40 5 != 0), (35, fld w 35 5 != 0), (16, fld w 16 16 != 0), (15, fld w 15 1 != 0), (13, fld w 13 2 != 0), (9, badFmt (fld w 9 4)), (6, fld w 6 3 != 0), (5, fld w 5 1 != 0)]
    | 2 => some [(45, fld w 45 5 != 0), (40, fld w 40 5 != 0), (35, fld w 35 5 != 0), (16, fld w 16 16 != 0), (2, fld w 2 14 != 0)]
    | _ => none
  | 0xA8 =>
    match sub with
    | 0 => some [(17, fld w 17 15 != 0)]
    | _ => none
  | _ => none

/-- The instruction that an E-format word stands for, once its fields are known to be allowed (R88, R177, R204). -/
def buildE (w : Word) : Option Instr :=
  let y := syncOf w
  match (fld w 56 8).toNat with
  | 0x60 => some (.mma y (fld w 20 6) (fld w 14 6) (fld w 9 5) (fld w 0 9))
  | 0x61 => some (.mmaS y (fld w 20 6) (fld w 18 2) (fld w 11 7) (fld w 6 5))
  | 0x62 => some (.mmaC y (fld w 20 6) (fld w 15 5) (fld w 10 5) (fld w 3 7))
  | 0x63 => some (.accZero y (fld w 12 5) (fld w 0 12))
  | 0x64 => some (.accLd y (fld w 20 6) (fld w 15 5) (fld w 8 7))
  | 0x65 => some (.accRd y (fld w 20 6) (fld w 15 5) (fld w 8 7) (fld w 6 2) (bit w 5))
  | 0x66 => some (.accRdx y (fld w 20 6) (fld w 15 5) (fld w 8 7))
  | 0x67 => some (.accRebase y (fld w 6 5) (fld w 0 6))
  | 0x68 => some (.accWm y (fld w 21 5) (fld w 16 5) (fld w 8 8))
  | 0x69 => some (.accStat y (fld w 21 5) (fld w 16 5) (fld w 0 3))
  | 0x6A => some (.tdRd y (fld w 21 5) (bit w 20) (fld w 10 10))
  | 0x6B =>
    match (fld w 24 2).toNat with
    | 0 => some (.tfillZero y (fld w 10 10) (fld w 0 5))
    | 1 => some (.tfillConst y (fld w 20 4) (fld w 10 10) (fld w 5 5) (fld w 0 5))
    | 2 => some (.tfillIdent y (fld w 20 4) (fld w 10 10) (fld w 0 5))
    | _ => none
  | 0x70 => some (.vshape y (fld w 0 24))
  | 0x71 => some (.vld y (fld w 21 5) (bit w 20) (fld w 14 6) (fld w 9 5) (fld w 5 4) (bit w 4) (fld w 1 3))
  | 0x72 => some (.vst y (fld w 21 5) (bit w 20) (fld w 14 6) (fld w 9 5) (fld w 5 4) (bit w 4) (fld w 1 3))
  | 0x73 => some (.vmov y (vopOf w))
  | 0x74 => some (.vbcast y (vopOf w))
  | 0x75 => some (.vadd y (vopOf w))
  | 0x76 => some (.vsub y (vopOf w))
  | 0x77 => some (.vmul y (vopOf w))
  | 0x78 => some (.vfma y (vopOf w))
  | 0x79 => some (.vmin y (vopOf w))
  | 0x7A => some (.vmax y (vopOf w))
  | 0x7B => some (.vabs y (vopOf w))
  | 0x7C => some (.vneg y (vopOf w))
  | 0x7D => some (.vand y (vopOf w))
  | 0x7E => some (.vor y (vopOf w))
  | 0x7F => some (.vxor y (vopOf w))
  | 0x80 => some (.vshl y (vopOf w))
  | 0x81 => some (.vshr y (vopOf w))
  | 0x82 => some (.viadd y (vopOf w))
  | 0x83 => some (.vimul y (vopOf w))
  | 0x84 => some (.vcmp y (vopOf w))
  | 0x85 => some (.vsel y (vopOf w))
  | 0x86 => some (.vcvt y (bit w 25) (fld w 19 6) (fld w 14 5) (fld w 10 4) (fld w 6 4) (fld w 4 2) (fld w 2 2) (bit w 1))
  | 0x87 => some (.vred y (vopOf w))
  | 0x88 => some (.vscan y (vopOf w))
  | 0x89 => some (.vtrn y (vopOf w))
  | 0x8A => some (.vperm y (vopOf w))
  | 0x8B => some (.vext y (fld w 21 5) (fld w 16 5) (fld w 11 5) (fld w 7 4) (fld w 2 5))
  | 0x90 => some (.vrcp y (vopOf w))
  | 0x91 => some (.vrsq y (vopOf w))
  | 0x92 => some (.vrcps y (vopOf w))
  | 0x93 => some (.vrsqs y (vopOf w))
  | 0x94 => some (.vexp2 y (vopOf w))
  | 0x95 => some (.vlog2 y (vopOf w))
  | 0x9B => some (.cpy y (fld w 21 5) (fld w 16 5) (fld w 11 5) (fld w 9 2) (fld w 2 7) (bit w 1))
  | 0x9C => some (.cpyNd y (fld w 24 2) (fld w 18 6) (fld w 15 3) (fld w 12 3) (fld w 5 7) (bit w 4))
  | _ => none

/-- The operation fields of an E-format word that are judged in step 5 of R91, as for `fieldsX`. -/
def fieldsE (w : Word) : List (Nat × Bool) :=
  match (fld w 56 8).toNat with
  | 0x60 => []
  | 0x61 => [(0, fld w 0 6 != 0)]
  | 0x62 => [(0, fld w 0 3 != 0)]
  | 0x63 => [(20, fld w 20 6 != 0), (17, fld w 17 3 != 0)]
  | 0x64 => [(0, fld w 0 8 != 0)]
  | 0x65 => [(0, fld w 0 5 != 0)]
  | 0x66 => [(0, fld w 0 8 != 0)]
  | 0x67 => [(20, fld w 20 6 != 0), (11, fld w 11 9 != 0), (0, fld w 0 6 == 0)]
  | 0x68 => [(0, fld w 0 8 != 0), (8, badRow (fld w 8 8))]
  | 0x69 => [(3, fld w 3 13 != 0)]
  | 0x6A => [(0, fld w 0 10 != 0), (15, fld w 20 1 == 1 && fld w 15 5 != 0)]
  | 0x6B =>
    match (fld w 24 2).toNat with
    | 0 => [(20, fld w 20 4 != 0), (5, fld w 5 5 != 0)]
    | 1 => [(20, badPlainFmt (fld w 20 4))]
    | 2 => [(20, badPlainFmt (fld w 20 4)), (5, fld w 5 5 != 0), (0, badIdentCount (fld w 20 4) (fld w 0 5))]
    | _ => [(24, true)]
  | 0x70 => [(24, fld w 24 2 != 0), (22, fld w 22 2 == 3), (11, badShapeRows (fld w 11 11) (fld w 0 11)), (0, badShapeCols (fld w 0 11))]
  | 0x71 => [(16, fld w 20 1 == 1 && fld w 16 4 != 0), (9, fld w 20 1 == 1 && fld w 9 5 != 0), (5, badVf (fld w 5 4)), (1, fld w 4 1 == 0 && fld w 1 3 != 0), (0, fld w 0 1 != 0)]
  | 0x72 => [(16, fld w 20 1 == 1 && fld w 16 4 != 0), (9, fld w 20 1 == 1 && fld w 9 5 != 0), (5, badVf (fld w 5 4)), (1, fld w 4 1 == 0 && fld w 1 3 != 0), (0, fld w 0 1 != 0)]
  | 0x73 => [(7, badVf (fld w 7 4)), (1, fld w 4 1 == 0 && fld w 1 3 != 0), (0, fld w 0 1 != 0), (11, fld w 11 5 != 0), (5, fld w 5 2 != 0)]
  | 0x74 => [(7, badVf (fld w 7 4)), (1, fld w 4 1 == 0 && fld w 1 3 != 0), (0, fld w 0 1 != 0), (11, fld w 11 5 != 0), (5, fld w 5 2 != 0)]
  | 0x75 => [(7, !isFloatVf (fld w 7 4)), (1, fld w 4 1 == 0 && fld w 1 3 != 0), (0, fld w 0 1 != 0)]
  | 0x76 => [(7, !isFloatVf (fld w 7 4)), (1, fld w 4 1 == 0 && fld w 1 3 != 0), (0, fld w 0 1 != 0)]
  | 0x77 => [(7, !isFloatVf (fld w 7 4)), (1, fld w 4 1 == 0 && fld w 1 3 != 0), (0, fld w 0 1 != 0)]
  | 0x78 => [(7, !isFloatVf (fld w 7 4)), (1, fld w 4 1 == 0 && fld w 1 3 != 0), (0, fld w 0 1 != 0)]
  | 0x79 => [(7, badVf (fld w 7 4)), (1, fld w 4 1 == 0 && fld w 1 3 != 0), (0, fld w 0 1 != 0), (5, badMinMaxMod (fld w 7 4) (fld w 5 2))]
  | 0x7A => [(7, badVf (fld w 7 4)), (1, fld w 4 1 == 0 && fld w 1 3 != 0), (0, fld w 0 1 != 0), (5, badMinMaxMod (fld w 7 4) (fld w 5 2))]
  | 0x7B => [(7, badVf (fld w 7 4)), (1, fld w 4 1 == 0 && fld w 1 3 != 0), (0, fld w 0 1 != 0), (11, fld w 11 5 != 0), (5, badMinMaxMod (fld w 7 4) (fld w 5 2))]
  | 0x7C => [(7, badVf (fld w 7 4)), (1, fld w 4 1 == 0 && fld w 1 3 != 0), (0, fld w 0 1 != 0), (11, fld w 11 5 != 0), (5, badMinMaxMod (fld w 7 4) (fld w 5 2))]
  | 0x7D => [(7, badVf (fld w 7 4)), (1, fld w 4 1 == 0 && fld w 1 3 != 0), (0, fld w 0 1 != 0), (5, fld w 5 2 != 0)]
  | 0x7E => [(7, badVf (fld w 7 4)), (1, fld w 4 1 == 0 && fld w 1 3 != 0), (0, fld w 0 1 != 0), (5, fld w 5 2 != 0)]
  | 0x7F => [(7, badVf (fld w 7 4)), (1, fld w 4 1 == 0 && fld w 1 3 != 0), (0, fld w 0 1 != 0), (5, fld w 5 2 != 0)]
  | 0x80 => [(7, !isIntVf (fld w 7 4)), (1, fld w 4 1 == 0 && fld w 1 3 != 0), (0, fld w 0 1 != 0), (5, fld w 5 2 != 0)]
  | 0x81 => [(7, !isIntVf (fld w 7 4)), (1, fld w 4 1 == 0 && fld w 1 3 != 0), (0, fld w 0 1 != 0), (5, fld w 6 1 != 0)]
  | 0x82 => [(7, !isIntVf (fld w 7 4)), (1, fld w 4 1 == 0 && fld w 1 3 != 0), (0, fld w 0 1 != 0), (5, fld w 5 2 == 3)]
  | 0x83 => [(7, !isIntVf (fld w 7 4)), (1, fld w 4 1 == 0 && fld w 1 3 != 0), (0, fld w 0 1 != 0)]
  | 0x84 => [(7, badVf (fld w 7 4)), (1, fld w 4 1 == 0 && fld w 1 3 != 0), (0, fld w 0 1 != 0), (5, badCmpMod (fld w 7 4) (fld w 5 2) (fld w 24 2))]
  | 0x85 => [(7, badVf (fld w 7 4)), (0, fld w 0 1 != 0), (5, fld w 5 2 != 0), (4, fld w 4 1 == 0)]
  | 0x86 => [(24, fld w 25 1 == 0 && fld w 24 1 != 0), (10, badCvtFmt (fld w 25 1) (fld w 10 4)), (6, badVf (fld w 6 4)), (1, fld w 25 1 == 0 && fld w 1 1 != 0), (0, fld w 0 1 != 0)]
  | 0x87 => [(7, badVf (fld w 7 4)), (1, fld w 4 1 == 0 && fld w 1 3 != 0), (0, fld w 0 1 != 0), (14, fld w 14 2 == 3), (11, fld w 11 1 != 0), (5, badRedMod (fld w 7 4) (fld w 5 2) (fld w 14 2)), (12, fld w 12 1 != 0)]
  | 0x88 => [(7, badVf (fld w 7 4)), (1, fld w 4 1 == 0 && fld w 1 3 != 0), (0, fld w 0 1 != 0), (14, fld w 14 2 == 3), (11, fld w 11 1 != 0), (5, badRedMod (fld w 7 4) (fld w 5 2) (fld w 14 2))]
  | 0x89 => [(7, badVf (fld w 7 4)), (11, fld w 11 5 != 0), (5, fld w 5 2 != 0), (4, fld w 4 1 != 0), (1, fld w 1 3 != 0), (0, fld w 0 1 != 0)]
  | 0x8A => [(7, badVf (fld w 7 4)), (1, fld w 4 1 == 0 && fld w 1 3 != 0), (0, fld w 0 1 != 0), (5, fld w 5 2 != 0)]
  | 0x8B => [(7, badVf (fld w 7 4)), (0, fld w 0 2 != 0)]
  | 0x90 => [(7, fld w 7 4 != 0), (1, fld w 4 1 == 0 && fld w 1 3 != 0), (0, fld w 0 1 != 0), (11, fld w 11 5 != 0), (5, fld w 5 2 != 0)]
  | 0x91 => [(7, fld w 7 4 != 0), (1, fld w 4 1 == 0 && fld w 1 3 != 0), (0, fld w 0 1 != 0), (11, fld w 11 5 != 0), (5, fld w 5 2 != 0)]
  | 0x92 => [(7, fld w 7 4 != 0), (1, fld w 4 1 == 0 && fld w 1 3 != 0), (0, fld w 0 1 != 0)]
  | 0x93 => [(7, fld w 7 4 != 0), (1, fld w 4 1 == 0 && fld w 1 3 != 0), (0, fld w 0 1 != 0)]
  | 0x94 => [(7, fld w 7 4 != 0), (1, fld w 4 1 == 0 && fld w 1 3 != 0), (0, fld w 0 1 != 0), (11, fld w 11 5 != 0)]
  | 0x95 => [(7, fld w 7 4 != 0), (1, fld w 4 1 == 0 && fld w 1 3 != 0), (0, fld w 0 1 != 0), (11, fld w 11 5 != 0)]
  | 0x9B => [(2, fld w 1 1 == 0 && fld w 2 7 != 0), (0, fld w 0 1 != 0)]
  | 0x9C => [(24, fld w 24 2 == 3), (18, fld w 24 2 == 0 && fld w 18 6 != 0), (15, fld w 24 2 == 2 && fld w 15 3 != 0), (12, fld w 24 2 == 1 && fld w 12 3 != 0), (5, fld w 4 1 == 0 && fld w 5 7 != 0), (0, fld w 0 4 != 0)]
  | _ => []


/-- A tenant word (R81). -/
def buildU (w : Word) : Instr :=
  .uop (fld w 56 8) (fld w 52 4) (fld w 48 4) (fld w 44 4) (fld w 40 4) (fld w 0 40)

/-- The queue-code fields of an E- or U-format word (R79, R81): codes 13 to 15 are reserved (R30). -/
def syncFields (w : Word) : List (Nat × Bool) :=
  [(52, badCode (fld w 52 4)), (48, badCode (fld w 48 4)), (44, badCode (fld w 44 4)), (40, badCode (fld w 40 4))]

/-- The low bit of the highest offending field, if one offends. -/
def highestBad : List (Nat × Bool) → Option Nat
  | [] => none
  | (lo, b) :: rest =>
    match highestBad rest with
    | none => if b then some lo else none
    | some m => if b && decide (m < lo) then some lo else some m

/-- Step 5 of R91 for a word whose opcode is defined: the DETAIL of a reserved field, if there is one. With a reserved SUB
only SUB and BOOST are judged. -/
def reservedDetail (w : Word) : Option Nat :=
  let o := (fld w 56 8).toNat
  if isUOpc o then highestBad (syncFields w)
  else if isEOpc o then highestBad (syncFields w ++ fieldsE w)
  else
    let boost := (54, fld w 54 2 == 3)
    match fieldsX w with
    | none => if fld w 54 2 == 3 then some 54 else some 32
    | some l => highestBad (boost :: l)

/-- Why a word is no instruction, by the names of R93. -/
inductive Reject
  | reservedOpc
  | reservedField (detail : Nat)
  | boostIllegal
  | shortBytes
deriving DecidableEq, Repr

/-- The instruction of a word, by the checks that need nothing but the word (R91 steps 1, 5 and 7). -/
def decode (w : Word) : Except Reject Instr :=
  let o := (fld w 56 8).toNat
  if reservedOpc o then .error .reservedOpc
  else
    match reservedDetail w with
    | some d => .error (.reservedField d)
    | none =>
      if isUOpc o then .ok (buildU w)
      else if isEOpc o then
        match buildE w with
        | some i => .ok i
        | none => .error (.reservedField 24)
      else
        match buildX w with
        | some i => if i.boosted && !i.boostable then .error .boostIllegal else .ok i
        | none => .error (.reservedField 32)

/-- Eight bytes as a little-endian word (R74). -/
def wordOfBytes : List Byte → Option (Word × List Byte)
  | b0 :: b1 :: b2 :: b3 :: b4 :: b5 :: b6 :: b7 :: rest =>
    some (b7 ++ b6 ++ b5 ++ b4 ++ b3 ++ b2 ++ b1 ++ b0, rest)
  | _ => none

/-- The bytes of a word as they stand in memory (R74). -/
def bytesOfWord (w : Word) : List Byte :=
  [fld w 0 8, fld w 8 8, fld w 16 8, fld w 24 8, fld w 32 8, fld w 40 8, fld w 48 8, fld w 56 8]

/-- Decoding the instruction at the head of a byte sequence; total on any bytes. -/
def decodeBytes (bs : List Byte) : Except Reject (Instr × List Byte) :=
  match wordOfBytes bs with
  | none => .error .shortBytes
  | some (w, rest) =>
    match decode w with
    | .ok i => .ok (i, rest)
    | .error e => .error e

/-- The streams that accept an opcode and SUB; with a reserved SUB, the union over the opcode (R84, R88, R91 step 4).
A tenant opcode's set is in its binding entry and is not given here. OPBIND, for which R84, R90 and R264 name the service context and no
stream, is accepted in all four streams of one: DESIGN CHOICE (log 73). -/
def streamsOf (o sub : Nat) : List Stream :=
  let all := [Stream.x, .l, .c, .s]
  let mem := [Stream.x, .l, .s]
  if o ≤ 0x0D then all
  else if o = 0x26 || o = 0x29 then [.x]
  else if o = 0x2A then [.c]
  else if 0x30 ≤ o && o ≤ 0x37 then mem
  else if 0x42 ≤ o && o ≤ 0x45 then [.x]
  else if o = 0x47 then (if sub = 1 then [.c] else all)
  else if o = 0x48 then [.c]
  else if 0x98 ≤ o && o ≤ 0x9A then mem
  else if o = 0x9B || o = 0x9C then [.l, .s]
  else if o = 0xA8 then [.x]
  else if isEOpc o then [.c]
  else all

/-- The consumer and producer of a token queue code (R28). -/
def queueEnds : Nat → Option (Stream × Stream)
  | 1 => some (.x, .l)
  | 2 => some (.x, .c)
  | 3 => some (.x, .s)
  | 4 => some (.l, .x)
  | 5 => some (.l, .c)
  | 6 => some (.l, .s)
  | 7 => some (.c, .x)
  | 8 => some (.c, .l)
  | 9 => some (.c, .s)
  | 10 => some (.s, .x)
  | 11 => some (.s, .l)
  | 12 => some (.s, .c)
  | _ => none

/-- A wait code that stream `st` does not consume (R30). -/
def badWait (st : Stream) (q : BitVec 4) : Bool :=
  match queueEnds q.toNat with
  | some (_, c) => decide (c ≠ st)
  | none => false

/-- A post code that stream `st` does not produce (R30). -/
def badPost (st : Stream) (q : BitVec 4) : Bool :=
  match queueEnds q.toNat with
  | some (p, _) => decide (p ≠ st)
  | none => false

/-- Step 6 of R91: queue fields the stream may not name. -/
def queueDetail (st : Stream) (w : Word) : Option Nat :=
  let o := (fld w 56 8).toNat
  if isUOpc o || isEOpc o then
    highestBad [(52, badWait st (fld w 52 4)), (48, badWait st (fld w 48 4)), (44, badWait st (fld w 44 4)),
      (40, badPost st (fld w 40 4))]
  else if o = 0x40 then
    highestBad [(8, badWait st (fld w 8 4)), (4, badWait st (fld w 4 4)), (0, badWait st (fld w 0 4))]
  else if o = 0x41 then highestBad [(0, badPost st (fld w 0 4))]
  else none

/-- The major opcodes masked by each bit of FEATMASK (R412). -/
def maskedBy (feat : Word) (o : Nat) : Bool :=
  (bit feat 5 && o == 0x54) || (bit feat 4 && o == 0x62) || (bit feat 3 && decide (0x90 ≤ o) && decide (o ≤ 0x95)) ||
    (bit feat 2 && o == 0xA8) || (bit feat 1 && o == 0x43) || (bit feat 0 && isUOpc o)

/-- What the checks of R91 read besides the word. `entry` is the binding-table entry of a tenant opcode. -/
structure CheckEnv where
  st : Stream
  service : Bool
  featmask : Word
  entry : Word
  timed : Bool
deriving DecidableEq, Repr

/-- The stream bit of a binding-table entry (R89). -/
def entryStreamOk (e : Word) : Stream → Bool
  | .x => bit e 59
  | .l => bit e 60
  | .c => bit e 61
  | .s => bit e 62

/-- The instruction carries BOOST in a field of its word (X format only). -/
def wordBoosted (w : Word) : Bool :=
  let o := (fld w 56 8).toNat
  !(isUOpc o || isEOpc o) && fld w 54 2 != 0

/-- The instructions of R87, by word. -/
def wordBoostable (w : Word) : Bool :=
  let o := (fld w 56 8).toNat
  decide (o ≤ 0x0D) || (o == 0x30 && fld w 36 1 == 0) || o == 0x32

/-- The checks of R91 in their order: the first that fails, as cause code (R93) and DETAIL. -/
def checkWord (e : CheckEnv) (w : Word) : Option (Nat × Nat) :=
  let o := (fld w 56 8).toNat
  if reservedOpc o || (o == 0x5F && !e.service) then some (0x01, 56)
  else if maskedBy e.featmask o then some (0x07, 56)
  else if isUOpc o && !bit e.entry 63 then some (0x04, 56)
  else if isUOpc o && !entryStreamOk e.entry e.st then some (0x03, 56)
  else if isUOpc o && e.st == .c && e.timed then some (0x03, 0xFE)
  else if !isUOpc o && !(streamsOf o (fld w 32 3).toNat).contains e.st then some (0x03, 56)
  else
    match reservedDetail w with
    | some d => some (0x02, d)
    | none =>
      match queueDetail e.st w with
      | some d => some (0x03, d)
      | none =>
        if wordBoosted w && (e.st != .x || !wordBoostable w) then some (0x06, 54)
        else if isEOpc o && fld w 26 14 != 0 && !(e.timed && decide (o < 0x98)) then some (0x05, 26)
        else none

/-- An X-format word from its fields (R75). -/
def xword (opc : BitVec 8) (g : Guard) (d a b : BitVec 5) (sub : BitVec 3) (imm : BitVec 32) : Word :=
  opc ++ g.boost ++ BitVec.ofBool g.gn ++ g.gp ++ d ++ a ++ b ++ sub ++ imm

/-- An E-format word from its fields (R79). -/
def eword (opc : BitVec 8) (y : Sync) (ops : BitVec 26) : Word :=
  opc ++ y.w0 ++ y.w1 ++ y.w2 ++ y.pq ++ y.stamp ++ ops

/-- The operation fields of the common vector layout (R204). -/
def vopBits (o : VOp) : BitVec 26 :=
  o.vd ++ o.va ++ o.vb ++ o.vf ++ o.md ++ BitVec.ofBool o.mken ++ o.mm ++ 0#1

/-- The 64-bit word of an instruction, laid out from the encoding tables; an event has none. -/
def encode : Instr → Option Word
  | .add g d a b => some (xword 0x00 g d a b 0 0)
  | .sub g d a b => some (xword 0x00 g d a b 1 0)
  | .and g d a b => some (xword 0x00 g d a b 2 0)
  | .or g d a b => some (xword 0x00 g d a b 3 0)
  | .xor g d a b => some (xword 0x00 g d a b 4 0)
  | .shl g d a b => some (xword 0x00 g d a b 5 0)
  | .shr g d a b => some (xword 0x00 g d a b 6 0)
  | .sar g d a b => some (xword 0x00 g d a b 7 0)
  | .mul g d a b => some (xword 0x01 g d a b 0 0)
  | .mulhu g d a b => some (xword 0x01 g d a b 1 0)
  | .mulhs g d a b => some (xword 0x01 g d a b 2 0)
  | .divu g d a b => some (xword 0x01 g d a b 3 0)
  | .remu g d a b => some (xword 0x01 g d a b 4 0)
  | .min g d a b => some (xword 0x02 g d a b 0 0)
  | .max g d a b => some (xword 0x02 g d a b 1 0)
  | .minu g d a b => some (xword 0x02 g d a b 2 0)
  | .maxu g d a b => some (xword 0x02 g d a b 3 0)
  | .clz g d a => some (xword 0x03 g d a 0 0 0)
  | .popc g d a => some (xword 0x03 g d a 0 1 0)
  | .bfx g d a pos len sx => some (xword 0x03 g d a 0 2 (0#18 ++ BitVec.ofBool sx ++ len ++ pos))
  | .bfi g d a pos len => some (xword 0x03 g d a 0 3 (0#19 ++ len ++ pos))
  | .mov g d a => some (xword 0x0A g d a 0 0 0)
  | .addi g d a imm => some (xword 0x04 g d a 0 0 imm)
  | .andi g d a imm => some (xword 0x05 g d a 0 0 imm)
  | .ori g d a imm => some (xword 0x06 g d a 0 0 imm)
  | .xori g d a imm => some (xword 0x07 g d a 0 0 imm)
  | .li g d imm => some (xword 0x08 g d 0 0 0 imm)
  | .lih g d a imm => some (xword 0x09 g d a 0 0 imm)
  | .cmpEq g pd a b => some (xword 0x0C g (0#2 ++ pd) a b 0 0)
  | .cmpNe g pd a b => some (xword 0x0C g (0#2 ++ pd) a b 1 0)
  | .cmpLt g pd a b => some (xword 0x0C g (0#2 ++ pd) a b 2 0)
  | .cmpLe g pd a b => some (xword 0x0C g (0#2 ++ pd) a b 3 0)
  | .cmpLtu g pd a b => some (xword 0x0C g (0#2 ++ pd) a b 4 0)
  | .cmpLeu g pd a b => some (xword 0x0C g (0#2 ++ pd) a b 5 0)
  | .pand g pd pa pb na nb => some (xword 0x0D g (0#2 ++ pd) (0#2 ++ pa) (0#2 ++ pb) 0 (0#30 ++ BitVec.ofBool nb ++ BitVec.ofBool na))
  | .por g pd pa pb na nb => some (xword 0x0D g (0#2 ++ pd) (0#2 ++ pa) (0#2 ++ pb) 1 (0#30 ++ BitVec.ofBool nb ++ BitVec.ofBool na))
  | .pnot g pd pa => some (xword 0x0D g (0#2 ++ pd) (0#2 ++ pa) 0 2 0)
  | .sel g d a b pp np => some (xword 0x0B g d a b 0 (0#28 ++ BitVec.ofBool np ++ pp))
  | .pbt g bd a imm => some (xword 0x20 g (0#3 ++ bd) a 0 0 imm)
  | .bt g bd commit cn cp => some (xword 0x21 g (0#3 ++ bd) 0 0 0 (0#26 ++ commit ++ BitVec.ofBool cn ++ cp))
  | .call g d bn => some (xword 0x22 g d 0 0 0 (0#30 ++ bn))
  | .ret g a => some (xword 0x23 g 0 a 0 0 0)
  | .loop g ld a icount bodylen => some (xword 0x24 g (0#3 ++ ld) a 0 0 (icount ++ bodylen))
  | .brk g => some (xword 0x25 g 0 0 0 0 0)
  | .trig g => some (xword 0x26 g 0 0 0 0 0)
  | .exit g => some (xword 0x27 g 0 0 0 0 0)
  | .nop g => some (xword 0x28 g 0 0 0 0 0)
  | .cmtb g => some (xword 0x29 g 0 0 0 0 0)
  | .clrb g => some (xword 0x29 g 0 0 0 1 0)
  | .vany g pd ma mb masked => some (xword 0x2A g (0#2 ++ pd) (0#2 ++ ma) (0#2 ++ mb) 0 (0#31 ++ BitVec.ofBool masked))
  | .vall g pd ma mb masked => some (xword 0x2A g (0#2 ++ pd) (0#2 ++ ma) (0#2 ++ mb) 1 (0#31 ++ BitVec.ofBool masked))
  | .ld g d a w u acq scope imm => some (xword 0x30 g d a (scope ++ BitVec.ofBool acq ++ BitVec.ofBool u) (0#1 ++ w) imm)
  | .loadReturn _ _ => none
  | .st g a b w rel scope imm => some (xword 0x31 g (scope ++ BitVec.ofBool rel ++ 0#1) a b (0#1 ++ w) imm)
  | .accessPerform _ => none
  | .lds g d a w u imm => some (xword 0x32 g d a (0#4 ++ BitVec.ofBool u) (0#1 ++ w) imm)
  | .sts g a b w imm => some (xword 0x33 g 0 a b (0#1 ++ w) imm)
  | .mark g => some (xword 0x34 g 0 0 0 0 0)
  | .fence g scope eng => some (xword 0x35 g 0 0 0 scope (0#31 ++ BitVec.ofBool eng))
  | .amoAdd g d a b scope w64 => some (xword 0x36 g d a b 0 (0#28 ++ BitVec.ofBool w64 ++ scope))
  | .amoAnd g d a b scope w64 => some (xword 0x36 g d a b 1 (0#28 ++ BitVec.ofBool w64 ++ scope))
  | .amoOr g d a b scope w64 => some (xword 0x36 g d a b 2 (0#28 ++ BitVec.ofBool w64 ++ scope))
  | .amoXor g d a b scope w64 => some (xword 0x36 g d a b 3 (0#28 ++ BitVec.ofBool w64 ++ scope))
  | .amoMin g d a b scope w64 => some (xword 0x36 g d a b 4 (0#28 ++ BitVec.ofBool w64 ++ scope))
  | .amoMax g d a b scope w64 => some (xword 0x36 g d a b 5 (0#28 ++ BitVec.ofBool w64 ++ scope))
  | .amoMinu g d a b scope w64 => some (xword 0x36 g d a b 6 (0#28 ++ BitVec.ofBool w64 ++ scope))
  | .amoMaxu g d a b scope w64 => some (xword 0x36 g d a b 7 (0#28 ++ BitVec.ofBool w64 ++ scope))
  | .amoSwap g d a b scope w64 => some (xword 0x37 g d a b 0 (0#28 ++ BitVec.ofBool w64 ++ scope))
  | .cas g d a b scope w64 => some (xword 0x37 g d a b 1 (0#28 ++ BitVec.ofBool w64 ++ scope))
  | .pinRetry _ _ => none
  | .pinTimeout _ _ => none
  | .tkwait g q0 q1 q2 => some (xword 0x40 g 0 0 0 0 (0#20 ++ q2 ++ q1 ++ q0))
  | .tkpost g q => some (xword 0x41 g 0 0 0 0 (0#28 ++ q))
  | .tokenDeadlock _ => none
  | .fqpush g d a => some (xword 0x42 g d a 0 0 0)
  | .sqpush g d a n => some (xword 0x43 g d a 0 (0#2 ++ n) 0)
  | .ypop g d => some (xword 0x44 g d 0 0 0 0)
  | .qcancel g d a => some (xword 0x45 g d a 0 0 0)
  | .fqLeftover _ => none
  | .iterationRetire _ => none
  | .barInit g n expect => some (xword 0x46 g 0 0 0 0 (0#13 ++ expect ++ n))
  | .barArv g d n => some (xword 0x46 g d 0 0 1 (0#25 ++ n))
  | .barExp g d a n arv => some (xword 0x46 g d a 0 2 (0#24 ++ BitVec.ofBool arv ++ n))
  | .barWait g a n => some (xword 0x46 g 0 a 0 3 (0#25 ++ n))
  | .barTest g pd a n => some (xword 0x46 g (0#2 ++ pd) a 0 4 (0#25 ++ n))
  | .tideRd g d => some (xword 0x47 g d 0 0 0 0)
  | .regionTimed g lead chain => some (xword 0x48 g 0 0 0 0 (0#15 ++ BitVec.ofBool chain ++ lead))
  | .tideBase g a => some (xword 0x47 g 0 a 0 1 0)
  | .regionLocked g => some (xword 0x48 g 0 0 0 1 0)
  | .scheduleMiss _ => none
  | .regionRestart _ => none
  | .csrr g d csr => some (xword 0x50 g d 0 0 0 (0#20 ++ csr))
  | .csrw g a csr => some (xword 0x51 g 0 a 0 0 (0#20 ++ csr))
  | .jnlbaseApply _ => none
  | .syscInfo g n => some (xword 0x52 g 0 0 0 0 n)
  | .syscLog g => some (xword 0x52 g 0 0 0 0 1)
  | .syscPrefault g => some (xword 0x52 g 0 0 0 0 2)
  | .syscYield g => some (xword 0x52 g 0 0 0 0 3)
  | .trap g imm => some (xword 0x53 g 0 0 0 0 imm)
  | .bkpt g imm => some (xword 0x54 g 0 0 0 0 imm)
  | .opbind g d a b idx => some (xword 0x5F g d a b 0 (0#26 ++ idx))
  | .bundleFetch _ _ _ => none
  | .engineIssue _ _ => none
  | .mma y aw bw acc koff => some (eword 0x60 y (aw ++ bw ++ acc ++ koff))
  | .mmaS y aw sp nm1 acc => some (eword 0x61 y (aw ++ sp ++ nm1 ++ acc ++ 0#6))
  | .mmaC y bw asrc acc mm1 => some (eword 0x62 y (bw ++ asrc ++ acc ++ mm1 ++ 0#3))
  | .accZero y acc anchor => some (eword 0x63 y (0#9 ++ acc ++ anchor))
  | .accLd y w acc row0 => some (eword 0x64 y (w ++ acc ++ row0 ++ 0#8))
  | .accRd y w acc row0 rm wide => some (eword 0x65 y (w ++ acc ++ row0 ++ rm ++ BitVec.ofBool wide ++ 0#5))
  | .accRdx y w acc row0 => some (eword 0x66 y (w ++ acc ++ row0 ++ 0#8))
  | .accRebase y acc n => some (eword 0x67 y (0#15 ++ acc ++ n))
  | .accWm y d acc row => some (eword 0x68 y (d ++ acc ++ row ++ 0#8))
  | .accStat y d acc clr => some (eword 0x69 y (d ++ acc ++ 0#13 ++ clr))
  | .tdRd y d kind index => some (eword 0x6A y (d ++ BitVec.ofBool kind ++ index ++ 0#10))
  | .tfillZero y blk nm1 => some (eword 0x6B y (0#2 ++ 0#4 ++ blk ++ 0#5 ++ nm1))
  | .tfillConst y fmt blk a nm1 => some (eword 0x6B y (1#2 ++ fmt ++ blk ++ a ++ nm1))
  | .tfillIdent y fmt blk nm1 => some (eword 0x6B y (2#2 ++ fmt ++ blk ++ 0#5 ++ nm1))
  | .matrixComplete _ => none
  | .vshape y shape => some (eword 0x70 y (0#2 ++ shape))
  | .vld y vr port win xo vf mken mm => some (eword 0x71 y (vr ++ BitVec.ofBool port ++ win ++ xo ++ vf ++ BitVec.ofBool mken ++ mm ++ 0#1))
  | .vst y vr port win xo vf mken mm => some (eword 0x72 y (vr ++ BitVec.ofBool port ++ win ++ xo ++ vf ++ BitVec.ofBool mken ++ mm ++ 0#1))
  | .vmov y o => some (eword 0x73 y (vopBits o))
  | .vbcast y o => some (eword 0x74 y (vopBits o))
  | .vadd y o => some (eword 0x75 y (vopBits o))
  | .vsub y o => some (eword 0x76 y (vopBits o))
  | .vmul y o => some (eword 0x77 y (vopBits o))
  | .vfma y o => some (eword 0x78 y (vopBits o))
  | .vmin y o => some (eword 0x79 y (vopBits o))
  | .vmax y o => some (eword 0x7A y (vopBits o))
  | .vabs y o => some (eword 0x7B y (vopBits o))
  | .vneg y o => some (eword 0x7C y (vopBits o))
  | .vand y o => some (eword 0x7D y (vopBits o))
  | .vor y o => some (eword 0x7E y (vopBits o))
  | .vxor y o => some (eword 0x7F y (vopBits o))
  | .vshl y o => some (eword 0x80 y (vopBits o))
  | .vshr y o => some (eword 0x81 y (vopBits o))
  | .viadd y o => some (eword 0x82 y (vopBits o))
  | .vimul y o => some (eword 0x83 y (vopBits o))
  | .vcmp y o => some (eword 0x84 y (vopBits o))
  | .vsel y o => some (eword 0x85 y (vopBits o))
  | .vcvt y towin dst va dfmt vf rm pol dsmode => some (eword 0x86 y (BitVec.ofBool towin ++ dst ++ va ++ dfmt ++ vf ++ rm ++ pol ++ BitVec.ofBool dsmode ++ 0#1))
  | .vred y o => some (eword 0x87 y (vopBits o))
  | .vscan y o => some (eword 0x88 y (vopBits o))
  | .vtrn y o => some (eword 0x89 y (vopBits o))
  | .vperm y o => some (eword 0x8A y (vopBits o))
  | .vext y vd va vb vf xo => some (eword 0x8B y (vd ++ va ++ vb ++ vf ++ xo ++ 0#2))
  | .vrcp y o => some (eword 0x90 y (vopBits o))
  | .vrsq y o => some (eword 0x91 y (vopBits o))
  | .vrcps y o => some (eword 0x92 y (vopBits o))
  | .vrsqs y o => some (eword 0x93 y (vopBits o))
  | .vexp2 y o => some (eword 0x94 y (vopBits o))
  | .vlog2 y o => some (eword 0x95 y (vopBits o))
  | .vectorLand _ _ => none
  | .twdef g a b n => some (xword 0x98 g 0 a b 0 (0#26 ++ n))
  | .agset g a n => some (xword 0x99 g 0 a 0 0 (0#29 ++ n))
  | .spbindIn g p agd scaled ags fmt layout fam => some (xword 0x9A g 0 0 0 0 (0#16 ++ BitVec.ofBool fam ++ layout ++ fmt ++ ags ++ BitVec.ofBool scaled ++ agd ++ p))
  | .spbindOut g p agd fmt => some (xword 0x9A g 0 0 0 1 (0#19 ++ fmt ++ 0#4 ++ agd ++ p))
  | .spbindOff g p => some (xword 0x9A g 0 0 0 2 (0#30 ++ p))
  | .streamPortFetch _ _ => none
  | .outputPortWrite _ _ => none
  | .cpy y xd xs xn dir bar baren => some (eword 0x9B y (xd ++ xs ++ xn ++ dir ++ bar ++ BitVec.ofBool baren ++ 0#1))
  | .cpyNd y mode win sag dag bar baren => some (eword 0x9C y (mode ++ win ++ sag ++ dag ++ bar ++ BitVec.ofBool baren ++ 0#4))
  | .copyPiecePerform _ _ _ => none
  | .copyComplete _ _ => none
  | .collStart g d a b comm reply => some (xword 0xA8 g d a b 0 (0#15 ++ BitVec.ofBool reply ++ comm))
  | .uop opc w0 w1 w2 pq arg => some (opc ++ w0 ++ w1 ++ w2 ++ pq ++ arg)
  | .ldeLoad _ _ _ => none
  | .ldeVerify _ _ => none
  | .gatherRows _ => none
  | .gatherElem _ => none
  | .scatterRows _ => none
  | .scatterAdd _ => none
  | .mergeAdd _ => none
  | .ieBatchComplete _ => none
  | .sqCommandEnd _ _ => none
  | .collEntryStart _ => none
  | .send _ => none
  | .recv _ => none
  | .recvXadd _ => none
  | .recvFadd _ => none
  | .fwd _ => none
  | .collMessageArrive _ _ => none
  | .collEntryEnd _ => none
  | .faultStop _ => none
  | .frameClose _ => none
  | .holdAbortTimeout _ => none
  | .faultRecordTimeout _ => none
  | .restoreContext _ _ => none
  | .placeIteration _ _ => none
  | .placeCohort _ => none
  | .triggerRelease _ => none
  | .periodStart => none
  | .newcomerTimeout _ => none
  | .drainRedecide _ => none
  | .quantumExpire _ => none
  | .leaseGrant _ => none
  | .leaseForceCheckpoint _ => none
  | .leaseOutcome _ _ => none
  | .leaseHoldLimit _ => none
  | .rotationLease _ _ => none
  | .watchLease _ _ => none
  | .scoreDecay => none
  | .quayLeaseDefer _ => none
  | .channelHold _ _ => none
  | .channelHoldEnd _ _ => none
  | .quayFlitSend _ => none
  | .flitReceive _ _ _ => none
  | .nakReceive _ _ => none
  | .linkDown _ => none
  | .wridxFetchadd _ _ _ => none
  | .wridxDoorbell _ _ _ => none
  | .ringcfgWrite _ _ _ => none
  | .rdmirrorWrite _ _ _ => none
  | .halt _ _ => none
  | .resume _ _ => none
  | .cancel _ _ => none
  | .kill _ _ => none
  | .reset _ _ => none
  | .registerWrite _ _ _ _ => none
  | .commandAccept _ _ => none
  | .launch _ _ => none
  | .invoke _ _ => none
  | .graph _ _ => none
  | .berthLoad _ _ => none
  | .berthDrop _ _ => none
  | .berthFree _ _ => none
  | .signal _ _ => none
  | .wait _ _ => none
  | .waitTimeout _ _ => none
  | .fenceCommand _ _ => none
  | .nopCommand _ _ => none
  | .capture _ _ => none
  | .replay _ _ => none
  | .commandComplete _ _ _ => none
  | .launchNode _ => none
  | .copyNode _ => none
  | .cond _ => none
  | .loopNode _ => none
  | .signalNode _ => none
  | .waitNode _ => none
  | .tokgrantSet _ _ _ => none
  | .vfctlSet _ _ _ _ _ => none
  | .drainSet _ _ _ => none
  | .l2clsWrite _ _ _ _ => none
  | .l2monWrite _ _ _ => none
  | .l2flush _ _ _ => none
  | .l2cntRead _ _ _ => none
  | .sleeveSet _ _ _ _ _ _ _ _ => none
  | .sleeveJoin _ _ _ _ _ => none
  | .matWrite _ _ _ _ _ _ _ => none
  | .ptEdit _ _ _ _ _ => none
  | .migTrack _ _ => none
  | .migDirty _ _ _ _ _ => none
  | .migStop _ _ => none
  | .pagingSet _ _ _ _ => none
  | .faultDone _ _ _ => none
  | .dbgAttach _ _ => none
  | .dbgRead _ _ _ => none
  | .dbgWrite _ _ _ _ => none
  | .dbgResume _ _ _ => none
  | .dbgDetach _ _ => none
  | .logRead _ => none
  | .leaseList _ _ _ => none
  | .scoreRead _ _ _ => none
  | .retireList _ => none
  | .dryCtl _ _ _ => none
  | .dryLocate _ _ _ _ _ => none
  | .keyLoad _ _ _ _ => none
  | .vfReset _ _ => none
  | .qbwSet _ _ _ _ => none
  | .commSet _ _ _ _ _ _ => none
  | .flr _ => none
  | .tdispError _ => none
  | .coldReset _ => none
  | .warmReset _ => none
  | .sidebandCold _ => none
  | .sidebandWarm _ => none
  | .sidebandStatus => none
  | .sidebandLoad _ => none
  | .pwrstatWrite _ => none
  | .powerWindow _ => none
  | .holdAnswer _ _ => none
  | .rdcLineLeave _ _ => none
  | .linkRetrained _ => none
  | .powerDown => none
  | .quantumCheckpoint _ => none
  | .spdmRequest _ _ => none
  | .tdispRequest _ _ => none
  | .sriovVfEnable _ => none

/-- The instruction read from the `nbits` low bits `w` of an instruction word, laid out in memory as R74 says. -/
def decodeTableWord (nbits w : Nat) : Option Instr :=
  match decodeBytes (bytesOfWord (BitVec.ofNat 64 (w % 2 ^ nbits))) with
  | .ok (i, _) => some i
  | .error _ => none

end Sys2Proof
end

