-- ==== Sys2Proof/Config.lean ====
section
/-! DEFINITION. What an implementation fixes and the spec leaves open: opaque constants that nothing in Lean can evaluate
(the free values of the assumption log), and the constants the spec itself fixes. -/

namespace Sys2Proof.Config

/-- The 64-byte SHAKE256 digest of a byte string: the spec names the function and does not give it (log 11). -/
opaque shake256 : List Byte → List Byte

/-- What a 16-byte AES block of a sector stored under key `stored` reads as under another key `used` (R351, R352): ciphertext decrypted under
the requester's key. `block` is the block's address divided by 16, which gives the sector's tweak and the block's place in it; the bytes are
the plain ones that were stored (log 11). -/
opaque xtsView : (stored used block : Nat) → List Byte → List Byte

/-- The answer bytes of an SPDM request, by its place in the list of R425: the protocol is named, its messages are not given
(log 12). -/
opaque spdmAnswer : (vf code session : Nat) → List Byte

/-- The key that a wrapped key blob yields under an SPDM session (R414), as the number that names it (log 11). -/
opaque unwrapKey : (session : Nat) → List Byte → Nat

/-- The measured content of blocks 1 and 2 (R426): the boot ROM and the signed firmware images, which the spec does not give; `loaded` lists the images loaded since (log 12). -/
opaque bootMeasurement : (block : Nat) → (loaded : List Nat) → List Byte

/-- The number and the seed of the pattern set that FC4 runs on a unit of each kind, the outputs that the set defines for a seed, and the VC0 flits
of a quay's pattern (R441, R442): part of the firmware image, which the spec does not give (log 13). -/
opaque patternSet : UnitKind → Nat
opaque patternSeed : UnitKind → Nat
opaque patternOut : UnitKind → (seed : Nat) → List Byte
/-- The golden digest: SHAKE256 of every output that the set defines (R442). -/
def golden (k : UnitKind) (seed : Nat) : List Byte := shake256 (patternOut k seed)
opaque patternFlits : (seed : Nat) → List (List Byte)

/-- FC5's signature of the retirement table (R448): Falcon-1024, which the spec names and does not give (log 12). -/
opaque sign : List Byte → List Byte

/-- The identifiers of Falcon-1024 and SHAKE256 in the extended algorithm fields, and the certificate chain of slot 0 (R425; log 12). -/
opaque spdmFalcon : BitVec 32
opaque spdmShake : BitVec 32
opaque certChain : List Byte

/-- The power controller's estimate of a window, in watts (R457): what it measures (log 91). -/
opaque powerEstimate : (window : Nat) → Nat

/-- The allotment that FC1 gives a context of a function at creation, as scratchpad blocks, tiles and barriers: the spec says
that FC1 chooses it and not how (R25; log 35). A number above what a core has is taken as what it has. -/
opaque allot : (vf : Nat) → Nat × Nat × Nat

/-- Bits [55:16] of the journal ring that FC1 places at creation (R33): FC1's choice (log 35). -/
opaque jnlRing : (ctx : Nat) → BitVec 40

/-- The virtual address of the `n`-th block of a function's invocation area (R380), in units of 64 bytes: FC0's choice
(log 35). -/
opaque invokeBlock : (vf n : Nat) → BitVec 50

/-- How many receive credits beyond the first a VC of a quay has (R429): the spec says that each VC has its own and not how many
(log 59). -/
opaque vcCredits : (vc : Nat) → Nat

/-- This module's fabric address (R430, R432): FC7's, which the spec does not give (log 59). -/
opaque fabricAddr : BitVec 16

/-- The hash by which requests spread over the quays of an entry (R431): the spec names it and does not give it (log 59). -/
opaque quayHash : (sector : Nat) → Nat

/-- A byte of a sector whose dirty line left the L2 without a write-back (R414): what the channel still held is an earlier content, which the
model does not keep (log 85). -/
opaque lostByte : (tide pa : Nat) → BitVec 8

/-- The word count of the WCS base region (R261). -/
def baseWords : Nat := 4096

/-- A word of the base region whose listing the spec does not give (R263; log 75). -/
opaque baseWord : (n : Nat) → BitVec 128

/-- Where the base routine of an engine instruction starts, where the spec does not say (R263; log 75). -/
opaque baseEntry : (opc : BitVec 8) → BitVec 13

/-- MPC, STEPS, MLC and mt0 to mt7, by place, of a base routine whose listing the spec does not give, once it has made some progress with an
instruction word (R278; log 75). -/
opaque baseRecord : (word : Word) → (progress place : Nat) → Word

/-- Default drain bound of a sleeve in tide cycles (R315). -/
def drainDefault : Nat := 540000

/-- The arena that FC2 fixes at reset (R355): a 1 GiB-aligned range of at most 16 GiB; the spec gives no address
(log 6, DESIGN CHOICE). -/
def arenaBase : Nat := 0x1FC00000000

/-- One byte past the arena (R355; log 6). -/
def arenaLimit : Nat := 0x20000000000

/-- Where FC1 allocates save areas (R303) and FC2 invocation areas (R380), just below the arena (log 6). -/
def saveBase : Nat := 0x1F000000000

end Sys2Proof.Config
end

