-- ==== Sys2Proof/Machine/State.lean ====
section
/-! DEFINITION. The state of the A9 as plain data: the module, its cores, its contexts and their four sequencers, and
what the firmware and the links hold (R7 to R38 and the chapters that own the rest), the reasons a step stops, and the
state after reset. INVENTORY.md lists each field with its rule. -/

namespace Sys2Proof.Machine

/-- Data by number in one canonical form: keys strictly rising, no entry equal to the default. -/
abbrev Sparse (β : Type) := List (Nat × β)

/-- A recorded cause and its FAULTADDR value (R134, R302, R467); `wr` is the right a translation fault lacked (R313). -/
structure Cause where
  code : Nat
  detail : Nat := 0
  addr : Word := 0
  wr : Bool := false
deriving DecidableEq, Repr

/-! ## One sequencer -/

/-- One active loop: its lc register, the first body word and the word after the body (R124, R125). -/
structure LoopEntry where
  lc : BitVec 2
  start : Word
  stop : Word
deriving DecidableEq, Repr

/-- A pending transfer: slot words still to issue, the address it sets, and whether it was taken (R120 to R122). -/
structure Xfer where
  slots : Nat
  target : Word
  taken : Bool
deriving DecidableEq, Repr

/-- A fetched bundle and its poison tag (R114). -/
structure Bundle where
  addr : Nat
  poison : Option Cause
deriving DecidableEq, Repr

/-- What a queue entry does when it performs (R288). -/
inductive QKind
  | ld | st | lds | sts | mark
  | amo (sub : Nat)
  | swap
  | cas
deriving DecidableEq, Repr

/-- An entry of a load or store queue (R288). `ord` is its place in program order; MARK, AMO and CAS stand in both queues. -/
structure QEntry where
  ord : Nat
  kind : QKind
  va : Word := 0
  pa : Nat := 0
  len : Nat := 0
  key : Nat := 0
  reg : BitVec 5 := 0
  ext : Bool := false
  boost : Nat := 0
  ordered : Bool := false
  scope : Nat := 0
  data : Word := 0
  old : Word := 0
  refused : Bool := false
  since : Nat := 0
deriving DecidableEq, Repr

/-- A register marked poisoned by an uncorrectable load (R145): the load's place in program order and its address. -/
structure Mark where
  reg : BitVec 5
  ord : Nat
  addr : Word
deriving DecidableEq, Repr

/-- Why a stream stands still (R155, R304). Only the first five count for TOKEN_DEADLOCK; `slot` is a copy that has taken its tokens and
waits for a slot (R247), `cancel` a QCANCEL that lets the pops of its cycle go first (R161), and `step` a word of
a tenant routine that has run a step in this cycle (R265). -/
inductive StallKind
  | take | post | push | ypop | missed | other | slot | cancel | step
deriving DecidableEq, Repr

/-- The state of a micro-sequencer: the record of R278 in structured form, the cycle in which the next step may start (R267), whether the DONE
step has run (R265), what the directory sample of a bound product proves (0 nothing, else the rule of R199 by place), whether a slab
of it was computed in full, and the two words of each window as the binding sampled it (R235). -/
structure Micro where
  active : Bool := false
  base : Bool := false
  word : Word := 0
  binding : Word := 0
  mpc : Nat := 0
  z : Bool := false
  n : Bool := false
  c : Bool := false
  steps : Nat := 0
  mlc0 : BitVec 32 := 0
  mlc1 : BitVec 32 := 0
  mt : Vector Word 8 := Vector.replicate 8 0
  mword : Option (Word × Nat) := none
  mops : BitVec 26 := 0
  form : Nat := 0
  bound : Bool := false
  slabs : Nat := 0
  due : Nat := 0
  fin : Bool := false
  elide : Option Nat := none
  full : Bool := false
  wins : List (BitVec 64 × BitVec 64) := []
deriving DecidableEq, Repr

/-- One sequencer of a context (R7). `bkptSkip` is the address at which it resumes past a breakpoint match (R322). -/
structure Seq where
  pc : Word
  x : Vector Word 32
  p : Vector Bool 8
  bt : Vector Word 4
  lc : Vector (BitVec 32) 4
  loops : List LoopEntry
  loopBuf : Sparse Word
  xfer : Option Xfer
  exited : Bool
  marks : List Mark
  bundles : List Bundle
  loadQ : List QEntry
  storeQ : List QEntry
  ord : Nat
  bkpt : Vector Word 16
  bkptSkip : Option Word
  stall : Option (Word × StallKind)
  micro : Micro
deriving DecidableEq, Repr

/-- A sequencer at creation of its context (R7). -/
def Seq.init : Seq :=
  { pc := 0, x := Vector.replicate 32 0, p := (Vector.replicate 8 false).set 0 true, bt := Vector.replicate 4 0,
    lc := Vector.replicate 4 0, loops := [], loopBuf := [], xfer := none, exited := false, marks := [], bundles := [],
    loadQ := [], storeQ := [], ord := 0, bkpt := Vector.replicate 16 0, bkptSkip := none, stall := none,
    micro := {} }

/-- The four sequencers of a context. -/
structure Seqs where
  x : Seq
  l : Seq
  c : Seq
  s : Seq
deriving DecidableEq, Repr

/-! ## Boost -/

/-- A shadow entry (R14): level 1 or 2, the register named (`isP` for a predicate), its value, the poison record and the
issue order at which it was written. -/
structure Shadow where
  lv : Nat
  isP : Bool
  reg : Nat
  val : Word
  poison : Option Cause
  ord : Nat
deriving DecidableEq, Repr

/-- The record of a level (R135): PC and issue order of the first word that wrote an entry of it, and the transfer that was pending
when it issued, which a restart in a delay slot still owes (R122). -/
structure LevelRec where
  pc : Word
  ord : Nat
  xfer : Option Xfer
deriving DecidableEq, Repr

/-- The shadow file of the X sequencer and the level records of R135. -/
structure Boost where
  entries : List Shadow
  rec1 : Option LevelRec
  rec2 : Option LevelRec
deriving DecidableEq, Repr

/-! ## One context -/

/-- The context CSRs that are held as words (R35). VSTAT and the rest keep their register layout; JNLLOW is computed and
REGMODE holds TIMED and MISSFAULT. -/
structure Csrs where
  codebase : Word
  codebound : Word
  spbase : Word
  splimit : Word
  accmap : Word
  tidebase : Word
  regmode : Word
  schedmiss : Word
  vshape : Word
  vctl : Word
  vstat : Word
  faultcause : Word
  faultaddr : Word
  faultpc : Vector Word 4
  jnlbase : Word
  jnlhead : Word
  capword : Word
  tdstat : Word
  scopelimit : Word
  scopeclamp : Word
  featmask : Word
  prio : Word
  est : Word
deriving DecidableEq, Repr

/-- The CSRs and the ACCSTATs as they stood before the first CSRW of a tide cycle (R36). -/
structure CsrOld where
  tide : Nat
  csrs : Csrs
  acc : List (Nat × Word)
deriving DecidableEq, Repr

/-- A word of FQ with its sequence number (R32, R33). -/
structure FqEntry where
  word : Word
  seq : Nat
deriving DecidableEq, Repr

/-- A command block of SQ0 or SQ1 (R159). -/
structure SqEntry where
  seq : Nat
  blk : List Byte
deriving DecidableEq, Repr

/-- An entry of the collective queue (R259). -/
structure CollEntry where
  seq : Nat
  prog : Word
  arg : Word
  comm : Nat
  reply : Bool
deriving DecidableEq, Repr

/-- A journal entry (R156): queue 1 to 4, state 1 to 5, ITER, and the 48 body bytes. -/
structure JEntry where
  seq : Nat
  queue : Nat
  state : Nat
  iter : BitVec 32
  body : List Byte
deriving DecidableEq, Repr

/-- The open timed region of the C stream (R165 to R170): held tokens and format words, deferred posts with the in-flight
order that must complete first, the stamps used, the miss being waited out, and whether the region runs again after a restart; `ords` is the
place in program order of what took each of `held`, `need` and `needFq` the tokens and format words that the region takes again before a
missed word (R169). -/
structure Region where
  head : Word
  lead : Nat
  held : List Nat
  heldFq : List FqEntry
  posts : List (Nat × Nat)
  stamps : List (Nat × EUnit)
  sent : Bool
  missed : Option Word
  opened : Nat
  again : Bool
  ords : List Nat := []
  need : List Nat := []
  needFq : Nat := 0
deriving DecidableEq, Repr

/-- A tile window (R27, R236). -/
structure Win where
  valid : Bool
  w0 : Word
  w1 : Word
deriving DecidableEq, Repr

/-- An affine program (R240). -/
structure AgProg where
  base : Word
  chunk : Nat
  space : Nat
  count : List Nat
  stride : List Word
deriving DecidableEq, Repr

/-- An address generator (R27, R239): its program, whether programmed, the chunks already yielded, and the port bound. -/
structure Ag where
  prog : AgProg
  programmed : Bool
  pos : Nat
  port : Option Nat
deriving DecidableEq, Repr

/-- One byte of a port FIFO, or the poison tag it was entered with (R243): cause code and address. -/
structure PByte where
  b : Byte
  poison : Option Cause
deriving DecidableEq, Repr

/-- Bytes that a VST pushed to an output port and that are not yet written: the in-flight order of the VST (R244). -/
structure OutByte where
  b : Byte
  owner : Nat
deriving DecidableEq, Repr

/-- A stream port (R27, R242 to R244): 0 unbound, 1 input, 2 output. `chunkOff` and `schunkOff` are the bytes of the generators'
current chunks that have been used, `taken` the elements consumed of the first block of the FIFO. -/
structure Port where
  dir : Nat
  agd : Nat
  ags : Option Nat
  fmt : Nat
  layout : Nat
  fam : Bool
  fifo : List PByte
  sfifo : List PByte
  chunkOff : Nat
  schunkOff : Nat
  taken : Nat
  outQ : List OutByte
deriving DecidableEq, Repr

/-- An exact value (R46, R51): NaN with its signalling mark, an infinity or a zero with its sign, or m × 2^e, m not 0. -/
inductive Num
  | nan (sig : Bool)
  | inf (neg : Bool)
  | zero (neg : Bool)
  | fin (m : Int) (e : Int)
deriving DecidableEq, Repr

/-- An accumulator element (R19): residue, check, tag and term count. -/
structure Elem where
  c1 : BitVec 21
  c2 : BitVec 21
  c3 : BitVec 22
  check : BitVec 8
  tag : BitVec 2
  count : Nat
deriving DecidableEq, Repr

/-- An accumulator tile with its ACCSTAT parts and its directory entry (R19, R21, R195). WM and BUSY are computed from the
writers in flight; `wmHold` is the hold of R189 at WM 0 with BUSY 1 after a mid-K fault. -/
structure Tile where
  elems : Sparse Elem
  anchor : BitVec 12
  wmHold : Bool
  partialBit : Bool
  chkerr : Bool
  depth : Bool
  inx : Bool
  wovf : Bool
  general : Bool
  special : Bool
deriving DecidableEq, Repr

/-- The slabs of a product in the array (R185, R316): those done before it came there, the tile without the others, the values that they
multiply, and the tide at which each of them is done. -/
structure Slabs where
  done : Nat
  tile : Tile
  a : List (List Num)
  b : List (List Num)
  ends : List Nat
deriving DecidableEq, Repr

/-- What an engine instruction does when it lands (R181, R230). -/
inductive Effect
  /-- Bytes of a vector register. -/
  | vbytes (r : Nat) (bytes : List (Nat × Byte))
  /-- Bits of a vector predicate: those of `mask` become those of `val`. -/
  | pred (r : Nat) (mask val : BitVec 1024)
  /-- Scratchpad bytes by physical offset, with the directory rule of R196. -/
  | sp (bytes : List (Nat × Byte))
  /-- A register of a stream. -/
  | xreg (st : Stream) (r : BitVec 5) (v : Word)
  /-- Flags for VSTAT. -/
  | flags (f : Word)
  /-- TFILL of physical blocks: kind, format, pattern and the first block and count (R198). -/
  | fill (kind fmt : Nat) (pat : Word) (blk n : Nat)
  /-- The class of a physical tile's entry became ZERO, or GENERAL, or stayed after an elision, as the writer issued; SPECIAL follows as
  it completes (R195). -/
  | tileEntry (t : Nat) (zero : Option Bool)
  /-- A window write of raw bytes pushed to an output port. -/
  | portOut (p : Nat) (bytes : List Byte)
deriving DecidableEq, Repr

/-- An engine instruction that has issued and not completed (R181, R230). `tile` is the tile it writes, with the rows that are
final from `rowBase` on; `rtile` the tile it reads until cycle `readTo`; `mid` the slabs done by a product that takes its B operand
from a port, or the bytes written by a VST to a port; `n`, `mask`, `win` and `snap` what was sampled at issue; `vw`, `pw`, `sr` and
`sw` what the scoreboard of R233 must know; `bytes` and `wrote` what a VST pushes to a port and how much of it was written before a stop;
`owns` whether its tokens and format word are its own, not held by an open timed region; `st` the stream, C but for what a step of
another stream's routine lands; `slabs` what a checkpoint must know of a product of two operands on the core. -/
structure Inflight where
  ord : Nat
  st : Stream
  unit : EUnit
  instr : Instr
  pc : Word
  word : Word
  issue : Nat
  due : Nat
  effs : List Effect
  post : Nat
  timed : Bool
  tile : Option Nat
  rows : Nat
  rowFirst : Nat
  rowCount : Nat
  rowBase : Nat
  rtile : Option Nat
  readTo : Nat
  fword : Option FqEntry
  mid : Option Nat
  n : Nat
  mask : BitVec 1024
  win : Win
  snap : Sparse Byte
  vw : List Nat
  pw : List Nat
  sr : List (Nat × Nat)
  sw : List (Nat × Nat)
  port : Option Nat
  bytes : List Byte
  wrote : Nat
  owns : Bool
  slabs : Option Slabs := none
deriving DecidableEq, Repr

/-- A word in an engine queue (R306), with its place in program order. A stamped one has its cycle and the tide at which its region opened
(R168, R398); `left` says that the region has ended (R165), `over` that its cycle has passed and it issues when it can. An instruction
that a fault or a checkpoint stopped between slabs, or between the bytes of a VST to a port, is `taken`, with its progress, its format
word, whether some slab was computed in full (R200), its window (R235), the bytes still to be written, and of a product of two operands on the core
its slabs and what lands as it completes. -/
structure EqEntry where
  ord : Nat
  instr : Instr
  pc : Word
  word : Word
  mid : Option Nat
  fword : Option FqEntry
  taken : Bool
  stamp : Option (Word × Nat) := none
  left : Bool := false
  past : Bool := false
  full : Bool := false
  win : Option Win := none
  bytes : List Byte := []
  slabs : Option Slabs := none
  effs : List Effect := []
deriving DecidableEq, Repr

/-- A copy in flight (R245 to R249): its word and registers as read; for CPY.nd the mode, the programs of source and destination
and the window; the leading pieces done and the later ones done out of order; the scratchpad blocks that received a byte other
than zero; the barrier, the post, whether it has completed and only its post waits, and the fault that stopped it. -/
structure Copy where
  ord : Nat
  st : Stream
  word : Word
  dst : Word
  src : Word
  count : Nat
  dir : Nat
  nd : Option (Nat × AgProg × AgProg × Win)
  lead : Nat
  done : List Nat
  nz : List Nat
  bar : Option Nat
  post : Nat
  landed : Bool
  fault : Option Cause
deriving DecidableEq, Repr

/-- A running index-engine command (R250 to R256): the block, its window and effective scope; the next index to serve, the indices of
the current batch as read and the status met in reading the next of them, the validity bits of the batch, how many indices were
served and elements added, the STATUS, the elements of the current index already added, whether it has finished, whether BAR takes no arrival, whether STATE was written,
the page that FC2 declined to map, and whether the launch was killed, so that the command stops after the batch in progress (R256). -/
structure IeRun where
  seq : Nat
  blk : List Byte
  scope : Nat
  win : Win
  next : Nat
  idx : List Nat
  halt : Option Nat
  bits : Nat
  served : Nat
  applied : Nat
  elem : Nat
  status : Nat
  fin : Bool
  nobar : Bool
  ended : Bool
  refused : Option Nat
  last : Bool := false
deriving DecidableEq, Repr

/-- A merge command that has run and waits for its end (R257, R258): the entries appended, the rows completed, the status, and as for
`IeRun`. -/
structure MuRun where
  seq : Nat
  blk : List Byte
  count : Nat
  rows : Nat
  status : Nat
  nobar : Bool
  ended : Bool
deriving DecidableEq, Repr

/-- A step of a step program (R433). -/
structure CollStep where
  kind : Nat
  chain : Bool
  peer : Nat
  tag : Nat
  peer2 : Nat
  off : Word
  len : Nat
deriving DecidableEq, Repr

/-- A collective entry that a die's engine has started (R436): its steps, those complete, the sends to other modules with the tags of their messages, the status,
whether it has finished, whether STATE was written, and the page that FC2 declined to map. -/
structure CollRun where
  seq : Nat
  entry : CollEntry
  die : Nat
  rank : Nat
  steps : List CollStep
  done : List Nat
  out : List (Nat × Nat)
  status : Nat
  fin : Bool
  ended : Bool
  refused : Option Nat
deriving DecidableEq, Repr

/-- A tenant WCS image (R106): the digest FC5 measured, the micro-words, and where FC5 recorded the copy in device memory that the LDE reads
(R282). -/
structure Image where
  digest : List Byte
  words : List (BitVec 128)
  copy : Nat
deriving DecidableEq, Repr

/-- A stream record of the fault frame (R304). -/
structure StreamRec where
  restart : Word
  trappc : Word
  target : Word
  slots : Nat
  taken : Bool
  exited : Bool
  inregion : Bool
  boostspan : Bool
  routine : Bool
  stalled : Bool
  stallword : Word
deriving DecidableEq, Repr

/-- An engine record of the fault frame (R305). -/
structure EngineRec where
  cause : Word
  addr : Word
  word : Word
  progress : Word
  fword : Word
  qcount : Nat
  unissued : Bool
  midop : Bool
deriving DecidableEq, Repr

/-- A copy record of the fault frame (R305). -/
structure CopyRec where
  word : Word
  dst : Word
  src : Word
  count : Word
  pieces : Word
  cause : Word
  addr : Word
deriving DecidableEq, Repr

/-- The fault frame (R303). -/
structure Frame where
  mode : Nat
  status : Nat
  iter : BitVec 32
  tide : Nat
  cause : Word
  addr : Word
  jnllow : Nat
  jnlhead : Nat
  launchid : Word
  streams : List StreamRec
  engines : List EngineRec
  micros : List Micro
  equeue : List (EUnit × EqEntry)
  copies : List CopyRec
  patch : List (Nat × List Byte) := []
deriving DecidableEq, Repr

/-- No frame written yet. -/
def Frame.empty : Frame :=
  { mode := 0, status := 0, iter := 0, tide := 0, cause := 0, addr := 0, jnllow := 0, jnlhead := 0, launchid := 0,
    streams := [], engines := [], micros := [], equeue := [], copies := [] }

/-- A fault taken by an agent of a context and not yet in the frame (R307): SOURCE, PRECISE, cause; `entry` is what puts an engine
instruction back at the head of its queue at resumption. -/
structure Pending where
  source : Nat
  precise : Bool
  cause : Cause
  tide : Nat
  pc : Word
  word : Word
  fword : Option FqEntry
  progress : Nat
  unissued : Bool
  midop : Bool
  ord : Nat := 0
  entry : Option EqEntry := none
deriving DecidableEq, Repr

/-- Where a context stands (R7, R307, R316, R319). -/
inductive Run
  /-- No iteration is placed. -/
  | idle
  /-- An iteration runs. -/
  | running
  /-- A fault stopped the streams, and the stop has not settled. -/
  | stopping
  /-- A checkpoint stopped the streams, and the stop has not settled. -/
  | saving
  /-- The frame is closed with STATUS FAULTED. -/
  | faulted
  /-- The frame is closed with STATUS HALTED. -/
  | halted
  /-- The context waits for FC2's answer to a translation fault, by record number (0: not a record). -/
  | paging (recno : Nat)
  /-- The context is held in its save area. -/
  | saved
  /-- The context was destroyed. -/
  | gone
deriving DecidableEq, Repr

/-- A change of code bytes that a debugger or FC2 made (R117): where, and the bytes before it, which the iterations that had started go on
fetching. -/
structure CodeEdit where
  addr : Nat
  old : List Byte
deriving DecidableEq, Repr

/-- The tile iteration placed in a context (R8, R13); `edits` counts the changes of code made before it started (R117). -/
structure Iter where
  launch : Nat
  ordinal : Nat
  flat : Nat
  trig : Bool
  placed : Nat
  edits : Nat := 0
deriving DecidableEq, Repr

/-! ## One core -/

/-- A named barrier (R34). -/
structure Barrier where
  init : Bool
  expect : Nat
  pending : Nat
  tx : Int
  phase : Bool
deriving DecidableEq, Repr

/-- A store that has performed at CORE scope and not at its home (R287), in the order the core made them; `va` is
the address that a fault of it would report (R145). -/
structure CStore where
  ctx : Nat
  ag : Option Stream
  seen : List (Nat × Stream)
  pa : Nat
  bytes : List Byte
  key : Nat
  va : Word
deriving DecidableEq, Repr

/-- A line pinned at a core (R295): line number, pinning context and the tide of the pin. -/
structure Pin where
  line : Nat
  ctx : Nat
  since : Nat
deriving DecidableEq, Repr

/-- A tenant bank of the WCS (R261, R262, R282): digest, words loaded so far, whether verified valid or found bad, the tide
from which the next words may come, and the header of the copy that is loaded. -/
structure Bank where
  digest : List Byte
  words : List (BitVec 128)
  need : Nat
  valid : Bool
  bad : Bool
  ctx : Nat
  due : Nat := 0
  head : List Byte := []
deriving DecidableEq, Repr

/-- An entry of a core's translation cache (R358): the leaf of level `lvl` that maps page number `page` of a function. -/
structure TlbEntry where
  vf : Nat
  lvl : Nat
  page : Nat
  base : Nat
  ksel : Bool
  rd : Bool
  wr : Bool
  dirty : Bool
deriving DecidableEq, Repr

/-- One core (R1, R24, R34, R195, R261, R295, R395). `spadErr` numbers the scratchpad words that hold an uncorrectable error (R348);
`refused` lists the pinned lines that an agent outside asked for, each with that agent's number (`seqAsker`), and `noRepin` the lines that
are not pinned again until one of those requests has been served, each with those agents (R296). -/
structure Core where
  spad : Sparse Byte
  spadErr : List Nat
  dir : Sparse Word
  tiles : Vector Tile 32
  bars : Vector Barrier 128
  stores : List CStore
  pins : List Pin
  refused : List (Nat × Nat)
  noRepin : List (Nat × List Nat)
  tlb : List TlbEntry
  bank0 : Bank
  bank1 : Bank
  arrayFree : Nat
  pathFree : Nat
  vecFree : Nat
  sfuFree : Nat
  stageFree : Nat
  lastIssue : Vector Nat 7
  inService : Bool
  leased : Bool
  leasePending : Bool
  pendingSince : Nat
deriving DecidableEq, Repr

/-- One tenant's execution state (R7). -/
structure Ctx where
  vf : Nat
  sleeve : Nat
  core : Option Nat
  service : Bool
  dbg : Bool
  run : Run
  iter : Option Iter
  launchesSeen : List Nat
  seqs : Seqs
  boost : Boost
  csr : Csrs
  csrOld : Option CsrOld
  tok : Vector Nat 13
  region : Option Region
  fq : List FqEntry
  sq0 : List SqEntry
  sq1 : List SqEntry
  sqBlk : Option (List Byte)
  collq : List CollEntry
  yq : List Word
  heldCap : Option Word
  journal : List JEntry
  jnlOut : List (Word × List Byte)
  jnlPending : Option (Stream × Word)
  v : Sparse Byte
  m : Vector (BitVec 1024) 8
  win : Vector Win 64
  winNew : List (Nat × Win)
  ag : Vector Ag 8
  sp : Vector Port 4
  eqM : List EqEntry
  eqV : List EqEntry
  eqS : List EqEntry
  flight : List Inflight
  copies : List Copy
  ie : Option IeRun
  mu : Option MuRun
  coll : Option CollRun
  posts : List (Nat × Nat)
  binding : Vector Word 64
  bindNew : List (Nat × Word)
  image : Option Image
  frame : Frame
  pend : List Pending
  saveArea : Nat
  saved : Bool
  deadSince : Option Nat
  quantum : Nat
  spent : Bool
  hold : Option Nat
  was : Option Run
  idleFrom : Nat
  order : Nat
deriving DecidableEq, Repr

/-! ## The module -/

/-- One way of an L2 set (R352): the line, its class, its key index and which sectors are valid and which dirty. -/
structure L2Line where
  way : Nat
  line : Nat
  cls : Nat
  key : Nat
  valid : List Nat
  dirty : List Nat
deriving DecidableEq, Repr

/-- A line of a die's remote-data cache with its copy (R297, R354): `valid` numbers the sectors that it holds. -/
structure RdcLine where
  die : Nat
  line : Nat
  vf : Nat
  valid : List Nat
  data : Sparse Byte
deriving DecidableEq, Repr

/-- Counters and control of one class on one die (R361). -/
structure L2Class where
  softlim : Nat
  waymask : BitVec 16
  fill : Word
  vict : Word
deriving DecidableEq, Repr

/-- A MAT entry as its two words, with the shared-window mark of R415. -/
structure MatEntry where
  target : MatTarget
  unit : Nat
  index : Nat
  w0 : Word
  w1 : Word
  shared : Bool
deriving DecidableEq, Repr

/-- An entry of a function's peer table (R430): destination, export number, quays, and the route of each of them; `slot` is PA[39:32]. -/
structure PeerEntry where
  slot : Nat
  dest : Nat
  exportNo : Nat
  quays : List Nat
  routes : List Nat := []
deriving DecidableEq, Repr

/-- A request to another module that a quay has accepted (R287, R429 to R431): its tag, function, address and length, what it asks (1 read,
2 write, 3 atomic, 4 abort, 5 message), the quay and the destination, who is told of a failed write, and what came back: whether it failed,
and the bytes. -/
structure PeerReq where
  tag : Nat
  vf : Nat
  pa : Nat
  n : Nat
  op : Nat
  quay : Nat
  dest : Nat
  who : Option (Nat × Nat)
  resp : Option (Bool × List Byte)
deriving DecidableEq, Repr

/-- A message that another module sends (R435, R436): the sender and its tag, the bytes in all, and what has come of it. -/
structure Arriving where
  source : Nat
  tag : Nat
  size : Nat
  msg : CollMsg
deriving DecidableEq, Repr

/-- A segment pinned by a berth (R107), with the 64 KiB physical pages that it pins (R359). -/
structure Seg where
  va : Word
  size : Nat
  off : Nat
  pages : List Nat := []
deriving DecidableEq, Repr

/-- Events that a log records where the spec gives the entry no layout (R9, R94, R308, R351, R353, R355, R357, R310, R365, R428, R448, R454). -/
inductive LogEvent
  | fqLeftover | maskedFeature | keyEmpty | accessDenied | pteMalformed | linkDown | dryStoreFull | holdReport
  | quayCleared | imageMismatch | frameReport | killReport | applied | ecrcDrop | l2Repair | arenaReport | bootFailure
deriving DecidableEq, Repr

/-- A log entry: bytes with a layout of the spec; an event with the function, context and value it concerns; or a refusal by an access
table with the master, its agent kind, the address and the target (R360). -/
inductive LogEntry
  | raw (b : List Byte)
  | event (e : LogEvent) (vf ctx : Nat) (v : Word)
  | denied (vf agent : Nat) (target : MatTarget) (unit : Nat) (pa : Nat)
deriving DecidableEq, Repr

/-- A berth (R379): state 1 loading, 2 READY, 3 DROPPING. -/
structure Berth where
  num : Nat
  state : Nat
  image : Nat
  imageSize : Nat
  recs : List (List Byte)
  segs : List Seg
  wcs : Option Image
  binds : List (Nat × Word)
  shared : Bool
  succ : List (Nat × List Nat)
  sections : List (Nat × Nat)
  digest : List Byte
  mats : List MatEntry := []
deriving DecidableEq, Repr

/-- One function (R359, R394, R408 to R424, R430). VF 0 is the physical function. `stopReq` is a MIG.STOP that waits for the function's
contexts, and `dirtyLog` the last report of dirty tracking: the first address and size of each dirty leaf (R421). -/
structure Vf where
  enabled : Bool
  sleeve : Option Nat
  winBase : Nat
  winLimit : Nat
  featmask : Word
  scopelimit : Option Nat
  dbgen : Bool
  paging : Nat
  ranges : List DemandRange
  balance : Nat
  grant : Nat
  tdi : Nat
  suspended : Bool
  resetting : Bool
  root : Nat
  peers : List PeerEntry
  log : List LogEntry
  berths : List Berth
  codebase : Nat
  codebound : Nat
  invoke : Nat
  tracking : Bool
  stopReq : Option FwReq
  dirtyLog : List (Nat × Nat)
deriving DecidableEq, Repr

/-- A level descriptor (R103): kind 0 T, 1 C, 2 D. -/
structure Level where
  kind : Nat
  rank : Nat
  extent : Nat
deriving DecidableEq, Repr

/-- A modified launch record (R103, R378). -/
structure LaunchRec where
  flags : Nat
  cohort : Nat
  prio : Nat
  est : Word
  entries : List Nat
  levels : List Level
  argsize : Nat
deriving DecidableEq, Repr

/-- A decision for a newcomer that keeps the running launch off a core (R315): the context and its core, the tide, the newcomer's
number, and whether the context runs on until it retires. -/
structure Drain where
  ctx : Nat
  core : Nat
  since : Nat
  newcomer : Nat
  soft : Bool
deriving DecidableEq, Repr

/-- A launch that FC1 has admitted (R378, R392 to R397). Every ordinal below `low` is placed, and so are those of `taken`; `judged`
is 0 before the launch is a newcomer, 1 after NONE, 2 when it is to be judged again, 3 after another decision; `cores` limits a
replay to some cores; `group` holds a cohort's reserved cores, each with its group and the cycle of its preload. -/
structure Launch where
  vf : Nat
  ring : Nat
  idx : Nat
  graph : Option Nat
  ident : Word
  berth : Nat
  image : Nat
  lrec : LaunchRec
  argva : Word
  admitted : Nat
  dieList : List Nat
  cores0 : Nat
  capword : Word
  low : Nat
  taken : List Nat
  placed : Nat
  retired : Nat
  retireTide : Nat
  released : Bool
  drain : List Drain
  bid : Nat
  judged : Nat
  status : Option (Nat × Nat)
  ended : Bool
  cores : Option (List Nat)
  group : List (Nat × Nat × Nat)
deriving DecidableEq, Repr

/-- An accepted command of a ring (R372, R387): `body` is the whole slot, `released` says that the next command may start before
this one is over, `overAs` is the final state that COMMAND_COMPLETE is to write; a REPLAY keeps the regions of its record with their digests; `dep` tells
whether the command before failed, once its entry has been overwritten. -/
structure Cmd where
  seq : Nat
  opcode : Nat
  flags : Nat
  tag : BitVec 32
  body : List Byte
  state : Nat
  status : Nat
  cause : Nat
  launchid : Word
  taccept : Nat
  tstart : Nat
  tend : Nat
  result : Word
  preempt : Word
  released : Bool
  overAs : Option Nat
  launch : Option Nat
  graph : Option Nat
  regs : List (Word × Nat × List Byte)
  dep : Option Bool := none
deriving DecidableEq, Repr

/-- A running capture of a ring (R385): its command, commands left, buffer, bytes and records written so far, regions, the captured
command that runs, its regions as they were, and its launches so far. -/
structure Capture where
  cmd : Nat
  left : Nat
  bufva : Word
  bufsize : Nat
  used : Nat
  records : Nat
  regs : List (Word × Nat)
  cur : Option Nat
  before : List Byte
  launches : List Byte
  nlaunch : Nat
deriving DecidableEq, Repr

/-- A ring page with its journal (R368, R369, R387). `state` is RINGSTAT.STATE. -/
structure Ring where
  vf : Nat
  num : Nat
  en : Bool
  a7 : Bool
  pubn : Nat
  log2 : Nat
  wridx : Nat
  rdidx : Nat
  base : Word
  mirror : Word
  wrerr : Bool
  state : Nat
  cmds : List Cmd
  cap : Option Capture
  sinceMirror : Nat
deriving DecidableEq, Repr

/-- A graph that FC1 walks (R382 to R384): the node to run next, if the walk goes on, and the one before it; the loops entered with
their passes; node executions; the first failing node with its status; whether the node before failed or was skipped, and whether
the LOOP to which a skipped node returned skips its test; the pass count of the last LOOP to complete; the launch of the node
before; bytes a COPY has moved and the tide at which the current node started; launches that still run, with their nodes. -/
structure Graph where
  vf : Nat
  ring : Nat
  idx : Nat
  nodes : List (List Byte)
  cur : Option Nat
  prev : Option Nat
  stack : List (Nat × Nat)
  execs : Nat
  first : Option (Nat × Nat)
  prevFail : Bool
  skipLoop : Bool
  passes : Nat
  launch : Option Nat
  copied : Nat
  since : Option Nat
  running : List (Nat × Nat)
  ended : Bool
  paused : Bool
  cores : Option (List Nat)
  strict : Bool
deriving DecidableEq, Repr

/-- A sleeve (R408): kind 0 free, 1 dedicated, 2 shared. -/
structure Sleeve where
  num : Nat
  kind : Nat
  slots : Nat
  owner : Nat
  cores : List Nat
  base : Nat
  limit : Nat
  drain : Nat
deriving DecidableEq, Repr

/-- A fault record that awaits FAULT.DONE (R359). -/
structure FaultRec where
  num : Nat
  vf : Nat
  ctx : Nat
  va : Word
  need : Nat
  tide : Nat
deriving DecidableEq, Repr

/-- A lease record (R438); `ident` is the firmware identifier of its pattern run and `ctx` the context of that run (R378, R439); `failed` says that
the restore of a window failed in this run (R440). -/
structure Lease where
  id : Nat
  kind : UnitKind
  unit : Nat
  state : Nat
  patset : Nat
  outcome : Nat
  reason : Nat
  treq : Nat
  tgrant : Nat
  tend : Nat
  score0 : Nat
  score1 : Nat
  holds : Nat
  digest : List Byte
  retest : Bool
  ident : Word
  ctx : Option Nat := none
  failed : Bool := false
deriving DecidableEq, Repr

/-- A record of the retirement table (R448). -/
structure Retired where
  kind : UnitKind
  unit : Nat
  tide : Nat
  patset : Nat
  score : Nat
  digest : List Byte
deriving DecidableEq, Repr

/-- FC3's and FC4's record of one unit (R446, R447): score, tide of its last lease, an earlier tide that a
score brought the next one forward to, tide at which a WATCH lease falls due. -/
structure UnitRec where
  kind : UnitKind
  unit : Nat
  score : Nat
  lastLease : Nat
  early : Option Nat
  watchDue : Option Nat
  outOfService : Bool
deriving DecidableEq, Repr

/-- A channel held for a pattern window (R440): channel, lease, window, the tide it began. -/
structure ChanHold where
  channel : Nat
  lease : Nat
  window : Nat
  since : Nat
deriving DecidableEq, Repr

/-- A quay (R416, R417, R427 to R429, R441): the link and its training (`since` is when that began); a table of reservations for each
direction; what each is owed of the guaranteed and of the spare flit times; the flits that wait, and those to send again; `peerSeq` is the last
of its flits that the peer has in order; `received` holds requests and messages not yet served; `spent` counts, by VC, the flits sent whose credit has not returned, and `owes` the flits received whose credit is still to be
returned; `ackDue` says that a flit was received since the last one left; `free` is when the next flit time begins, in 25ths of a tide cycle. -/
structure Quay where
  up : Bool
  leased : Bool
  retraining : Bool
  since : Nat
  shares : List (Nat × Nat)
  sharesIn : List (Nat × Nat)
  deficit : List (Nat × Nat)
  spare : List (Nat × Int)
  rrNext : Nat
  waiting : List (Nat × Flit)
  sendSeq : BitVec 12
  retry : List Flit
  resend : List Flit
  peerSeq : BitVec 12
  expect : BitVec 12
  naks : Nat
  received : List Flit
  dropped : Nat
  sent : List Flit
  spent : List (Nat × Nat)
  owes : List (Nat × Nat)
  ackDue : Bool
  free : Nat
deriving DecidableEq, Repr

/-- A communicator (R432). -/
structure Comm where
  vf : Nat
  num : Nat
  rank : Nat
  ranks : List CommRank
deriving DecidableEq, Repr

/-- An SPDM session of a function, established once FINISH has come (R425). -/
structure Session where
  vf : Nat
  num : Nat
  done : Bool := false
deriving DecidableEq, Repr

/-- The placement that FC1 logs for a captured launch (R451). -/
structure Placement where
  ring : Nat
  vf : Nat
  record : Nat
  cores : List Nat
deriving DecidableEq, Repr

/-- A DRY.LOCATE under way (R451): its request, the function and the record, the number of its replay's command, the second clean set, the set
that is searched, the replay that runs (0 on Q1, 1 on Q2, 2 on the lower half, 3 on the rest) with its cores and whether it has started, and
the reference. -/
structure Locating where
  q : FwReq
  ring : Nat
  vf : Nat
  bufva : Word
  record : Nat
  seq : Nat
  q2 : List Nat
  set : List Nat
  phase : Nat
  cores : List Nat
  started : Bool
  ref : List (List Byte)
deriving DecidableEq, Repr

/-- The supplies of the module (R456). -/
inductive Rail
  | auxiliary | hbm | core | serdes
deriving DecidableEq, Repr

/-- The order in which they ramp. -/
def railOrder : List Rail := [.auxiliary, .hbm, .core, .serdes]

/-- Who moves next: one sequencer of one context (with the contexts of its core already tried in this cycle), or the
other agents of the module (log 1). -/
inductive Turn
  | issue (ctx : Nat) (st : Stream) (tried : List Nat)
  | agents
deriving DecidableEq, Repr

/-- A message in a firmware core's inbound mailbox (R390). -/
structure Mail where
  core : Nat
  box : Nat
  kind : Nat
  sender : Nat
  seq : Nat
  payload : List Byte
deriving DecidableEq, Repr

/-- What the host port answers to a read or an AtomicOp (R365, R371, R373): the function, and the value, or none for the Unsupported
Request completion. -/
structure Cpl where
  vf : Nat
  value : Option Word
deriving DecidableEq, Repr

/-- A change of translations or access rights that is reported once no access uses what it replaced (R314, R415, R420): the request with its
KIND, the function and the physical range. -/
structure PtWait where
  q : FwReq
  kind : Nat
  vf : Nat
  lo : Nat
  size : Nat
deriving DecidableEq, Repr

/-- What reaches the module from outside without being an event of the opcode table: a host's accesses to its BARs (R365, R367, R373), the
PF's firmware setting a counter (R361), what FC7 and other modules bring (R430, R437), and errors that its checks detect (R116, R348 to
R353, R450). -/
inductive Input
  /-- An aligned 8-byte read of a BAR. -/
  | hostRead (vf bar off : Nat)
  /-- An AtomicOp on anything but a ring's WRIDX. -/
  | hostAtomic (vf bar off : Nat)
  /-- A TLP of a function that fails ECRC. -/
  | ecrc (vf : Nat)
  /-- FC2 writes L2FILL, or L2VICT, of a class. -/
  | l2Count (die cls : Nat) (vict : Bool) (v : Word)
  /-- The instruction cache of a stream loses the bundle at an address. -/
  | icache (ctx : Nat) (st : Stream) (addr : Nat)
  /-- A corrected error of a core's scratchpad, vector register file or accumulator tag words. -/
  | corrected (core : Nat)
  /-- A 64-bit word of a core's scratchpad can no longer be corrected. -/
  | spadError (core word : Nat)
  /-- The vector engine or the special-function unit of a context reads a byte of the vector register file that cannot be corrected. -/
  | vecError (ctx : Nat) (w : EUnit) (byte : Nat)
  /-- A parity error in an x register of a stream. -/
  | regError (ctx : Nat) (st : Stream) (r : BitVec 5)
  /-- A parity error in a bt, lc or predicate register that a stream's next word reads. -/
  | ctlError (ctx : Nat) (st : Stream)
  /-- A parity error in the 32-bit word of an element of a physical tile. -/
  | tagError (core tile elem : Nat)
  /-- A parity error in the entry of a scratchpad block, or of a tile. -/
  | dirError (core : Nat) (tile : Bool) (n : Nat)
  /-- A sector of a channel is corrected, or cannot be. -/
  | hbmError (sector : Nat) (bad : Bool)
  /-- A sector in the L2 cannot be corrected. -/
  | l2Error (sector : Nat)
  /-- A parity error in a die's copy of a line. -/
  | rdcError (die line : Nat)
  /-- The flits of the accesses that an event makes fail sixteen times on the on-die network, or those of a bundle's fetch. -/
  | netError (i : Instr)
  | netFetch (ctx : Nat) (st : Stream) (addr : Nat)
  /-- FC7 writes an entry of a function's peer table; one without quays is not valid. -/
  | peerEntry (vf : Nat) (e : PeerEntry)
  /-- FC7 maps an export to a function and a base address. -/
  | exportSet (num vf base : Nat)
  /-- Another module reads 8 bytes of an export, or writes bytes of one sector of it. -/
  | peerRead (num off : Nat)
  | peerWrite (num off : Nat) (bs : List Byte)
  /-- A rank of a communicator on another module has failed or abandoned its entry. -/
  | collAbort (vf comm rank : Nat)
  /-- The physical function reads the state image of a suspended function through FC6 (R421). -/
  | imageRead (vf : Nat)
  /-- What a function-level reset of the physical function will find as it boots (R452 to R455). -/
  | bootFinds (o : BootObs)
  /-- The bytes of a flit arrive at a quay. -/
  | flitBytes (quay : Nat) (bs : List Byte)
deriving DecidableEq, Repr

/-- The whole module. -/
structure State where
  tide : Nat
  mem : List Host.Cell
  code : List Host.Cell
  codeEdits : List CodeEdit
  sharedCode : List (Nat × Nat)
  uncorr : List Nat
  keys : Sparse Nat
  sectorKey : Sparse Nat
  keySpans : List (Nat × Nat × Nat)
  nextKey : Nat
  l2 : Sparse (List L2Line)
  l2cls : Sparse L2Class
  l2mon : Vector Nat 8
  rdc : List RdcLine
  mat : List MatEntry
  wcsBase : Sparse (BitVec 128)
  cores : Vector Core 128
  ctxs : List Ctx
  vfs : Sparse Vf
  rings : List Ring
  launches : List Launch
  graphs : List Graph
  sleeves : List Sleeve
  faults : List FaultRec
  nextFault : Nat
  pflog : List LogEntry
  msix : List (Nat × Nat)
  replies : List (Nat × List Byte)
  leases : List Lease
  nextLease : Nat
  units : List UnitRec
  periods : Vector Nat 3
  retired : List Retired
  holds : List ChanHold
  lastHold : Sparse Nat
  placements : List Placement
  locating : Option Locating
  tableSig : List Byte
  quays : Vector Quay 24
  reqs : List PeerReq
  nextReq : Nat
  peerWants : List (Nat × Nat × Nat)
  exports : List (Nat × Nat × Nat)
  comms : List Comm
  recvStore : List CollMsg
  arriving : List Arriving
  aborted : List (Nat × Nat × Nat)
  sessions : List Session
  pwrstat : Word
  atomicReq : Bool
  rails : List Rail
  booted : Bool
  bootStage : Nat
  bootImage : Nat
  imageOk : List Nat
  badImages : List Nat
  sideband : Word
  fwLaunches : Nat
  periodNo : Nat
  decayNo : Nat
  powerWindow : Nat
  bootObs : BootObs
  agenda : List Instr
  deferred : List Instr
  inputs : List Input
  mail : List Mail
  cpls : List Cpl
  edits : List PtWait
  fwWaits : List Nat
  netBad : Bool
  turn : Turn
  late : Bool
deriving DecidableEq, Repr

/-- Whether the module has power: every rail is up (R456). -/
def State.powerOn (s : State) : Bool := s.rails = railOrder

/-- The reasons a step stops with a fault. -/
inductive Fault
  /-- The module has no power (R456): raised by `step` after POWER_DOWN, while no reset is on the agenda. Safe: the machine
  does nothing without its rails. -/
  | noPower
deriving DecidableEq, Repr

/-- The reasons a step is refused. -/
inductive Refusal
  /-- An arm of `exec` without a meaning: raised by the dispatcher only. Safe: nothing follows from it. -/
  | notModelled (mnemonic : String)
deriving DecidableEq, Repr

/-- A window that is not defined (R7). -/
def Win.undef : Win := { valid := false, w0 := 0, w1 := 0 }

/-- A program that yields nothing. -/
def AgProg.empty : AgProg := { base := 0, chunk := 0, space := 0, count := [], stride := [] }

/-- An idle, unprogrammed generator (R7). -/
def Ag.idle : Ag := { prog := AgProg.empty, programmed := false, pos := 0, port := none }

/-- An unbound port (R7). -/
def Port.off : Port :=
  { dir := 0, agd := 0, ags := none, fmt := 0, layout := 0, fam := false, fifo := [], sfifo := [], chunkOff := 0, schunkOff := 0, taken := 0,
    outQ := [] }

/-- VSHAPE at reset (R17): ESIZE 0b10, ROWS 32, COLS 32. -/
def vshapeReset : Word := 0x00810020

/-- The CSRs of a context before FC1 writes them (R35). -/
def Csrs.zero : Csrs :=
  { codebase := 0, codebound := 0, spbase := 0, splimit := 0, accmap := 0, tidebase := 0, regmode := 0, schedmiss := 0,
    vshape := vshapeReset, vctl := 0, vstat := 0, faultcause := 0, faultaddr := 0, faultpc := Vector.replicate 4 0,
    jnlbase := 0, jnlhead := 0, capword := 0, tdstat := 0, scopelimit := 0, scopeclamp := 0, featmask := 0, prio := 0, est := 0 }

/-- A context slot that is not in use; FC1 fills it at creation (R7). -/
def Ctx.blank : Ctx :=
  { vf := 0, sleeve := 0, core := none, service := false, dbg := false, run := .gone, iter := none,
    launchesSeen := [], seqs := { x := Seq.init, l := Seq.init, c := Seq.init, s := Seq.init },
    boost := { entries := [], rec1 := none, rec2 := none }, csr := Csrs.zero, csrOld := none, tok := Vector.replicate 13 0,
    region := none, fq := [], sq0 := [], sq1 := [], sqBlk := none, collq := [], yq := [], heldCap := none, journal := [], jnlOut := [],
    jnlPending := none, v := [], m := Vector.replicate 8 0, win := Vector.replicate 64 Win.undef, winNew := [],
    ag := Vector.replicate 8 Ag.idle, sp := Vector.replicate 4 Port.off, eqM := [], eqV := [], eqS := [], flight := [],
    copies := [], ie := none, mu := none, coll := none, posts := [], binding := Vector.replicate 64 0,
    bindNew := [], image := none, frame := Frame.empty, pend := [], saveArea := 0, saved := false,
    deadSince := none, quantum := 0, spent := false, hold := none, was := none, idleFrom := 0, order := 0 }

/-- An element of a tile at reset and after zeroing (R22, R190). -/
def Elem.zero : Elem := { c1 := 0, c2 := 0, c3 := 0, check := 0, tag := 0, count := 0 }

/-- A tile at reset and when it is given to a new owner (R22, R26). -/
def Tile.zero : Tile :=
  { elems := [], anchor := 0, wmHold := false, partialBit := false, chkerr := false, depth := false, inx := false,
    wovf := false, general := false, special := false }

/-- An uninitialised barrier (R7, R34). -/
def Barrier.raw : Barrier := { init := false, expect := 0, pending := 0, tx := 0, phase := false }

/-- A bank that holds no image (R261). -/
def Bank.empty : Bank := { digest := [], words := [], need := 0, valid := false, bad := false, ctx := 0 }

/-- A core after reset (R26, R195, R452). -/
def Core.reset : Core :=
  { spad := [], spadErr := [], dir := [], tiles := Vector.replicate 32 Tile.zero, bars := Vector.replicate 128 Barrier.raw, stores := [],
    pins := [], refused := [], noRepin := [], tlb := [], bank0 := Bank.empty, bank1 := Bank.empty, arrayFree := 0, pathFree := 0, vecFree := 0,
    sfuFree := 0, stageFree := 0, lastIssue := Vector.replicate 7 0, inService := true, leased := false, leasePending := false, pendingSince := 0 }

/-- The code range that FC2 gives a function (R102; log 6): 4 MiB of the arena. -/
def codeBaseOf (vf : Nat) : Nat := 0x1FC00000000 + vf * 2 ^ 22

/-- Where FC2 holds the root table of a function (R356; log 6). -/
def rootOf (vf : Nat) : Nat := 0x1EF00000000 + vf * 2 ^ 16

/-- FC2's report of the arena to the physical function's driver (R355): its first byte, and its length in GiB in the low bits (log 6). -/
def arenaReport : LogEntry := .event .arenaReport 0 0 0x1FC00000010

/-- A quay after reset: no reservation, no flit held, sequences at 0; trained (R427, R455; log 8). -/
def Quay.reset : Quay :=
  { up := true, leased := false, retraining := false, since := 0, shares := [], sharesIn := [], deficit := [], spare := [], rrNext := 0,
    waiting := [], sendSeq := 0, retry := [], resend := [], peerSeq := -1, expect := 0, naks := 0, received := [], dropped := 0, sent := [], spent := [], owes := [], ackDue := false, free := 0 }

/-- A function that is not enabled (R366). -/
def Vf.reset : Vf :=
  { enabled := false, sleeve := none, winBase := 0, winLimit := 0, featmask := 0, scopelimit := none, dbgen := false,
    paging := 0, ranges := [], balance := 0, grant := 0, tdi := 0, suspended := false, resetting := false, root := 0,
    peers := [], log := [], berths := [], codebase := 0, codebound := 0, invoke := 0, tracking := false,
    stopReq := none, dirtyLog := [] }

/-- The class registers of R361 at reset: class 0 may fill every way, no other class any. -/
def L2Class.reset (k : Nat) : L2Class :=
  { softlim := 128, waymask := if k = 0 then 0xFFFF else 0, fill := 0, vict := 0 }

/-- PWRSTAT at reset (R457): PWRLIMIT 15,000. -/
def pwrReset : Word := 0x00003A9800000000

/-- The words of the base region that the spec lists (R283, R284): the routines of MMA, MMA.S, MMA.C and VADD. -/
def baseListing : List (Nat × BitVec 128) :=
  [(0x600, 0x10000000000A2000680), (0x601, 0x2200000000000000000), (0x602, 0x30000000000B0400000),
   (0x603, 0x20301800000004400000000014840001), (0x604, 0x30000000000005000000000000000000),
   (0x610, 0x10000000000A2000680), (0x611, 0x2210000000000000000), (0x612, 0x30000000000B0400000),
   (0x613, 0x20309800000004400000000014840001), (0x614, 0x30000000000005000000000000000000),
   (0x620, 0x10000000000A2000680), (0x621, 0x2220000000000000000), (0x622, 0x30000000000B0400000),
   (0x623, 0x20311800000004400000000014840001), (0x624, 0x30000000000005000000000000000000),
   (0x680, 0xAE000680), (0x681, 0x30000040000010000000000000000000)]

/-- The record of a unit that passed the initial sweep (R438, R442, R455): a core ran set 0x0010, under a firmware identifier (R378), and a channel one
window. -/
def passLease (k : UnitKind) (u id : Nat) : Lease :=
  { id := id, kind := k, unit := u, state := 4, patset := if k = .core then 0x0010 else Config.patternSet k % 65536, outcome := 1, reason := 0,
    treq := 0, tgrant := 0, tend := 0, score0 := 0, score1 := 0, holds := if k = .channel then 1 else 0,
    digest := (Config.golden k (Config.patternSeed k)).take 16, retest := false,
    ident := if k = .core then BitVec.ofNat 64 (4 * 2 ^ 48 + id % 2 ^ 32 * 2 ^ 16 + 0xFFFF) else 0 }

/-- An observation of a boot without a failure. -/
def BootObs.clean : BootObs := { badImage := none, badChannels := [], failed := [], sweep := [], quayUp := List.range 24, silent := [] }

/-- The leases of an initial sweep that every unit passes (R455): cores, channels, quays. -/
def sweepUnits : List (UnitKind × Nat) :=
  ((List.range 128).map fun u => (UnitKind.core, u)) ++ ((List.range 1024).map fun u => (UnitKind.channel, u)) ++
    (List.range 24).map fun u => (UnitKind.quay, u)
def sweepLeases : List Lease := sweepUnits.zipIdx.map fun e => passLease e.1.1 e.1.2 e.2

/-- The module right after a cold reset whose stages all passed (R452, R453): device memory, keys and contexts clear, the
tide at 0, the physical function enabled, the module key in slot 4,096. -/
def State.reset : State :=
  { tide := 0, mem := [], code := [], codeEdits := [], sharedCode := [], uncorr := [], keys := [(4096, 1)], sectorKey := [], keySpans := [], nextKey := 2,
    l2 := [], l2cls := [], l2mon := Vector.replicate 8 0, rdc := [], mat := [], wcsBase := baseListing, cores := Vector.replicate 128 Core.reset,
    ctxs := [], vfs := [(0, { Vf.reset with enabled := true, scopelimit := some 4, codebase := codeBaseOf 0, codebound := codeBaseOf 1, root := rootOf 0 })], rings := [], launches := [], graphs := [],
    sleeves := [], faults := [], nextFault := 1, pflog := [arenaReport], msix := [], replies := [], leases := sweepLeases, nextLease := 1176, units := [],
    periods := #v[38, 38, 40], retired := [], holds := [], lastHold := [], placements := [], locating := none, tableSig := [], quays := Vector.replicate 24 Quay.reset,
    reqs := [], nextReq := 1, peerWants := [], exports := [], comms := [], recvStore := [], arriving := [], aborted := [], sessions := [], pwrstat := pwrReset, atomicReq := true,
    rails := railOrder, booted := true, bootStage := 0, bootImage := 0, imageOk := [], badImages := [], sideband := 0, fwLaunches := 128, periodNo := 0, decayNo := 1, powerWindow := 0, bootObs := BootObs.clean, agenda := [],
    deferred := [], inputs := [], mail := [], cpls := [], edits := [], fwWaits := [], netBad := false, turn := .agents, late := false }

end Sys2Proof.Machine
end

