-- ==== Sys2Proof/Machine/Mem.lean ====
section
/-! DEFINITION. Sparse data in canonical form, bytes and numbers, and the fields of words: the plainest operations that every
other file of the machine uses (R2, R18, R345). -/

namespace Sys2Proof.Machine

/-! ## Sparse data -/

/-- The value at key `a`; an unlisted key reads the default `d`. -/
def sget {β : Type} (d : β) : Sparse β → Nat → β
  | [], _ => d
  | (k, v) :: t, a => if a = k then v else sget d t a

/-- Put a value at key `a` in its place. -/
def sput {β : Type} : Sparse β → Nat → β → Sparse β
  | [], a, b => [(a, b)]
  | (k, v) :: t, a, b => if a < k then (a, b) :: (k, v) :: t else if a = k then (a, b) :: t else (k, v) :: sput t a b

/-- Write `b` at key `a`, keeping the canonical form: the default removes the entry. -/
def sset {β : Type} [DecidableEq β] (d : β) (m : Sparse β) (a : Nat) (b : β) : Sparse β :=
  if b = d then m.filter fun e => e.1 ≠ a else sput m a b

/-- Whether every key is above `lo` (when there is a bound) and keys rise strictly with no default entry. -/
def swfFrom {β : Type} [DecidableEq β] (d : β) : Option Nat → Sparse β → Bool
  | _, [] => true
  | lo, (k, v) :: t =>
    (match lo with | none => true | some b => decide (b < k)) && decide (v ≠ d) && swfFrom d (some k) t

/-- The canonical form. -/
def swf {β : Type} [DecidableEq β] (d : β) (m : Sparse β) : Bool := swfFrom d none m

/-- Write several entries in order. -/
def ssets {β : Type} [DecidableEq β] (d : β) (m : Sparse β) : List (Nat × β) → Sparse β
  | [] => m
  | (a, b) :: t => ssets d (sset d m a b) t

/-- `n` bytes from `a` upward. -/
def sbytes (m : Sparse Byte) (a : Nat) : Nat → List Byte
  | 0 => []
  | n + 1 => sget 0 m a :: sbytes m (a + 1) n

/-- Bytes with consecutive keys from `a`. -/
def keyed (a : Nat) : List Byte → List (Nat × Byte)
  | [] => []
  | b :: t => (a, b) :: keyed (a + 1) t

/-- Remove every entry with key in [lo, hi). -/
def sclear {β : Type} (m : Sparse β) (lo hi : Nat) : Sparse β := m.filter fun e => e.1 < lo || hi ≤ e.1

/-- Entries with key in [lo, hi), keyed from `lo`. -/
def sslice {β : Type} (m : Sparse β) (lo hi : Nat) : Sparse β :=
  (m.filter fun e => lo ≤ e.1 && e.1 < hi).map fun e => (e.1 - lo, e.2)

/-- Memory's canonical form: addresses strictly rising, no entry of value 0, which an unlisted address reads as (R452). -/
def Memory.wf (m : List Host.Cell) : Bool := swf (0 : Byte) m

/-! ## Bytes and numbers -/

/-- Little-endian value of a byte list (R2). -/
def leNat : List Byte → Nat
  | [] => 0
  | b :: t => b.toNat + 256 * leNat t

/-- The low `n` bytes of a number, little-endian. -/
def natBytes (v : Nat) : Nat → List Byte
  | 0 => []
  | n + 1 => BitVec.ofNat 8 v :: natBytes (v / 256) n

/-- `n` bytes of value 0. -/
def zeros (n : Nat) : List Byte := List.replicate n 0

/-- Pad or cut to exactly `n` bytes. -/
def fit (n : Nat) (l : List Byte) : List Byte := (l ++ zeros n).take n

/-- The value of `n` bytes of a list at offset `o`. -/
def fieldN (l : List Byte) (o n : Nat) : Nat := leNat ((l.drop o).take n)

/-- The 64-bit field at offset `o`. -/
def fieldW (l : List Byte) (o : Nat) : Word := BitVec.ofNat 64 (fieldN l o 8)

/-- Whether the bytes [lo, hi) of a list are all zero. -/
def zeroIn (l : List Byte) (lo hi : Nat) : Bool := ((l.drop lo).take (hi - lo)).all (· == 0)

/-- Bits [hi:lo] of a word as a number (R2). -/
def bitsN (w : Word) (hi lo : Nat) : Nat := (w.toNat / 2 ^ lo) % 2 ^ (hi + 1 - lo)

/-- Bit `i` of a word. -/
def bitN (w : Word) (i : Nat) : Bool := w.getLsbD i

/-- A word with bits [hi:lo] replaced by `v`. -/
def putBits (w : Word) (hi lo v : Nat) : Word :=
  let m : Word := BitVec.ofNat 64 ((2 ^ (hi + 1 - lo) - 1) * 2 ^ lo)
  (w &&& ~~~m) ||| (BitVec.ofNat 64 (v * 2 ^ lo) &&& m)

/-- A Boolean as a number. -/
def b2n (b : Bool) : Nat := if b then 1 else 0

/-- Ceiling division. -/
def cdiv (a b : Nat) : Nat := (a + b - 1) / b

/-- Sign extension of a 32-bit field to a register value (R110). -/
def sext32 (i : BitVec 32) : Word := i.signExtend 64

/-- Zero extension of a 32-bit field to a register value. -/
def zext32 (i : BitVec 32) : Word := i.zeroExtend 64

/-- The value of a word as a signed number. -/
def wInt (w : Word) : Int := w.toInt

/-- The first element of a list that satisfies a test, with its position. -/
def findIdx {α : Type} (p : α → Bool) : List α → Nat → Option (Nat × α)
  | [], _ => none
  | a :: t, i => if p a then some (i, a) else findIdx p t (i + 1)

/-- A list with the element at a position replaced through a function. -/
def lmod {α : Type} (l : List α) (i : Nat) (f : α → α) : List α := l.modify i f

/-- A vector with one element changed; an index out of range changes nothing. -/
def vmod {α : Type} {n : Nat} (v : Vector α n) (i : Nat) (f : α → α) : Vector α n :=
  if h : i < n then v.set i (f v[i]) else v

/-- A vector element by number; out of range reads the default. -/
def vgetD {α : Type} {n : Nat} (v : Vector α n) (i : Nat) (d : α) : α := if h : i < n then v[i] else d

end Sys2Proof.Machine
end

