-- ==== Sys2Proof/Machine/Ops.lean ====
section
/-! DEFINITION. The named operations over the state: contexts, cores and sequencers, tokens, the fields of the CSRs, taking a
fault (R92, R93, R301, R307) and the advance of a sequencer (R122, R124 to R126). -/

namespace Sys2Proof.Machine

/-! ## Causes (R93, R302) -/

def causeReservedOpc : Nat := 0x01
def causeReservedField : Nat := 0x02
def causeWrongStream : Nat := 0x03
def causeUnboundTenant : Nat := 0x04
def causeStampInLocked : Nat := 0x05
def causeBoostIllegal : Nat := 0x06
def causeMaskedFeature : Nat := 0x07
def causeCtlInSlot : Nat := 0x08
def causeLoopState : Nat := 0x09
def causeLoopCount : Nat := 0x0A
def causeStampOrder : Nat := 0x0B
def causeRegionState : Nat := 0x0C
def causeFetchRange : Nat := 0x10
def causeFetchDenied : Nat := 0x11
def causeFetchMemerr : Nat := 0x12
def causeAddrRange : Nat := 0x18
def causeMisaligned : Nat := 0x19
def causeXlateFault : Nat := 0x1A
def causeAccessDenied : Nat := 0x1B
def causeMemUncorr : Nat := 0x1C
def causeAllotRange : Nat := 0x1D
def causeBarState : Nat := 0x20
def causeTokenDeadlock : Nat := 0x21
def causeSchedMiss : Nat := 0x22
def causeFqUnderflow : Nat := 0x23
def causeUndefAgent : Nat := 0x28
def causeAgentInvalid : Nat := 0x29
def causeAgBusy : Nat := 0x2A
def causePortEnd : Nat := 0x2B
def causeCpyRange : Nat := 0x2C
def causeCpyShape : Nat := 0x2D
def causeFmtInvalid : Nat := 0x30
def causeMmaShape : Nat := 0x31
def causeAnchorMismatch : Nat := 0x32
def causeAccCheck : Nat := 0x33
def causeAccAnchor : Nat := 0x34
def causeCvtOverflow : Nat := 0x35
def causeVecFormat : Nat := 0x36
def causeVecRange : Nat := 0x37
def causeUcConfine : Nat := 0x38
def causeUcStepbound : Nat := 0x39
def causeUcRange : Nat := 0x3A
def causeUcReserved : Nat := 0x3B
def causeUcImage : Nat := 0x3C
def causeSwTrap : Nat := 0x40
def causeBkptHit : Nat := 0x41
def causeBkptShared : Nat := 0x42
def causeBkptMatch : Nat := 0x43

/-- A FAULTADDR value with KIND in [63:60] (R301). -/
def kindAddr (kind v : Nat) : Word := BitVec.ofNat 64 (kind * 2 ^ 60 + v % 2 ^ 60)

/-- A cause with its address and no DETAIL. -/
def mkCause (code : Nat) (addr : Word) : Cause := { code := code, addr := addr }

/-! ## Contexts, cores, sequencers -/

/-- Context number `c` of the model's list. -/
def State.ctx (s : State) (c : Nat) : Ctx := s.ctxs.getD c Ctx.blank

/-- Change context `c`. -/
def State.upCtx (s : State) (c : Nat) (f : Ctx → Ctx) : State := { s with ctxs := s.ctxs.modify c f }

/-- Core number die × 16 + core. -/
def State.core (s : State) (n : Nat) : Core := vgetD s.cores n Core.reset

/-- Change core `n`. -/
def State.upCore (s : State) (n : Nat) (f : Core → Core) : State := { s with cores := vmod s.cores n f }

/-- The sequencer of a stream (R7). -/
def Seqs.get (q : Seqs) : Stream → Seq
  | .x => q.x
  | .l => q.l
  | .c => q.c
  | .s => q.s

/-- Replace the sequencer of a stream. -/
def Seqs.put (q : Seqs) (st : Stream) (v : Seq) : Seqs :=
  match st with
  | .x => { q with x := v }
  | .l => { q with l := v }
  | .c => { q with c := v }
  | .s => { q with s := v }

/-- The sequencer of a context's stream. -/
def Ctx.seq (k : Ctx) (st : Stream) : Seq := k.seqs.get st

/-- Change one sequencer of a context. -/
def Ctx.upSeq (k : Ctx) (st : Stream) (f : Seq → Seq) : Ctx := { k with seqs := k.seqs.put st (f (k.seqs.get st)) }

/-- Change one sequencer of context `c`. -/
def State.upSeq (s : State) (c : Nat) (st : Stream) (f : Seq → Seq) : State := s.upCtx c fun k => k.upSeq st f

/-- The sequencer of stream `st` of context `c`. -/
def State.seq (s : State) (c : Nat) (st : Stream) : Seq := (s.ctx c).seq st

/-- The core a context is resident on; core 0 stands in for a context that is not resident. -/
def Ctx.coreNo (k : Ctx) : Nat := k.core.getD 0

/-- The function `n`. -/
def State.vf (s : State) (n : Nat) : Vf := sget Vf.reset s.vfs n

/-- Change function `n`. -/
def State.upVf (s : State) (n : Nat) (f : Vf → Vf) : State := { s with vfs := sset Vf.reset s.vfs n (f (s.vf n)) }

/-- The launch `n`, if there is one. -/
def State.launch? (s : State) (n : Nat) : Option Launch := s.launches[n]?

/-- Change launch `n`. -/
def State.upLaunch (s : State) (n : Nat) (f : Launch → Launch) : State := { s with launches := s.launches.modify n f }

/-- Add an entry to the physical function's error log, whose MSI-X vector is 16 (R365). -/
def State.logPf (s : State) (e : LogEntry) : State := { s with pflog := s.pflog ++ [e], msix := s.msix ++ [(0, 16)] }

/-- Add an entry to a function's log, whose MSI-X vector is 16 (R365). -/
def State.logVf (s : State) (n : Nat) (e : LogEntry) : State :=
  { (s.upVf n fun v => { v with log := v.log ++ [e] }) with msix := s.msix ++ [(n, 16)] }

/-- Whether a context holds an iteration of a strict launch (R311), or runs a lease's pattern set (R439). -/
def State.strict (s : State) (c : Nat) : Bool :=
  match (s.ctx c).iter with
  | some it => match s.launch? it.launch with
    | some l => l.lrec.flags / 4 % 2 == 1
    | none => false
  | none => s.leases.any fun l => l.ctx = some c && l.state = 3

/-- CTXID of context `c`: its place in the model's list (log 7). -/
def ctxid (c : Nat) : Nat := c % 65536

/-- Whether a function is SUSPENDED, or a MIG.STOP is about to make it so (R421). -/
def State.halting (s : State) (vf : Nat) : Bool := (s.vf vf).suspended || (s.vf vf).stopReq.isSome

/-- A rank's failed or abandoned entry is told to the other ranks of its communicator on this module (R437). -/
def State.abortNear (s : State) (vf comm : Nat) : State :=
  match s.comms.find? fun m => m.vf = vf && m.num = comm with
  | none => s
  | some m =>
    let home := (m.ranks[m.rank]?.map (·.fabric)).getD 0
    let near := m.ranks.filter fun r => r.fabric = home && r.vf ≠ vf
    { s with aborted := (s.aborted ++ near.map fun r => (r.vf, comm, m.rank)).eraseDups }

/-! ## Fields of the CSRs -/

/-- BASEBLK and ENDBLK (R24). -/
def Ctx.baseBlk (k : Ctx) : Nat := bitsN k.csr.spbase 9 0
def Ctx.endBlk (k : Ctx) : Nat := bitsN k.csr.splimit 10 0

/-- The fields of ACCMAP (R20). -/
def Ctx.abase (k : Ctx) : Nat := bitsN k.csr.accmap 4 0
def Ctx.acount (k : Ctx) : Nat := bitsN k.csr.accmap 21 16
def Ctx.bbase (k : Ctx) : Nat := bitsN k.csr.accmap 30 24
def Ctx.bcount (k : Ctx) : Nat := bitsN k.csr.accmap 39 32

/-- The fields of VSHAPE (R17): element size code, rows, columns, and the element count. -/
def Ctx.esize (k : Ctx) : Nat := bitsN k.csr.vshape 23 22
def Ctx.rows (k : Ctx) : Nat := bitsN k.csr.vshape 21 11
def Ctx.cols (k : Ctx) : Nat := bitsN k.csr.vshape 10 0
def Ctx.velems (k : Ctx) : Nat := k.rows * k.cols

/-- VCTL.FTZ (R207). -/
def Ctx.ftz (k : Ctx) : Bool := bitN k.csr.vctl 0

/-- REGMODE.TIMED and MISSFAULT (R37). -/
def Ctx.timed (k : Ctx) : Bool := bitN k.csr.regmode 1
def Ctx.missfault (k : Ctx) : Bool := bitN k.csr.regmode 0

/-- SCOPELIMIT (R413). -/
def Ctx.slimit (k : Ctx) : Nat := bitsN k.csr.scopelimit 2 0

/-- Journal ring entries: 2^(SIZE + 10) (R33). -/
def Ctx.jnlEntries (k : Ctx) : Nat := 2 ^ (bitsN k.csr.jnlbase 3 0 + 10)

/-- JNLLOW (R157): the lowest sequence number QUEUED or STARTED, else JNLHEAD. -/
def Ctx.jnlLow (k : Ctx) : Nat :=
  (k.journal.filter fun e => e.state = 1 || e.state = 2).foldl (fun m e => min m e.seq) k.csr.jnlhead.toNat

/-- Physical scratchpad offset of `n` bytes at offset `o`, if inside the allotment (R24). -/
def Ctx.spPhys (k : Ctx) (o n : Nat) : Option Nat :=
  let p := k.baseBlk * 16384 + o
  if p + n > k.endBlk * 16384 then none else some p

/-- The physical tile of logical tile `i`, if allotted (R20). -/
def Ctx.tileNo (k : Ctx) (i : Nat) : Option Nat := if i < k.acount then some (k.abase + i) else none

/-- The physical barrier of logical barrier `i`, if allotted (R20). -/
def Ctx.barNo (k : Ctx) (i : Nat) : Option Nat := if i < k.bcount then some (k.bbase + i) else none

/-- OR flags into VSTAT (R57). -/
def Ctx.orVstat (k : Ctx) (f : Word) : Ctx := { k with csr := { k.csr with vstat := k.csr.vstat ||| f } }

/-- The effective scope of a named scope, and whether it counts as a clamp (R143, R298): the physical function's TENANT runs
at MODULE, and so does TENANT under SCOPELIMIT MODULE or SYSTEM. -/
def Ctx.effScope (k : Ctx) (sc : Nat) : Nat × Bool :=
  let e := min sc k.slimit
  let clamped := decide (e < sc)
  let e := if e = 2 && (k.vf = 0 || 3 ≤ k.slimit) then 3 else e
  (e, clamped)

/-- Count a clamp in SCOPECLAMP (R143). -/
def Ctx.countClamp (k : Ctx) (b : Bool) : Ctx :=
  if b then { k with csr := { k.csr with scopeclamp := k.csr.scopeclamp + 1 } } else k

/-! ## Registers -/

/-- Read an x register: x0 reads zero (R10). -/
def Seq.rx (q : Seq) (r : BitVec 5) : Word := if r = 0 then 0 else q.x[r.toNat]

/-- Write an x register, clearing its poison mark (R145); a write to x0 is discarded (R10). -/
def Seq.wx (q : Seq) (r : BitVec 5) (v : Word) : Seq :=
  if r = 0 then q else { q with x := q.x.set r.toNat v, marks := q.marks.filter fun m => m.reg ≠ r }

/-- Read a predicate: p0 reads true (R10). -/
def Seq.rp (q : Seq) (r : BitVec 3) : Bool := if r = 0 then true else q.p[r.toNat]

/-- Write a predicate; a write to p0 is discarded (R10). -/
def Seq.wp (q : Seq) (r : BitVec 3) (v : Bool) : Seq := if r = 0 then q else { q with p := q.p.set r.toNat v }

/-! ## Tokens -/

/-- Tokens queue `q` holds. -/
def Ctx.tokens (k : Ctx) (q : Nat) : Nat := vgetD k.tok q 0

/-- Change a token count. -/
def Ctx.setTok (k : Ctx) (q : Nat) (n : Nat) : Ctx := { k with tok := vmod k.tok q fun _ => n }

/-- Whether every queue named holds enough tokens, a queue named twice needing two (R29). -/
def Ctx.canTake (k : Ctx) (qs : List Nat) : Bool :=
  (qs.filter (· ≠ 0)).all fun q => (qs.filter (· = q)).length ≤ k.tokens q

/-- Take one token from each queue named (R29). -/
def Ctx.take (k : Ctx) : List Nat → Ctx
  | [] => k
  | q :: t => (if q = 0 then k else k.setTok q (k.tokens q - 1)).take t

/-- Give tokens back, one to each queue named (R31, R180). -/
def Ctx.giveBack (k : Ctx) : List Nat → Ctx
  | [] => k
  | q :: t => (if q = 0 then k else k.setTok q (min 63 (k.tokens q + 1))).giveBack t

/-- Whether all four sequencers have executed EXIT. -/
def Ctx.allExited (k : Ctx) : Bool := k.seqs.x.exited && k.seqs.l.exited && k.seqs.c.exited && k.seqs.s.exited

/-- The wait fields of an E- or Y-format word. -/
def waitFields (w : Word) : List Nat := [bitsN w 55 52, bitsN w 51 48, bitsN w 47 44]

/-- The queues whose tokens may yet come back: those that a timed region holds (R31) and those of a copy that waits for a slot
(R247). Their places stay taken, so that no count passes 63 (log 49). -/
def Ctx.mayReturn (k : Ctx) : List Nat :=
  (match k.region with
    | some r => r.held
    | none => []) ++
  [Stream.x, .l, .c, .s].flatMap fun st => match (k.seqs.get st).stall with
    | some (w, .slot) => waitFields w
    | _ => []

/-- Whether nothing is left that could take a token from a queue: every sequencer has exited, and no queued engine word waits on it
(R9). -/
def Ctx.noTaker (k : Ctx) (q : Nat) : Bool :=
  k.allExited && (k.eqM ++ k.eqV ++ k.eqS).all fun e => e.taken || !(waitFields e.word).contains q

/-- Whether a post to `q` may be made: below 63 tokens (R29), or when no agent could ever take one, so that nothing waits on it (R9;
log 66). -/
def Ctx.canPost (k : Ctx) (q : Nat) : Bool :=
  q = 0 || decide (k.tokens q + (k.mayReturn.filter (· = q)).length < 63) || k.noTaker q

/-- Post one token (R29); past 63 it is discarded, which only `noTaker` lets happen. -/
def Ctx.post (k : Ctx) (q : Nat) : Ctx := if q = 0 then k else k.setTok q (min 63 (k.tokens q + 1))

/-- The engine queue of a unit (R306). -/
def Ctx.eq (k : Ctx) : EUnit → List EqEntry
  | .matrix => k.eqM
  | .vector => k.eqV
  | .sfu => k.eqS

/-- Replace the engine queue of a unit. -/
def Ctx.setEq (k : Ctx) (u : EUnit) (q : List EqEntry) : Ctx :=
  match u with
  | .matrix => { k with eqM := q }
  | .vector => { k with eqV := q }
  | .sfu => { k with eqS := q }

/-- Whether two records are one and the same: the stream and its order. -/
def Inflight.same (f g : Inflight) : Bool := f.ord = g.ord && f.st = g.st

/-- Whether a record is that of a VST that writes to a port. -/
def Inflight.pushes (f : Inflight) (p : Nat) : Bool := f.unit = .vector && f.port = some p && f.vw = []

/-- Whether an instruction has had every effect, and only its post waits for room. -/
def Ctx.posting (k : Ctx) (now : Nat) (f : Inflight) : Bool :=
  f.effs = [] && decide (f.due < now) && !k.canPost f.post && match f.port with
    | none => f.mid.isNone
    | some p => f.pushes p && f.mid.isSome && (vgetD k.sp p Port.off).outQ.all fun b => b.owner ≠ f.ord

/-- A timed region holds tokens that a word of it, by its place in program order, has taken (R31). -/
def Region.hold (r : Region) (ord : Nat) (qs : List Nat) : Region :=
  let qs := qs.filter (· ≠ 0)
  { r with held := r.held ++ qs, ords := r.ords ++ qs.map fun _ => ord }

/-- A sequencer of a timed region holds the tokens it takes (R31). -/
def Ctx.holdTokens (k : Ctx) (st : Stream) (qs : List Nat) : Ctx :=
  match st, k.region with
  | .c, some r => { k with region := some (r.hold (k.seqs.c.ord + 1) qs) }
  | _, _ => k

/-- Post, or defer the post to the end of the timed region (R170); `ord` is the engine instruction that must complete first
(0 for none). -/
def Ctx.postOr (k : Ctx) (st : Stream) (q ord : Nat) : Ctx :=
  match st, k.region with
  | .c, some r => if q = 0 then k else { k with region := some { r with posts := r.posts ++ [(q, ord)] } }
  | _, _ => k.post q

/-! ## The advance of a sequencer -/

/-- Arrival at the end of a body by finishing a trip (R124, R125): every active loop that ends here decrements, innermost
first, and loops back or ends. The fuel is the depth of the loop stack. -/
def Seq.arrive (q : Seq) : Nat → Seq
  | 0 => q
  | n + 1 =>
    match q.loops with
    | [] => q
    | e :: rest =>
      if q.pc = e.stop then
        let v := q.lc[e.lc.toNat] - 1
        let q := { q with lc := q.lc.set e.lc.toNat v }
        if v ≠ 0 then { q with pc := e.start }
        else ({ q with loops := rest, loopBuf := if rest = [] then [] else q.loopBuf } : Seq).arrive n
      else q

/-- Whether an address lies in the body of a loop. -/
def LoopEntry.has (e : LoopEntry) (a : Word) : Bool := decide (e.start.toNat ≤ a.toNat) && decide (a.toNat < e.stop.toNat)

/-- A transfer ends every active loop whose body does not hold the target, from the innermost (R126). -/
def Seq.jump (q : Seq) (target : Word) : Seq :=
  let l := q.loops.dropWhile fun e => !e.has target
  { q with pc := target, loops := l, loopBuf := if l = [] then [] else q.loopBuf }

/-- The sequencer after one word has issued and completed: the next word, the next slot, the pending transfer, or the end of
a loop body. After a BT that is not taken, a second slot that is the last word of a body ends the trip as any last word does (R124), and is
not the completion that R125 excepts, which sets the PC to a target: DESIGN CHOICE (log 73). -/
def Seq.advance (q : Seq) : Seq :=
  match q.xfer with
  | some t =>
    if t.slots ≤ 1 then
      if t.taken then ({ q with xfer := none } : Seq).jump t.target
      else ({ q with xfer := none, pc := q.pc + 8 } : Seq).arrive 4
    else { q with xfer := some { t with slots := t.slots - 1 }, pc := q.pc + 8 }
  | none => ({ q with pc := q.pc + 8 } : Seq).arrive 4

/-! ## Boost -/

/-- Whether a shadow level holds an entry. -/
def Boost.nonEmpty (b : Boost) : Bool := b.entries ≠ []

/-- The entry through which level `lv` reads a register, if any level at or below holds one (R14). -/
def Boost.find (b : Boost) (lv : Nat) (isP : Bool) (r : Nat) : Option Shadow :=
  let at' (n : Nat) := b.entries.find? fun e => e.lv = n && e.isP = isP && e.reg = r
  if 2 ≤ lv then (at' 2).orElse fun _ => at' 1 else if lv = 1 then at' 1 else none

/-- ReadX of R14 for an x register. -/
def Ctx.rxAt (k : Ctx) (st : Stream) (lv : Nat) (r : BitVec 5) : Word :=
  match k.boost.find lv false r.toNat with
  | some e => if r = 0 then 0 else e.val
  | none => (k.seq st).rx r

/-- ReadX of R14 for a predicate. -/
def Ctx.rpAt (k : Ctx) (st : Stream) (lv : Nat) (r : BitVec 3) : Bool :=
  match k.boost.find lv true r.toNat with
  | some e => if r = 0 then true else e.val ≠ 0
  | none => (k.seq st).rp r

/-- The earliest-written poisoned entry among those read (R134). -/
def Ctx.poisonAt (k : Ctx) (lv : Nat) (xs : List (BitVec 5)) (ps : List (BitVec 3)) : Option Cause :=
  let es := (xs.filterMap fun r => if r = 0 then none else k.boost.find lv false r.toNat) ++
    (ps.filterMap fun r => if r = 0 then none else k.boost.find lv true r.toNat)
  let bad := es.filter fun e => e.poison.isSome
  (bad.foldl (fun (m : Option Shadow) e => match m with
    | none => some e
    | some o => if e.ord < o.ord then some e else some o) none).bind (·.poison)

/-- Write a shadow entry, recording the level's first PC (R14, R135). A boosted write to x0 or p0 is discarded (R133). -/
def Ctx.wShadow (k : Ctx) (lv : Nat) (isP : Bool) (r : Nat) (v : Word) (poison : Option Cause) (pc : Word) : Ctx :=
  if r = 0 then k
  else
    let b := k.boost
    let es := b.entries.filter fun e => !(e.lv = lv && e.isP = isP && e.reg = r)
    let here : LevelRec := { pc := pc, ord := k.order, xfer := k.seqs.x.xfer }
    let rec1 := if lv = 1 && b.rec1.isNone then some here else b.rec1
    let rec2 := if lv = 2 && b.rec2.isNone then some here else b.rec2
    { k with
      boost := { entries := { lv := lv, isP := isP, reg := r, val := v, poison := poison, ord := k.order } :: es,
                 rec1 := rec1, rec2 := rec2 }
      order := k.order + 1 }

/-- Clear both shadow levels (R14); a boosted load still in its queue then owes nothing, and belongs to no level (3). -/
def Ctx.clearBoost (k : Ctx) : Ctx :=
  let free (e : QEntry) : QEntry := if e.boost = 0 then e else { e with boost := 3, reg := 0 }
  { (k.upSeq .x fun q => { q with loadQ := q.loadQ.map free }) with boost := { entries := [], rec1 := none, rec2 := none } }

/-- Whether a boosted load is still in the X stream's queue. -/
def Ctx.boostLoads (k : Ctx) : Bool := (k.seq .x).loadQ.any fun e => e.boost = 1 || e.boost = 2

/-- Whether the C stream's engine instruction of an order is still to complete: queued, in flight, or stopped. -/
def Ctx.ordOpen (k : Ctx) (ord : Nat) : Bool :=
  (k.flight.any fun f => f.st = .c && f.ord = ord) || ((k.eqM ++ k.eqV ++ k.eqS).any fun e => e.ord = ord) ||
    (k.pend.any fun p => p.ord = ord && p.entry.isSome) || (k.run ≠ .running && k.frame.equeue.any fun e => e.2.ord = ord)

/-- Deferred posts are made in order, each once the engine instruction it names has completed and its queue has room (R29,
R167). -/
def Ctx.settlePosts (k : Ctx) : Nat → Ctx
  | 0 => k
  | n + 1 =>
    match k.posts with
    | [] => k
    | (q, ord) :: rest =>
      if (ord = 0 || !k.ordOpen ord) && k.canPost q then ({ k with posts := rest } : Ctx).post q |>.settlePosts n
      else k

/-- A stamped word whose region has ended (R165). -/
def EqEntry.leave (e : EqEntry) : EqEntry := { e with left := e.stamp.isSome }

/-- EndRegion (R167): held tokens and words are consumed, deferred posts are made in order, REGMODE.TIMED clears. The words of the region
that have yet to issue or complete go on without it (R165). -/
def Ctx.endRegion (k : Ctx) : Ctx :=
  match k.region with
  | none => k
  | some r =>
    let k := { k with
      region := none, posts := k.posts ++ r.posts, csr := { k.csr with regmode := k.csr.regmode &&& ~~~2 },
      eqM := k.eqM.map EqEntry.leave, eqV := k.eqV.map EqEntry.leave, eqS := k.eqS.map EqEntry.leave,
      flight := k.flight.map fun (f : Inflight) => { f with owns := true },
      pend := k.pend.map fun (p : Pending) => { p with entry := p.entry.map EqEntry.leave } }
    k.settlePosts k.posts.length

/-- Commit level 1 (R14), level 2 and its record moving down (R135); a poisoned entry gives its cause instead (R134). Of several
poisoned entries the one written first gives it: R134 says so of a reading instruction and is silent on a commit, DESIGN CHOICE
(log 67). -/
def Ctx.commit (k : Ctx) : Except Cause Ctx :=
  let l1 := k.boost.entries.filter fun e => e.lv = 1
  let bad := l1.filter fun e => e.poison.isSome
  match bad.foldl (fun (m : Option Shadow) e => match m with
      | none => some e
      | some o => if e.ord < o.ord then some e else some o) none with
  | some e => .error (e.poison.getD (mkCause 0 0))
  | none =>
    let k1 := k.upSeq .x fun q => { q with
      x := Vector.ofFn fun i => if i.val = 0 then q.x[i] else ((k.boost.find 1 false i.val).map (·.val)).getD q.x[i]
      p := Vector.ofFn fun i => if i.val = 0 then q.p[i] else ((k.boost.find 1 true i.val).map fun e => decide (e.val ≠ 0)).getD q.p[i]
      marks := q.marks.filter fun m => (k.boost.find 1 false m.reg.toNat).isNone }
    .ok { k1 with boost :=
      { entries := (k.boost.entries.filter fun e => e.lv = 2).map fun e => { e with lv := 1 },
        rec1 := k.boost.rec2, rec2 := none } }

/-- Where a boost span restarts (R135): the earlier record of the non-empty levels. -/
def Boost.restartRec (b : Boost) : Option LevelRec :=
  match b.rec1, b.rec2 with
  | some p, some q => some (if p.ord ≤ q.ord then p else q)
  | some p, none => some p
  | none, q => q

/-- The restart address of a boost span. -/
def Boost.restart (b : Boost) : Option Word := b.restartRec.map (·.pc)

/-! ## Taking a fault -/

/-- Where a stream resumes after a stop (R304): the table's first row that applies. A TRAP or a halting BKPT has already
completed as a word, so the remaining rows are the sequencer's own PC. -/
def Ctx.restart (k : Ctx) (st : Stream) : Word :=
  let q := k.seq st
  if q.exited then q.pc
  else match st, k.region, k.boost.restart with
    | .c, some r, _ => r.head
    | .x, _, some p => if q.micro.active then q.pc else p
    | _, _, _ => q.pc

/-- FAULTCAUSE of a recorded fault (R301); a MASKED_FEATURE trap reads as RESERVED_OPC (R94). -/
def faultWord (strict : Bool) (f : Pending) : Word :=
  let code := if f.cause.code = causeMaskedFeature then causeReservedOpc else f.cause.code
  BitVec.ofNat 64 (f.cause.detail * 2 ^ 24 + f.source * 2 ^ 20 + b2n f.precise * 2 ^ 19 + b2n strict * 2 ^ 16 + code)

/-- The first fault in tide order, faults of one cycle in SOURCE order (R306). A record with no cause, of an instruction that a checkpoint
stopped (R316), is no fault. -/
def firstFault : List Pending → Option Pending
  | [] => none
  | f :: t =>
    if f.cause.code = 0 then firstFault t
    else match firstFault t with
      | none => some f
      | some g => if f.tide < g.tide ∨ (f.tide = g.tide ∧ f.source ≤ g.source) then some f else some g

/-- Taking a fault: the one operation by which any agent of a context raises one (R92, R93, R301, R306, R307). The fault is
recorded; FAULTCAUSE and FAULTADDR hold the first one; for a precise fault FAULTPCn of its stream holds the restart
address. The streams stop from the next cycle on (FAULT_STOP). -/
def takeFault (s : State) (c : Nat) (f : Pending) : State :=
  let s := if f.cause.code = causeMaskedFeature then s.logPf (.event .maskedFeature (s.ctx c).vf (ctxid c) f.word) else s
  let strict := s.strict c
  s.upCtx c fun k =>
    let pend := k.pend ++ [f]
    let pcs := if f.precise && f.source < 4 then
        vmod k.csr.faultpc f.source fun _ =>
          k.restart (match f.source with | 0 => .x | 1 => .l | 2 => .c | _ => .s)
      else k.csr.faultpc
    match firstFault pend with
    | some g =>
      let csr := { k.csr with faultcause := faultWord strict g, faultaddr := g.cause.addr, faultpc := pcs }
      { k with pend := pend, csr := csr }
    | none => k

/-- A precise fault of a stream at its word (R92). -/
def preciseFault (s : State) (c : Nat) (st : Stream) (pc word : Word) (cause : Cause) : State :=
  takeFault s c { source := st.code, precise := true, cause := cause, tide := s.tide, pc := pc, word := word, fword := none,
                  progress := 0, unissued := false, midop := false }

/-- A fault that is not precise at a word, by an agent of the context (R145, R155, R248). -/
def looseFault (s : State) (c source : Nat) (cause : Cause) : State :=
  takeFault s c { source := source, precise := false, cause := cause, tide := s.tide, pc := 0, word := 0, fword := none,
                  progress := 0, unissued := false, midop := false }

/-- The stream of a code, as SOURCE numbers the first four agents (R301). -/
def streamNo (n : Nat) : Stream := match n % 4 with | 0 => .x | 1 => .l | 2 => .c | _ => .s

/-- The SOURCE number of an engine (R301). -/
def EUnit.source : EUnit → Nat
  | .matrix => 4
  | .vector => 5
  | .sfu => 6

end Sys2Proof.Machine
end

