-- ==== Sys2Proof/Machine/Score.lean ====
section
/-! DEFINITION. FC3's suspicion scores and FC4's requests for leases (R438, R446, R447). -/

namespace Sys2Proof.Machine

/-- The KIND code of a unit (R438). -/
def kindCode : UnitKind → Nat
  | .core => 1
  | .quay => 2
  | .channel => 3

/-- The record of a unit nothing has happened to. -/
def UnitRec.fresh (k : UnitKind) (u : Nat) : UnitRec :=
  { kind := k, unit := u, score := 0, lastLease := 0, early := none, watchDue := none, outOfService := false }

/-- The record of a unit. -/
def State.unitRec (s : State) (k : UnitKind) (u : Nat) : UnitRec :=
  (s.units.find? fun r => r.kind = k && r.unit = u).getD (UnitRec.fresh k u)

/-- Change the record of a unit. -/
def State.upUnit (s : State) (k : UnitKind) (u : Nat) (f : UnitRec → UnitRec) : State :=
  { s with units := (s.units.filter fun r => !(r.kind = k && r.unit = u)) ++ [f (s.unitRec k u)] }

/-- The rotation period of a kind in tide cycles (R447). -/
def State.period (s : State) (k : UnitKind) : Nat :=
  2 ^ (match k with | .core => s.periods[0] | .quay => s.periods[1] | .channel => s.periods[2])

/-- The tide at which a unit's next rotation lease falls due (R447). -/
def State.rotationDue (s : State) (k : UnitKind) (u : Nat) : Nat :=
  let r := s.unitRec k u
  r.early.getD (r.lastLease + s.period k)

/-- Whether a lease is outstanding: REQUESTED, PENDING or HELD. -/
def Lease.open? (l : Lease) : Bool := l.state = 1 || l.state = 2 || l.state = 3

/-- FC4 asks for a lease (R401, R438): merged into an outstanding one with the higher REASON; a core becomes lease-pending. -/
def State.requestLease (s : State) (k : UnitKind) (u reason : Nat) : State :=
  if s.leases.any fun l => l.kind = k && l.unit = u && l.open? then
    let up (l : Lease) : Lease := if l.kind = k && l.unit = u && l.open? then { l with reason := max l.reason reason } else l
    { s with leases := s.leases.map up }
  else
    let l : Lease :=
      { id := s.nextLease, kind := k, unit := u, state := if k = .core then 2 else 1, patset := Config.patternSet k % 65536,
        outcome := 0, reason := reason, treq := s.tide, tgrant := 0, tend := 0, score0 := (s.unitRec k u).score,
        score1 := 0, holds := 0, digest := zeros 16, retest := false, ident := 0 }
    let all := s.leases ++ [l]
    let s := { s with leases := all.drop (all.length - 4096), nextLease := s.nextLease + 1 }
    if k = .core then s.upCore u fun h => { h with leasePending := true, pendingSince := s.tide } else s

/-- Add to a score (R446): reaching 256 halves the wait to the unit's next lease, reaching 1,024 requests one (R447). -/
def State.addScore (s : State) (k : UnitKind) (u n : Nat) : State :=
  let r := s.unitRec k u
  let v := min 65535 (r.score + n)
  let due := s.rotationDue k u
  let halve := r.score < 256 && 256 ≤ v
  let half (t : Nat) : Nat := s.tide + (t - s.tide) / 2
  let watch := r.watchDue.any fun t => decide (t ≤ due)
  let early := if halve && !watch then some (half due) else r.early
  let s := s.upUnit k u fun r => { r with score := v, early := early, watchDue := if halve && watch then r.watchDue.map half else r.watchDue }
  if r.score < 1024 && 1024 ≤ v then s.requestLease k u 1 else s

end Sys2Proof.Machine
end

