-- ==== Sys2Proof/Machine/Phys.lean ====
section
/-! DEFINITION. Physical memory: the address map and homing (R345, R346), keys (R351), the L2 and its partition classes (R352,
R361, R362), the remote-data cache (R297, R354), access tables (R360), the page walk (R356, R357), and the points at which
stores and loads perform (R287, R293, R295, R296). -/

namespace Sys2Proof.Machine

/-! ## The address map (R345) -/

def isDevice (pa : Nat) : Bool := pa < 2 ^ 41
def isHost (pa : Nat) : Bool := 0x8000000000000 ≤ pa && pa < 0xC000000000000
def isPeer (pa : Nat) : Bool := 0xC000000000000 ≤ pa && pa < 0xC010000000000
def isCsr (pa : Nat) : Bool := 0xF000000000000 ≤ pa && pa < 0xF000100000000

/-- Home die, line within the die, slice, set, channel and sector of a device address (R346). -/
def homeDie (pa : Nat) : Nat := pa / 2 ^ 38 % 8
def lineOfDie (pa : Nat) : Nat := pa / 1024 % 2 ^ 28
def sliceOf (pa : Nat) : Nat := lineOfDie pa % 768
def setOf (pa : Nat) : Nat := lineOfDie pa / 768 % 8
def channelOf (pa : Nat) : Nat :=
  let n := lineOfDie pa
  homeDie pa * 128 + (Nat.xor (Nat.xor (n % 128) (n / 2 ^ 7 % 128)) (Nat.xor (n / 2 ^ 14 % 128) (n / 2 ^ 21 % 128)))
def sectorOf (pa : Nat) : Nat := pa / 128

/-- The 128-byte sectors that `n` bytes at `pa` touch. -/
def sectorsOf (pa n : Nat) : List Nat :=
  if n = 0 then [] else (List.range ((pa + n - 1) / 128 - pa / 128 + 1)).map fun i => pa / 128 + i

/-! ## The L2 (R352, R361, R362) -/

/-- The registers of class `k` on die `d`. -/
def State.l2c (s : State) (d k : Nat) : L2Class := sget (L2Class.reset k) s.l2cls (d * 64 + k)

/-- Change the registers of a class. -/
def State.upL2c (s : State) (d k : Nat) (f : L2Class → L2Class) : State :=
  { s with l2cls := sset (L2Class.reset k) s.l2cls (d * 64 + k) (f (s.l2c d k)) }

/-- The lines of one set, most recently used first. -/
def State.l2set (s : State) (i : Nat) : List L2Line := sget [] s.l2 i

/-- Number of a set among all dies and slices. -/
def l2Index (pa : Nat) : Nat := homeDie pa * 6144 + sliceOf pa * 8 + setOf pa

/-- Lines of a class in one slice of a die: Occ of R362. -/
def State.l2occ (s : State) (d slice k : Nat) : Nat :=
  ((List.range 8).map fun i => ((s.l2set (d * 6144 + slice * 8 + i)).filter fun l => l.cls = k).length).sum

/-- Lines of a class in all slices of a die: OCCDIE (R361). -/
def State.l2occDie (s : State) (d k : Nat) : Nat :=
  ((s.l2.filter fun e => e.1 / 6144 = d).map fun e => (e.2.filter fun l => l.cls = k).length).sum

/-- Remove a line from its set, counting it for its class (L2VICT). -/
def State.l2drop (s : State) (d i : Nat) (l : L2Line) : State :=
  let s := { s with l2 := sset [] s.l2 i ((s.l2set i).filter fun x => x.way ≠ l.way) }
  s.upL2c d l.cls fun c => { c with vict := c.vict + 1 }

/-- The victim way of a miss by class `k` (R362); none when the class may fill no way. -/
def State.l2victim (s : State) (d slice i k : Nat) : Option Nat :=
  let mask := (s.l2c d k).waymask
  let ways := (List.range 16).filter fun w => mask.getLsbD w
  let lines := s.l2set i
  if ways = [] then none
  else match ways.find? fun w => lines.all fun l => l.way ≠ w with
    | some w => some w
    | none =>
      let lru := lines.reverse.filter fun l => mask.getLsbD l.way
      let own := lru.filter fun l => l.cls = k
      if (s.l2c d k).softlim ≤ s.l2occ d slice k && own ≠ [] then (own.head?).map (·.way) else (lru.head?).map (·.way)

/-- Accesses of a requester of class `k` under key `key` to some sectors of one line at the home slice (R352, R362): a hit makes the line
most recently used, and the sectors valid; a line under another key counts as a miss and is removed first; a miss chooses a victim and
fills the sectors. -/
def State.l2line (s : State) (k key pa : Nat) (xs : List Nat) (store : Bool) : State :=
  let d := homeDie pa
  let i := l2Index pa
  let n := lineOfDie pa
  let add (l : List Nat) : List Nat := l ++ xs.filter fun x => !l.contains x
  let mark (l : L2Line) : L2Line := { l with valid := add l.valid, dirty := if store then add l.dirty else l.dirty }
  match (s.l2set i).find? fun l => l.line = n && l.key = key with
  | some l => { s with l2 := sset [] s.l2 i (mark l :: (s.l2set i).filter fun x => x.way ≠ l.way) }
  | none =>
    let s := match (s.l2set i).find? fun l => l.line = n with
      | some l => s.l2drop d i l
      | none => s
    match s.l2victim d (sliceOf pa) i k with
    | none => s
    | some w =>
      let s := match (s.l2set i).find? fun l => l.way = w with
        | some l => s.l2drop d i l
        | none => s
      let s := { s with l2 := sset [] s.l2 i (mark { way := w, line := n, cls := k, key := key, valid := [], dirty := [] } :: s.l2set i) }
      s.upL2c d k fun c => { c with fill := c.fill + 1 }

/-- One access to the sector of an address. -/
def State.l2touch (s : State) (k key pa : Nat) (store : Bool) : State := s.l2line k key pa [sectorOf pa] store

/-- Firmware (class 0) accesses `n` bytes of device memory under a key, line by line (R346, R361). -/
def State.l2span (s : State) (key pa n : Nat) (store : Bool) : State :=
  if n = 0 then s
  else
    let lo := pa / 128
    let hi := (pa + n - 1) / 128
    (List.range (hi / 8 + 1 - lo / 8)).foldl (fun s i =>
      let l := (lo / 8 + i) * 8
      s.l2line 0 key (l * 128) ((List.range 8).filterMap fun x => if lo ≤ l + x && l + x ≤ hi then some (l + x) else none) store) s

/-- Whether the L2 holds the sector of an address under a key: no access to the channel is needed (R352). -/
def State.l2has (s : State) (key pa : Nat) : Bool :=
  (s.l2set (l2Index pa)).any fun l => l.line = lineOfDie pa && l.key = key && l.valid.contains (sectorOf pa)

/-! ## Requests to other modules (R416, R427, R429 to R431; log 59) -/

/-- A quay. -/
def State.quay (s : State) (n : Nat) : Quay := vgetD s.quays n Quay.reset
def State.upQuay (s : State) (n : Nat) (f : Quay → Quay) : State := { s with quays := vmod s.quays n f }

/-- Whether a quay takes traffic: it is up, and the drydock has not leased it (R431). -/
def State.quayOpen (s : State) (q : Nat) : Bool := decide (q < 24) && (s.quay q).up && !(s.quay q).leased

/-- The peer table entry of an address (R430). -/
def State.peerOf (s : State) (vf pa : Nat) : Option PeerEntry := (s.vf vf).peers.find? fun p => p.slot = pa / 2 ^ 32 % 256

/-- Whether every quay of an entry is down (R431). -/
def State.entryDown (s : State) (p : PeerEntry) : Bool := (p.quays.filter (· < 24)).all fun q => !(s.quay q).up
def State.pathDown (s : State) (vf pa : Nat) : Bool := isPeer pa && (s.peerOf vf pa).any s.entryDown

/-- The 32 bytes that lead the payload of every flit of VC1 to VC3 (R430): what it asks or answers, with a code; destination, source module and
function; export or communicator; offset; tag; length. -/
def transportHead (kind code dest vf num off tag len : Nat) : List Byte :=
  natBytes kind 1 ++ natBytes code 1 ++ natBytes dest 2 ++ natBytes Config.fabricAddr.toNat 2 ++ natBytes vf 2 ++ natBytes num 4 ++
    natBytes off 4 ++ natBytes tag 8 ++ natBytes len 8

/-- Payload bytes of a flit (R427). -/
def flitPayload : Nat := 240

/-- A flit of a VC with some payload; its link fields are filled as it leaves. -/
def vcFlit (vc : Nat) (bs : List Byte) : Flit := { vc := vc, ty := 1, fseq := 0, aseq := 0, credVc := 0, cred := 0, payload := fit flitPayload bs }

/-- A quay accepts a flit for a master (R416). -/
def State.putFlit (s : State) (q m : Nat) (f : Flit) : State := s.upQuay q fun x => { x with waiting := x.waiting ++ [(m, f)] }

/-- The quay of a request of a function to an address (R431): one that still carries a request to the same sector of that destination, else
the one that the hash of the sector picks among those open. -/
def State.pickQuay (s : State) (p : PeerEntry) (pa : Nat) : Option Nat :=
  let open' := p.quays.filter s.quayOpen
  match s.reqs.find? fun r => r.dest = p.dest && r.op ≤ 3 && r.resp.isNone && r.pa / 128 = pa / 128 && open'.contains r.quay with
  | some r => some r.quay
  | none => open'[Config.quayHash (pa / 128) % open'.length]?

/-- A request leaves for another module: 1 a read of `n` bytes, 2 a write, 3 an atomic with its code and operands (R430). While no quay is open
it does not. -/
def State.askPeer (s : State) (vf pa n op code : Nat) (data : List Byte) (who : Option (Nat × Nat)) : State :=
  match s.peerOf vf pa with
  | none => s
  | some p => match s.pickQuay p pa with
    | none => s
    | some q =>
      let r : PeerReq := { tag := s.nextReq, vf := vf, pa := pa, n := n, op := op, quay := q, dest := p.dest, who := who, resp := none }
      { (s.putFlit q vf (vcFlit 1 (transportHead op code p.dest vf p.exportNo (pa % 2 ^ 32) s.nextReq n ++ data))) with
        reqs := s.reqs ++ [r], nextReq := s.nextReq + 1 }

/-- The request that a read or an atomic of a function at an address has sent. -/
def State.peerAsked (s : State) (vf pa n : Nat) : Option PeerReq := s.reqs.find? fun r => r.vf = vf && r.pa = pa && r.n = n && (r.op = 1 || r.op = 3)

/-- Whether it has to wait for the response (R287). -/
def State.peerWaits (s : State) (vf pa n : Nat) : Bool :=
  isPeer pa && !s.pathDown vf pa && (s.peerAsked vf pa n).all fun r => r.resp.isNone

/-- What a response brought is taken: the bytes, and whether the request failed. Where none has come, the read is noted, and what tried it is
not done (R287). -/
def State.peerLoad (s : State) (vf pa n : Nat) : State × List Byte × Bool :=
  match s.peerAsked vf pa n with
  | some { resp := some (bad, bs), tag := t, .. } => ({ s with reqs := s.reqs.filter fun r => r.tag ≠ t }, fit n bs, bad)
  | _ => if s.pathDown vf pa then (s, zeros n, true) else ({ s with peerWants := s.peerWants ++ [(vf, pa, n)] }, zeros n, false)

/-- The reads that were noted are requested, each once. -/
def State.askPeers (s : State) (ws : List (Nat × Nat × Nat)) : State :=
  ws.foldl (fun s w => if (s.peerAsked w.1 w.2.1 w.2.2).isSome then s else s.askPeer w.1 w.2.1 w.2.2 1 0 [] none) s

/-- Bytes go to another module as posted writes, a sector each (R287, R431). -/
def State.peerStore (s : State) (vf pa : Nat) (bs : List Byte) (who : Option (Nat × Nat)) : State :=
  (sectorsOf pa bs.length).foldl (fun s x =>
    let lo := max pa (x * 128)
    let hi := min (pa + bs.length) (x * 128 + 128)
    s.askPeer vf lo (hi - lo) 2 0 ((bs.drop (lo - pa)).take (hi - lo)) who) s

/-- The quay that a function's messages to a module take: the first of its route that is open (R430, R431). -/
def State.route (s : State) (vf fabric : Nat) : Option Nat :=
  ((s.vf vf).peers.filter fun p => p.dest = fabric).findSome? fun p => p.quays.find? s.quayOpen

/-- A rank's failed or abandoned entry is told to the other ranks of its communicator, on this module and on others (R418, R437). -/
def State.abortPeers (s : State) (vf comm : Nat) : State :=
  let s := s.abortNear vf comm
  match s.comms.find? fun m => m.vf = vf && m.num = comm with
  | none => s
  | some m =>
    let home := (m.ranks[m.rank]?.map (·.fabric)).getD 0
    (m.ranks.filter fun r => r.fabric ≠ home).foldl (fun s r => match s.route vf r.fabric with
      | none => s
      | some q => s.putFlit q vf (vcFlit 1 (transportHead 4 0 r.fabric r.vf comm m.rank 0 0))) s

/-- Whether a write to peer space that a test selects has not been acknowledged (R287). -/
def State.unacked (s : State) (sel : PeerReq → Bool) : Bool := s.reqs.any fun r => r.op = 2 && r.resp.isNone && sel r

/-- The same, of the engines and copies of a context. -/
def State.unackedBy (s : State) (c : Nat) : Bool := s.unacked fun r => r.who = some (c, 7)

/-! ## Bytes under keys (R351, R352) -/

/-- The key number in slot `i`; 0 means the slot is empty. -/
def State.keyAt (s : State) (i : Nat) : Nat := sget 0 s.keys i

/-- The number of the key under which a sector is stored, 0 for one that nothing has written: its own entry, or the span of sectors that
firmware wrote last. -/
def State.storedKey (s : State) (sec : Nat) : Nat :=
  match sget 0 s.sectorKey sec with
  | 0 => ((s.keySpans.find? fun r => decide (r.1 ≤ sec) && decide (sec < r.2.1)).map (·.2.2)).getD 0
  | k => k

/-- Firmware writes the sectors [lo, hi) under the key of a slot. -/
def State.keySpan (s : State) (key lo hi : Nat) : State :=
  { s with sectorKey := sclear s.sectorKey lo hi
           keySpans := (lo, hi, s.keyAt key) :: s.keySpans.filter fun r => !(decide (lo ≤ r.1) && decide (r.2.1 ≤ hi)) }

/-- One byte as read under the key of slot `key`: a byte stored under another key reads as a byte of what the ciphertext of its 16-byte
AES block decrypts to (R351). -/
def State.homeByte (s : State) (key pa : Nat) : Byte :=
  let b := sget 0 s.mem pa
  if isDevice pa then
    let st := s.storedKey (sectorOf pa)
    if st = 0 || st = s.keyAt key then b
    else (Config.xtsView st (s.keyAt key) (pa / 16) (sbytes s.mem (pa / 16 * 16) 16)).getD (pa % 16) 0
  else b

/-- `n` bytes at a home. -/
def State.homeBytes (s : State) (key pa n : Nat) : List Byte := (List.range n).map fun i => s.homeByte key (pa + i)

/-! ## Retired channels (R448; log 58) -/

/-- The lowest address of the 2 GiB that a retired channel takes out of service: its die's highest, and for a later channel of the die the next. -/
def State.withdrawnAt (s : State) (c : Nat) : Nat :=
  let mine := (s.retired.filter fun r => r.kind = .channel && r.unit / 128 = c / 128).map (·.unit)
  (c / 128 + 1) * 2 ^ 38 - (mine.idxOf c + 1) * 2 ^ 31

/-- Whether that range is in no sleeve. -/
def State.withdrawn (s : State) (c : Nat) : Bool :=
  let lo := s.withdrawnAt c
  s.sleeves.all fun z => z.kind = 0 || !(decide (lo < z.limit) && decide (z.base < lo + 2 ^ 31))

/-- Whether a channel has been retired and has left service. -/
def State.channelGone (s : State) (c : Nat) : Bool := (s.retired.any fun r => r.kind = .channel && r.unit = c) && s.withdrawn c

/-- Whether an address has left service with a retired channel. -/
def State.outOfService (s : State) (pa : Nat) : Bool :=
  isDevice pa && s.retired.any fun r => r.kind = .channel && s.channelGone r.unit &&
    decide (s.withdrawnAt r.unit ≤ pa) && decide (pa < s.withdrawnAt r.unit + 2 ^ 31)

/-- The channel that serves an address. The lines of a retired channel below its withdrawn range have moved, in ascending order, to the free line
slots of that range on the other channels: 127 in each block of 128 lines. -/
def State.channelAt (s : State) (pa : Nat) : Nat :=
  let c := channelOf pa
  if s.retired = [] || !s.channelGone c || s.withdrawnAt c ≤ pa then c
  else
    let i := lineOfDie pa / 128
    let blk := s.withdrawnAt c + i / 127 * 2 ^ 17
    let own := ((List.range 128).find? fun j => channelOf (blk + j * 1024) = c).getD 0
    channelOf (blk + (if i % 127 < own then i % 127 else i % 127 + 1) * 1024)

/-- Whether an access of `n` bytes reaches a channel in a hold, where it waits (R440): a sector that the L2 holds needs no channel, nor does
one that a store covers whole (R352). -/
def State.channelHeld (s : State) (key pa n : Nat) (store : Bool) : Bool :=
  isDevice pa && s.holds ≠ [] && (sectorsOf pa n).any fun x =>
    !s.l2has key (x * 128) && !(store && decide (pa ≤ x * 128) && decide (x * 128 + 128 ≤ pa + n)) &&
      s.holds.any fun h => h.channel = s.channelAt (x * 128)

/-- An access that reaches a held channel is not made: what tried it is not done, and comes again (R440; log 25). -/
def State.holdWait (s : State) (key pa n : Nat) (store : Bool) : State :=
  if s.channelHeld key pa n store then { s with fwWaits := s.fwWaits ++ [pa / 1024] } else s

/-- Whether a range touches an uncorrectable sector (R350, R353). -/
def State.poisonAt (s : State) (pa n : Nat) : Bool := (sectorsOf pa n).any fun x => s.uncorr.contains x

/-- Whether an access to a range meets MEM_UNCORR: an uncorrectable sector, or flits that failed sixteen times on the way (R450). -/
def State.uncorrAt (s : State) (pa n : Nat) : Bool := s.netBad || s.poisonAt pa n

/-- An uncorrectable error of a channel is charged to it (R145, R446). -/
def State.chargeUncorr (s : State) (pa : Nat) : State := if s.netBad then s else s.addScore .channel (s.channelAt pa) 64

/-- Re-key a sector before a store under another key: its other bytes become what they decrypt to (R352). -/
def State.rekey (s : State) (key sec : Nat) : State :=
  let st := s.storedKey sec
  let k := s.keyAt key
  if st = 0 || st = k then { s with sectorKey := sset 0 s.sectorKey sec k }
  else
    let bs := s.homeBytes key (sec * 128) 128
    { s with mem := ssets 0 s.mem (keyed (sec * 128) bs), sectorKey := sset 0 s.sectorKey sec k }

/-- Bytes land at their home with no other effect. -/
def State.pokeHome (s : State) (key pa : Nat) (bs : List Byte) : State :=
  let s := if isDevice pa then (sectorsOf pa bs.length).foldl (fun s x => s.rekey key x) s else s
  { s with mem := ssets 0 s.mem (keyed pa bs) }

/-- A store performs at its home (R287, R297, R353): the L2 takes it, copies of the storing die follow it or are
invalidated, a poisoned sector is healed only when covered whole. The flag tells an uncorrectable partial store, which
writes nothing (R145; log 24). -/
def State.homeStore (s : State) (cls key : Nat) (die : Option Nat) (vf pa : Nat) (bs : List Byte) : State × Bool :=
  let n := bs.length
  let secs := sectorsOf pa n
  let covered := secs.filter fun x => decide (pa ≤ x * 128) && decide (x * 128 + 128 ≤ pa + n)
  if isPeer pa then (if s.pathDown vf pa then (s, true) else (s.peerStore vf pa bs none, false))
  else if isDevice pa && (s.netBad || secs.any fun x => s.uncorr.contains x && !covered.contains x) then (s, true)
  else
    let s := if isDevice pa then secs.foldl (fun s x => s.l2touch cls key (x * 128) true) (s.holdWait key pa n true) else s
    let s := s.pokeHome key pa bs
    let s := { s with uncorr := s.uncorr.filter fun x => !covered.contains x }
    let lines := (secs.map (· / 8)).eraseDups
    let s := match die with
      | none => s
      | some d =>
        let follow (r : RdcLine) : Option RdcLine :=
          if r.die = d && lines.contains r.line then
            (if r.vf = vf then some { r with data := ssets 0 r.data ((keyed pa bs).filter fun e => r.valid.contains (e.1 / 128)) }
             else none)
          else some r
        { s with rdc := s.rdc.filterMap follow }
    (s, false)

/-! ## Access tables (R360) -/

/-- What an access needs. -/
inductive Need
  | rd | wr | both
deriving DecidableEq, Repr

/-- The agent kinds of a MAT entry, as their AGENTS bits. -/
def agCore : Nat := 4
def agColl : Nat := 5
def agFw : Nat := 6
def agHost : Nat := 7
def agPeer : Nat := 8

/-- What a request needs of a table's entry, for a function that is not the physical one (R360). -/
def State.matPass (s : State) (t : MatTarget) (unit vf agent : Nat) (need : Need) (pa : Nat) : Bool :=
  vf = 0 || s.mat.any fun e =>
    e.target = t && e.unit = unit && bitN e.w0 3 && bitsN e.w0 23 12 = vf && bitN e.w0 agent &&
    decide (bitsN e.w0 59 24 * 65536 ≤ pa) && decide (pa < bitsN e.w1 59 24 * 65536) &&
    (match need with | .rd => bitN e.w0 0 | .wr => bitN e.w0 1 | .both => bitN e.w0 0 && bitN e.w0 1)

/-- The first target on the way of an access whose table does not admit it (R360): a device address has its L2 slice, and where the slice does
not hold the sector its channel; a peer address every quay of its entry; a CSR address its die's block (log 6). -/
def State.refusedAt (s : State) (vf agent key : Nat) (need : Need) (pa : Nat) : Option (MatTarget × Nat) :=
  let at_ (t : MatTarget) (n : Nat) : Option (MatTarget × Nat) := if s.matPass t n vf agent need pa then none else some (t, n)
  if isDevice pa then
    (at_ .l2 (homeDie pa * 768 + sliceOf pa)).orElse fun _ => if s.l2has key pa then none else at_ .hbm (s.channelAt pa)
  else if isPeer pa then ((s.peerOf vf pa).map (·.quays)).getD [] |>.findSome? fun q => at_ .quay q
  else if isCsr pa then at_ .csr (pa / 2 ^ 29 % 8)
  else none

/-- The check at the target of an access (R351, R360, R365, R430, R448): an empty key slot, an address out of service, a table that does not admit the master, or
a peer entry that is not valid refuses it. -/
def State.targetPass (s : State) (vf agent key : Nat) (need : Need) (pa : Nat) : Bool :=
  if isDevice pa then s.keyAt key ≠ 0 && !s.outOfService pa && (s.refusedAt vf agent key need pa).isNone
  else if isPeer pa then (s.peerOf vf pa).any (fun p => p.quays ≠ []) && (s.refusedAt vf agent key need pa).isNone
  else if isHost pa then need ≠ .both || s.atomicReq
  else isCsr pa && (s.refusedAt vf agent key need pa).isNone

/-- The logs of a refused access: FC3 logs the master, the address and the target, or KEY_EMPTY (R351, R360). -/
def State.logDenied (s : State) (vf agent key : Nat) (need : Need) (pa : Nat) : State :=
  if isDevice pa && s.keyAt key = 0 then s.logPf (.event .keyEmpty vf 0 (BitVec.ofNat 64 pa))
  else match s.refusedAt vf agent key need pa with
    | some (t, n) => s.logPf (.denied vf agent t n pa)
    | none => s.logPf (.event .accessDenied vf 0 (BitVec.ofNat 64 pa))

/-! ## The page walk (R356, R357) -/

/-- First index bit and number of index bits of a level (R356). -/
def lvlShift : Nat → Nat
  | 0 => 16
  | 1 => 21
  | 2 => 30
  | 3 => 39
  | _ => 48

def lvlEntries : Nat → Nat
  | 0 => 32
  | 4 => 256
  | _ => 512

/-- The address of the entry of a level. -/
def entryPa (table lvl va : Nat) : Nat := table + va / 2 ^ lvlShift lvl % lvlEntries lvl * 8

/-- The malformed entries of R357. -/
def malformed (e : Word) (lvl : Nat) : Bool :=
  let addr := bitsN e 51 8 * 256
  let leaf := bitN e 1
  bitsN e 63 52 ≠ 0 || bitN e 7 || (leaf && 3 ≤ lvl) || (!leaf && lvl = 0) || (leaf && bitN e 3 && !bitN e 2) ||
    (leaf && addr % 2 ^ lvlShift lvl ≠ 0) || !(isDevice addr || isHost addr || isPeer addr) || (!leaf && !isDevice addr) ||
    (!leaf && bitN e 6)

/-- What a walk finds: a leaf with its entry's address, or a fault, malformed or not. -/
inductive Walk
  | leaf (entry : Nat) (e : Word) (lvl : Nat)
  | miss (bad : Bool) (lvl table : Nat)
deriving DecidableEq, Repr

/-- The walk from a table of level `lvl` downward; walk reads use key index 4,096. -/
def State.walkFrom (s : State) (va : Nat) : Nat → Nat → Walk
  | lvl, table =>
    let p := entryPa table lvl va
    let e : Word := BitVec.ofNat 64 (leNat (s.homeBytes 4096 p 8))
    if !bitN e 0 || s.poisonAt p 8 then .miss false lvl table
    else if malformed e lvl then .miss true lvl table
    else if bitN e 1 then .leaf p e lvl
    else match lvl with
      | 0 => .miss true 0 table
      | n + 1 => s.walkFrom va n (bitsN e 51 8 * 256)

/-- The walk of a function's tree. -/
def State.walk (s : State) (vf va : Nat) : Walk := s.walkFrom va 4 (s.vf vf).root

/-- Every table entry that a walk reads, for the L2 (class 0). -/
def State.walkTouch (s : State) (va : Nat) : Nat → Nat → State
  | lvl, table =>
    let p := entryPa table lvl va
    let e : Word := BitVec.ofNat 64 (leNat (s.homeBytes 4096 p 8))
    let s := (s.holdWait 4096 p 8 false).l2touch 0 4096 p false
    match lvl with
    | 0 => s
    | n + 1 => if bitN e 0 && !bitN e 1 && !malformed e (n + 1) then s.walkTouch va n (bitsN e 51 8 * 256) else s

/-- Whether an entry of a translation cache serves an access (R358): a write needs D. -/
def TlbEntry.hit (e : TlbEntry) (vf va : Nat) (need : Need) : Bool :=
  e.vf = vf && e.page = va / 2 ^ lvlShift e.lvl && if need = .rd then e.rd else e.wr && e.dirty

/-- A core's cache takes the translation of a page, in the place of one it had of it; it holds 4,096 entries, and the oldest goes first
(R358: replacement changes only time). -/
def State.tlbFill (s : State) (core : Option Nat) (x : TlbEntry) : State :=
  match core with
  | none => s
  | some n => s.upCore n fun h =>
    let l := h.tlb.filter (fun y => !(y.vf = x.vf && y.lvl = x.lvl && y.page = x.page)) ++ [x]
    { h with tlb := l.drop (l.length - 4096) }

/-- Translate an address for a need: from the core's cache (R358), or by a walk (R357): the physical address and the key index, AC and D
set; or none. -/
def State.translate (s : State) (core : Option Nat) (vf va : Nat) (need : Need) : State × Option (Nat × Nat) :=
  match core.bind fun n => (s.core n).tlb.find? fun e => e.hit vf va need with
  | some e => (s, some (e.base + va % 2 ^ lvlShift e.lvl, if e.ksel then 4096 else vf))
  | none =>
    let s := s.walkTouch va 4 (s.vf vf).root
    match s.walk vf va with
    | .miss bad lvl table =>
      let p := entryPa table lvl va
      let s := if s.poisonAt p 8 then s.chargeUncorr p else s
      ((if bad then s.logPf (.event .pteMalformed vf 0 (BitVec.ofNat 64 va)) else s), none)
    | .leaf p e lvl =>
      let wr := need ≠ .rd
      if (!wr && !bitN e 2) || (wr && !bitN e 3) then (s, none)
      else
        let e' := e ||| 0x10 ||| (if wr then 0x20 else 0)
        let s := if e' = e then s else { ({ s with netBad := false }.homeStore 0 4096 none 0 p (natBytes e'.toNat 8)).1 with netBad := s.netBad }
        let x : TlbEntry :=
          { vf := vf, lvl := lvl, page := va / 2 ^ lvlShift lvl, base := bitsN e 51 8 * 256, ksel := bitN e 6, rd := bitN e 2, wr := bitN e 3,
            dirty := bitN e' 5 }
        (s.tlbFill core x, some (x.base + va % 2 ^ lvlShift lvl, if x.ksel then 4096 else vf))

/-- Translations of a function's pages that meet [lo, lo + n) leave every cache (R314). -/
def State.dropTlb (s : State) (vf lo n : Nat) : State :=
  let meets (e : TlbEntry) : Bool := e.vf = vf && decide (e.page * 2 ^ lvlShift e.lvl < lo + n) && decide (lo < (e.page + 1) * 2 ^ lvlShift e.lvl)
  { s with cores := s.cores.map fun h => { h with tlb := h.tlb.filter fun e => !meets e } }

/-- Steps 3 and 4 of R144 for an agent of a function, one of a core if one is given: the physical address and key index, or the cause. -/
def State.resolve (s : State) (core : Option Nat) (vf agent : Nat) (need : Need) (va : Word) : State × Except Cause (Nat × Nat) :=
  match s.translate core vf va.toNat need with
  | (s, none) => (s, .error { code := causeXlateFault, addr := va, wr := need ≠ .rd })
  | (s, some (pa, key)) =>
    if s.targetPass vf agent key need pa then (s, .ok (pa, key))
    else (s.logDenied vf agent key need pa, .error (mkCause causeAccessDenied va))

/-- The four steps of R144 for an access of `n` bytes by a sequencer of a core. -/
def State.checkVa (s : State) (core : Option Nat) (vf : Nat) (need : Need) (va : Word) (n : Nat) : State × Except Cause (Nat × Nat) :=
  if bitsN va 63 56 ≠ 0 then (s, .error (mkCause causeAddrRange va))
  else if va.toNat % n ≠ 0 then (s, .error (mkCause causeMisaligned va))
  else s.resolve core vf agCore need va

/-! ## Stores and loads of a core (R287, R293) -/

/-- The L2 class of a function's lines: its sleeve's number, or 0 (R361). -/
def State.classOf (s : State) (vf : Nat) : Nat := (s.vf vf).sleeve.getD 0

/-- The die of a core. -/
def dieOf (core : Nat) : Nat := core / 16

/-- A store of a core's agent performs at CORE scope (R287). -/
def State.coreStore (s : State) (core : Nat) (st : CStore) : State := s.upCore core fun k => { k with stores := k.stores ++ [st] }

/-- Whether two byte ranges overlap. -/
def overlaps (a n b m : Nat) : Bool := decide (a < b + m) && decide (b < a + n)

/-- Whether two byte ranges touch one 128-byte sector (R288). -/
def sameSector (a n b m : Nat) : Bool :=
  n ≠ 0 && m ≠ 0 && decide (a / 128 ≤ (b + m - 1) / 128) && decide (b / 128 ≤ (a + n - 1) / 128)

/-- One store of a core performs at its home: an uncorrectable error is reported in its context's frame (R145). -/
def State.storeHome (s : State) (core : Nat) (e : CStore) : State :=
  let vf := (s.ctx e.ctx).vf
  let bad := looseFault (if isDevice e.pa then s.chargeUncorr e.pa else s) e.ctx
    (match e.ag with | some st => st.code | none => 7) (mkCause causeMemUncorr e.va)
  match s.homeStore (s.classOf vf) e.key (some (dieOf core)) vf e.pa e.bytes with
  | (s, false) => s
  | (_, true) => bad

/-- The stores of a list that must reach home together with those a test selects: a store that a later selected one overlaps
goes first, so coherence order is kept. -/
def flushSet (sel : CStore → Bool) : List CStore → List CStore × List CStore
  | [] => ([], [])
  | e :: t =>
    let (out, rest) := flushSet sel t
    if sel e || out.any fun o => overlaps e.pa e.bytes.length o.pa o.bytes.length then (e :: out, rest) else (out, e :: rest)

/-- Make the selected stores of a core perform at their homes, in the order the core made them. -/
def State.flush (s : State) (core : Nat) (sel : CStore → Bool) : State :=
  let (out, rest) := flushSet sel (s.core core).stores
  out.foldl (fun s e => s.storeHome core e) (s.upCore core fun k => { k with stores := rest })

/-- Whether a store has a byte in a line. -/
def CStore.inLine (e : CStore) (line : Nat) : Bool := decide (e.pa / 1024 ≤ line) && decide (line ≤ (e.pa + e.bytes.length - 1) / 1024)

/-- Whether a core's list holds a line pinned for context `c`. -/
def State.pinnedBy (s : State) (core c line : Nat) : Bool := (s.core core).pins.any fun p => p.line = line && p.ctx = c

/-- Whether a queue holds a refused request for a line (R296). -/
def waitingFor (line : Nat) (q : List QEntry) : Bool := q.any fun e => e.refused && e.pa / 1024 = line

/-- Who repeats a refused request (R295, R296): a sequencer by this number, an engine or copy of a core by the core's, all else by 128. -/
def seqAsker (c : Nat) (st : Stream) : Nat := 256 + 4 * c + st.code

/-- The agents outside a core that still retry for a line: sequencers, and others that the core has refused (R295, R296). -/
def State.askers (s : State) (core line : Nat) : List Nat :=
  (((s.core core).refused.filter fun r => r.1 = line).map (·.2)) ++
    (List.range s.ctxs.length).flatMap fun c =>
      let k := s.ctx c
      if k.core = some core then []
      else ([Stream.x, .l, .c, .s].filter fun st => waitingFor line (k.seq st).loadQ || waitingFor line (k.seq st).storeQ).map (seqAsker c)

/-- Pins end: a line with requests still retrying is not pinned again until one is served (R296). -/
def State.endPins (s : State) (core : Nat) (sel : Pin → Bool) : State :=
  let gone := (s.core core).pins.filter sel
  let keep := (gone.map fun p => (p.line, s.askers core p.line)).filter fun e => e.2 ≠ []
  s.upCore core fun k =>
    { k with pins := k.pins.filter fun p => !sel p, noRepin := k.noRepin ++ keep,
             refused := k.refused.filter fun r => gone.all fun p => p.line ≠ r.1 }

/-- Whether a line may not be pinned yet (R296). -/
def State.noPin (s : State) (line : Nat) : Bool := s.cores.toList.any fun h => h.noRepin.any fun e => e.1 = line

/-- A request of an agent for a line was served: if it was one of those refused, the line may be pinned again (R296). -/
def State.served (s : State) (asker line : Nat) : State :=
  if s.cores.toList.all fun h => h.noRepin = [] then s
  else { s with cores := s.cores.map fun h => { h with noRepin := h.noRepin.filter fun e => !(e.1 = line && e.2.contains asker) } }

/-- Whether a core other than `core` has pinned the line of an address (R295). -/
def State.pinnedElsewhere (s : State) (core pa : Nat) : Bool :=
  (List.range 128).any fun n => n ≠ core && (s.core n).pins.any fun p => p.line = pa / 1024

/-- The cores other than `core` that have pinned a line note that an agent asks for it (R295, R296). -/
def State.notePin (s : State) (core asker pa : Nat) : State :=
  let f (n : Nat) (h : Core) : Core :=
    if n ≠ core && h.pins.any (fun p => p.line = pa / 1024) && !h.refused.contains (pa / 1024, asker) then
      { h with refused := h.refused ++ [(pa / 1024, asker)] }
    else h
  { s with cores := Vector.ofFn fun i : Fin 128 => f i.val s.cores[i] }

/-- The outcome of an attempt that has to wait: none when it left no new trace, neither a fault record nor a note at a pinning core nor a request
to another module. -/
def State.waitOr (s s' : State) : Option State :=
  let notes (s : State) : List (List (Nat × Nat)) := s.cores.toList.map (·.refused)
  if s'.nextFault = s.nextFault && s'.nextReq = s.nextReq && notes s' = notes s then none else some s'

/-- The pins that end with some of a core's pins as at their timeout: where a store of a pinning context lies in a line that another context
has pinned, that pin ends with it, since the store performs at MODULE scope first (R296; log 25). -/
def State.pinsWith (s : State) (core : Nat) : Nat → List Pin → List Pin
  | 0, ps => ps
  | n + 1, ps =>
    let h := s.core core
    let out := (flushSet (fun x => ps.any fun p => p.ctx = x.ctx || x.inLine p.line) h.stores).1
    let more := h.pins.filter fun q => !ps.contains q && out.any fun x => x.inLine q.line
    if more = [] then ps else s.pinsWith core n (ps ++ more)

/-- Whether no store that those pins carry home has to wait for a channel in a hold (R440). -/
def State.expireOpen (s : State) (core : Nat) (sel : Pin → Bool) : Bool :=
  s.holds = [] ||
    let ps := s.pinsWith core 16 ((s.core core).pins.filter sel)
    (flushSet (fun x => ps.any fun p => p.ctx = x.ctx || x.inLine p.line) (s.core core).stores).1.all fun x =>
      !s.channelHeld x.key x.pa x.bytes.length true

/-- Some pins of a core end as at their timeout: every store of their contexts performs at MODULE scope first (R296). -/
def State.expirePins (s : State) (core : Nat) (sel : Pin → Bool) : State :=
  let ps := s.pinsWith core 16 ((s.core core).pins.filter sel)
  if ps = [] then s
  else (s.flush core fun x => ps.any fun p => p.ctx = x.ctx || x.inLine p.line).endPins core fun q => ps.contains q

/-- The stores that a release by stream `st` of context `c` carries (R289, R292, R296): its own, those it has read, and those to the
context's pinned lines. -/
def State.carried (s : State) (core c : Nat) (st : Stream) (x : CStore) : Bool :=
  (x.ctx = c && x.ag = some st) || x.seen.contains (c, st) || (s.core core).pins.any fun p => p.ctx = c && x.inLine p.line

/-- Whether stores that a test selects can reach home now: none lies in a line that the core has pinned (R287, R295), but for lines whose
pins `ends` ends, and none has to wait for a channel in a hold (R440). -/
def State.homeOpen (s : State) (core : Nat) (sel : CStore → Bool) (ends : Pin → Bool) : Bool :=
  (flushSet sel (s.core core).stores).1.all fun x =>
    ((s.core core).pins.all fun p => ends p || !x.inLine p.line) && !s.channelHeld x.key x.pa x.bytes.length true

/-- A stream waits until its earlier stores have performed at effective scope `e` (R130, R173, R259), which ends no pin (R296): whether they
can now, and what they leave as they do. -/
def State.ownHome (s : State) (c : Nat) (st : Stream) (e : Nat) : Bool :=
  e = 0 || s.homeOpen (s.ctx c).coreNo (fun x => x.ctx = c && x.ag = some st) fun _ => false
def State.sendHome (s : State) (c : Nat) (st : Stream) (e : Nat) : State :=
  if e = 0 then s else s.flush (s.ctx c).coreNo fun x => x.ctx = c && x.ag = some st

/-- Whether a pin ends because a release carries an observed store to its line (R292). -/
def State.observedPin (s : State) (core c : Nat) (st : Stream) (p : Pin) : Bool :=
  (s.core core).stores.any fun x => x.seen.contains (c, st) && x.inLine p.line

/-- Whether a release at effective scope `e` can perform now (R287, R289, R292): its stream's stores to peer space are acknowledged. -/
def State.releaseReady (s : State) (c : Nat) (st : Stream) (e : Nat) : Bool :=
  let core := (s.ctx c).coreNo
  e = 0 || !s.unacked (fun r => r.who = some (c, st.code)) && s.homeOpen core (s.carried core c st) fun p => p.ctx = c || s.observedPin core c st p

/-- A release by stream `st` of context `c` at effective scope `e` (R289, R292, R296): at DIE or wider the stores it carries reach home, and
the context's pins end, with those of lines that hold a store it has read. -/
def State.release (s : State) (c : Nat) (st : Stream) (e : Nat) : State :=
  if e = 0 then s
  else
    let core := (s.ctx c).coreNo
    let s := s.expirePins core fun p => p.ctx ≠ c && s.observedPin core c st p
    (s.flush core (s.carried core c st)).endPins core fun p => p.ctx = c

/-- The implicit MODULE release of a whole context (R296, R299): pins of other contexts on lines that hold a store of it end as at their
timeout (log 25). -/
def State.releaseAll (s : State) (c : Nat) : State :=
  let core := (s.ctx c).coreNo
  let mine (x : CStore) : Bool := x.ctx = c || (s.core core).pins.any fun p => p.ctx = c && x.inLine p.line
  let s := s.expirePins core fun p => p.ctx ≠ c && (flushSet mine (s.core core).stores).1.any fun x => x.inLine p.line
  (s.flush core mine).endPins core fun p => p.ctx = c

/-- An acquire at effective scope MODULE or wider drops the die's copies of the context's function (R297). -/
def State.acquire (s : State) (c e : Nat) : State :=
  if 3 ≤ e then
    let d := dieOf (s.ctx c).coreNo
    { s with rdc := s.rdc.filter fun r => !(r.die = d && r.vf = (s.ctx c).vf) }
  else s

/-- The copy that a die holds of a line leaves it, as a line may at any time (R297): an atomic works at the home or in the pinned copy,
never in this one (R294, R295). -/
def State.dropCopy (s : State) (die line : Nat) : State :=
  { s with rdc := s.rdc.filter fun r => !(r.die = die && r.line = line) }

/-- Pin a line for a context (R295, R296): a line already pinned keeps its timer; a seventeenth pin first ends the oldest; a line whose last pin
left requests that retry stays unpinned until one is served. The line comes to the core with every store that other cores have sent it, and a copy that the die holds of it is no longer used. -/
def State.pinLine (s : State) (c pa : Nat) : State :=
  let core := (s.ctx c).coreNo
  let line := pa / 1024
  let k := s.core core
  if (k.pins.any fun p => p.line = line) || !isDevice pa || s.noPin line then s
  else
    let s := (List.range 128).foldl (fun s n =>
      if n ≠ core && ((s.core n).stores.any fun x => x.inLine line) then s.flush n fun x => x.inLine line else s) s
    let s := match k.pins with
      | p :: _ => if 16 ≤ k.pins.length then s.expirePins core (· = p) else s
      | [] => s
    (s.dropCopy (dieOf core) line).upCore core fun k => { k with pins := k.pins ++ [{ line := line, ctx := c, since := s.tide }] }

/-- An access of firmware to lines that a core has pinned, or of a channel in a hold, waits (R295, R440): the lines are noted, and what tried
the access is not done (log 25). -/
def State.pinFor (s : State) (key pa n : Nat) (store : Bool) : State :=
  let lines := (List.range ((pa + n - 1) / 1024 + 1 - pa / 1024)).map fun i => pa / 1024 + i
  { s with fwWaits := s.fwWaits ++ lines.filter fun l => s.pinnedElsewhere 128 (l * 1024) || s.channelHeld key pa n store }

/-- One byte as an agent of a core reads it over `base`: the latest of the core's own stores wins. -/
def overlayByte (stores : List CStore) (a : Nat) (base : Byte) : Byte :=
  stores.foldl (fun b e => if decide (e.pa ≤ a) && decide (a < e.pa + e.bytes.length) then e.bytes.getD (a - e.pa) 0 else b) base

/-- A die's remote-data cache takes a sector of a line for a function (R297, R354): beside the sectors it has, or in a new line; it holds
32,768 lines, and the oldest goes first. -/
def State.rdcFill (s : State) (die vf x : Nat) (data : Sparse Byte) : State :=
  let line := x / 8
  let mine (r : RdcLine) : Bool := r.die = die && r.line = line && r.vf = vf
  if s.rdc.any mine then
    { s with rdc := s.rdc.map fun r => if mine r then { r with valid := r.valid ++ [x], data := ssets 0 r.data data } else r }
  else
    let full := 32768 ≤ (s.rdc.filter fun r => r.die = die).length
    let out := if full then (s.rdc.findIdx? fun r => r.die = die).map s.rdc.eraseIdx |>.getD s.rdc else s.rdc
    { s with rdc := out ++ [{ die := die, line := line, vf := vf, valid := [x], data := ssets (0 : Byte) [] data }] }

/-- A read at die `d` for a function (R293, R297): the bytes, or that an uncorrectable sector was met. `far` says that the die's remote-data
cache serves it: present sectors from its copy, all else from the home, with a fill. -/
def State.dieLoad (s : State) (d vf : Nat) (far : Bool) (key pa n : Nat) : State × List Byte × Bool :=
  let cls := s.classOf vf
  let secs := sectorsOf pa n
  let touch (s : State) : State := secs.foldl (fun s x => s.l2touch cls key (x * 128) false) (s.holdWait key pa n false)
  let copy (x : Nat) : Option RdcLine := s.rdc.find? fun r => r.die = d && r.line = x / 8 && r.vf = vf && r.valid.contains x
  if isPeer pa then s.peerLoad vf pa n
  else if far then
    if secs.all fun x => (copy x).isSome then
      (s, (List.range n).map fun i => match copy (sectorOf (pa + i)) with
        | some r => sget 0 r.data (pa + i)
        | none => 0, false)
    else
      let s := touch s
      if s.uncorrAt pa n then (s.chargeUncorr pa, zeros n, true)
      else
        let fill (s : State) (x : Nat) : State :=
          if (copy x).isSome then s else s.rdcFill d vf x (keyed (x * 128) (s.homeBytes key (x * 128) 128))
        (secs.foldl fill s, (List.range n).map fun i => match copy (sectorOf (pa + i)) with
          | some r => sget 0 r.data (pa + i)
          | none => s.homeByte key (pa + i), false)
  else
    let s := if isDevice pa then touch s else s
    let bad := isDevice pa && s.uncorrAt pa n
    (if bad then s.chargeUncorr pa else s, s.homeBytes key pa n, bad)

/-- Whether a die's remote-data cache serves reads of an address for a context (R297, R298). -/
def Ctx.usesRdc (k : Ctx) (d pa : Nat) : Bool := isDevice pa && homeDie pa ≠ d && 3 ≤ k.slimit

/-- A load by an agent of context `c` performs (R293, R297, R298). `st` names the stream, whose releases then cover the stores it read
(R292). A line that the core has pinned is read from the pinned copy (R295). -/
def State.agentLoad (s : State) (c : Nat) (st : Option Stream) (key pa n : Nat) : State × List Byte × Bool :=
  let k := s.ctx c
  let core := k.coreNo
  let mine := (s.core core).stores
  let far := k.usesRdc (dieOf core) pa && (s.core core).pins.all fun p => p.line ≠ pa / 1024
  let (s, base, bad) := s.dieLoad (dieOf core) k.vf far key pa n
  let bs := (List.range n).map fun i => overlayByte mine (pa + i) (base.getD i 0)
  let s := match st with
    | none => s
    | some q =>
      let note (e : CStore) : CStore :=
        if overlaps e.pa e.bytes.length pa n && !(e.ctx = c && e.ag = some q) && !e.seen.contains (c, q) then
          { e with seen := e.seen ++ [(c, q)] }
        else e
      s.upCore core fun h => { h with stores := h.stores.map note }
  (s.served (match st with | some q => seqAsker c q | none => core) (pa / 1024), bs, bad)

/-- A store by an agent of context `c` performs at CORE scope: stores to host memory perform at the host port at once, and those to peer memory
once a quay has accepted them (R287); one whose quays are all down is reported as any store that fails (R145, R431). -/
def State.agentStore (s : State) (c : Nat) (st : Option Stream) (key pa : Nat) (va : Word) (bs : List Byte) : State :=
  let source := match st with | some st => st.code | none => 7
  if isHost pa then (s.homeStore 0 key none (s.ctx c).vf pa bs).1
  else if isPeer pa then
    (if s.pathDown (s.ctx c).vf pa then looseFault s c source (mkCause causeMemUncorr (BitVec.ofNat 64 pa))
     else s.peerStore (s.ctx c).vf pa bs (some (c, source)))
  else (s.coreStore (s.ctx c).coreNo { ctx := c, ag := st, seen := [], pa := pa, bytes := bs, key := key, va := va }).served
    (match st with | some q => seqAsker c q | none => (s.ctx c).coreNo) (pa / 1024)

/-! ## Firmware accesses for a function -/

/-- Firmware reads `n` bytes of a function's space, page by page in 128-byte pieces. -/
def State.fwRead (s : State) (vf : Nat) (va : Word) : Nat → Nat → State × Except Cause (List Byte)
  | 0, _ => (s, .ok [])
  | fuel + 1, n =>
    if n = 0 then (s, .ok [])
    else
      let m := min n (128 - va.toNat % 128)
      match (if bitsN va 63 56 ≠ 0 then (s, .error (mkCause causeAddrRange va)) else s.resolve none vf agFw .rd va) with
      | (s, .error e) => (s, .error e)
      | (s, .ok (pa, key)) =>
        let s := (s.pinFor key pa m false).served 128 (pa / 1024)
        let (s, bs, bad) := if isPeer pa then s.peerLoad vf pa m
          else if s.uncorrAt pa m then (s.chargeUncorr pa, zeros m, true)
          else (if isDevice pa then s.l2touch 0 key pa false else s, s.homeBytes key pa m, false)
        if bad then (s, .error (mkCause causeMemUncorr va))
        else
          match s.fwRead vf (va + BitVec.ofNat 64 m) fuel (n - m) with
          | (s, .ok t) => (s, .ok (bs ++ t))
          | (s, .error e) => (s, .error e)

/-- Firmware writes bytes of a function's space at SYSTEM scope, in 128-byte pieces. -/
def State.fwWrite (s : State) (vf : Nat) (va : Word) : Nat → List Byte → State × Except Cause Unit
  | 0, _ => (s, .ok ())
  | fuel + 1, bs =>
    if bs = [] then (s, .ok ())
    else
      let m := min bs.length (128 - va.toNat % 128)
      match (if bitsN va 63 56 ≠ 0 then (s, Except.error (mkCause causeAddrRange va)) else s.resolve none vf agFw .wr va) with
      | (s, .error e) => (s, .error e)
      | (s, .ok (pa, key)) =>
        match ((s.pinFor key pa m true).served 128 (pa / 1024)).homeStore 0 key none vf pa (bs.take m) with
        | (s, true) => (if isDevice pa then s.chargeUncorr pa else s, .error (mkCause causeMemUncorr va))
        | (s, false) => s.fwWrite vf (va + BitVec.ofNat 64 m) fuel (bs.drop m)

/-! ## Attempts that wait (R287, R295, R440) -/

/-- Lines that firmware found pinned: the cores that have pinned them note the request (R295, R296). -/
def State.asked (s : State) (lines : List Nat) : State := lines.foldl (fun s l => s.notePin 128 128 (l * 1024)) s

/-- Whether what an event did stands: it needed no pinned line (R295), and no response of another module that has not come (R287). -/
def State.stands (t : State) : Bool := t.fwWaits = [] && t.peerWants = []

/-- What an event that has to wait leaves: it asked for the lines and sent the requests, since the access is repeated (R287, R295; log 25). -/
def State.undone (s t : State) : State := (s.asked t.fwWaits).askPeers t.peerWants

/-- What an event leaves done: all that it did, or only that it asked. -/
def State.keep (s t : State) : State := if t.stands then t else s.undone t

end Sys2Proof.Machine
end

