-- ==== Sys2Proof/Machine/Flags.lean ====
section
/-! DEFINITION. Flags and rounding: VSTAT's bits (R208), the number formats (R39 to R43), RoundToFormat and its overflow rules
(R50 to R54), flush to zero (R55), block scales (R44 to R46) and the block conversion of the down-converter (R56). -/

namespace Sys2Proof.Machine

/-! ## VSTAT bits (R208) -/

def flagIV : Word := 0x10
def flagDZ : Word := 0x08
def flagOF : Word := 0x04
def flagUF : Word := 0x02
def flagIX : Word := 0x01

/-! ## Formats (R39, R40) -/

/-- An element format by code (R39). -/
def fmtFP32 : Nat := 0
def fmtBF16 : Nat := 1
def fmtFP16 : Nat := 2
def fmtE4M3 : Nat := 3
def fmtE5M2 : Nat := 4
def fmtE2M3 : Nat := 5
def fmtE2M1 : Nat := 6
def fmtINT8 : Nat := 7
def fmtINT4 : Nat := 8
def fmtINT16 : Nat := 9
def fmtINT32 : Nat := 10
def fmtINT64 : Nat := 11

/-- Width of a format in bits (R39). -/
def fmtWidth : Nat → Nat
  | 0 => 32
  | 1 => 16
  | 2 => 16
  | 3 => 8
  | 4 => 8
  | 5 => 6
  | 6 => 4
  | 7 => 8
  | 8 => 4
  | 9 => 16
  | 10 => 32
  | 11 => 64
  | _ => 8

/-- Whether a code names a floating-point format. -/
def isFloat (f : Nat) : Bool := f ≤ 6

/-- Whether a code names a vector register format (R203). -/
def isVecFmt (f : Nat) : Bool := f = 0 || f = 1 || f = 2 || f = 7 || f = 9 || f = 10

/-- Element bytes of a vector format (R203), and its ESIZE code. -/
def vecSize (f : Nat) : Nat := fmtWidth f / 8
def esizeOf (f : Nat) : Nat := match vecSize f with | 1 => 0 | 2 => 1 | _ => 2

/-- Fraction width, bias, largest exponent and largest significand of a floating-point format (R40). -/
structure FloatFmt where
  m : Nat
  bias : Int
  emax : Int
  sigmax : Nat
  hasInf : Bool
deriving DecidableEq, Repr

def floatFmt : Nat → FloatFmt
  | 0 => { m := 23, bias := 127, emax := 127, sigmax := 2 ^ 24 - 1, hasInf := true }
  | 1 => { m := 7, bias := 127, emax := 127, sigmax := 2 ^ 8 - 1, hasInf := true }
  | 2 => { m := 10, bias := 15, emax := 15, sigmax := 2 ^ 11 - 1, hasInf := true }
  | 3 => { m := 3, bias := 7, emax := 8, sigmax := 14, hasInf := false }
  | 4 => { m := 2, bias := 15, emax := 15, sigmax := 7, hasInf := true }
  | 5 => { m := 3, bias := 1, emax := 2, sigmax := 15, hasInf := false }
  | _ => { m := 1, bias := 1, emax := 2, sigmax := 3, hasInf := false }

/-- emin = 1 − bias. -/
def FloatFmt.emin (f : FloatFmt) : Int := 1 - f.bias

/-! ## Exact values -/

/-- A finite value from a signed significand; a zero significand gives a zero of the sign named. -/
def Num.ofSig (neg : Bool) (m : Int) (e : Int) : Num := if m = 0 then .zero neg else .fin m e

def Num.isNan : Num → Bool
  | .nan _ => true
  | _ => false

def Num.sNan : Num → Bool
  | .nan b => b
  | _ => false

def Num.neg? : Num → Bool
  | .nan _ => false
  | .inf b => b
  | .zero b => b
  | .fin m _ => decide (m < 0)

def Num.negate : Num → Num
  | .nan b => .nan b
  | .inf b => .inf (!b)
  | .zero b => .zero (!b)
  | .fin m e => .fin (-m) e

/-- An integer shifted left by a natural number. -/
def ishl (m : Int) (k : Nat) : Int := m * (2 ^ k : Nat)

/-- Two finite values brought to one exponent. -/
def alignTwo (m1 e1 m2 e2 : Int) : Int × Int × Int :=
  if e1 ≤ e2 then (m1, ishl m2 (e2 - e1).toNat, e1) else (ishl m1 (e1 - e2).toNat, m2, e2)

/-- floor(log2(|m × 2^e|)) for m not 0. -/
def floorLog2 (m e : Int) : Int := Int.ofNat (Nat.log2 m.natAbs) + e

/-- The integer m / 2^k rounded (R50), with whether it is exact. -/
def roundShift (rm : Nat) (m : Int) (k : Nat) : Int × Bool :=
  let d : Int := (2 ^ k : Nat)
  let q := m / d
  let r := m % d
  if r = 0 then (q, true)
  else match rm with
    | 0 => (if 2 * r < d then q else if d < 2 * r then q + 1 else if q % 2 = 0 then q else q + 1, false)
    | 1 => (if m < 0 then q + 1 else q, false)
    | 2 => (q + 1, false)
    | _ => (q, false)

/-- RoundInt of m × 2^e (R50). -/
def roundInt (rm : Nat) (m e : Int) : Int × Bool :=
  if 0 ≤ e then (ishl m e.toNat, true) else roundShift rm m (-e).toNat

/-! ## Decoding (R40, R41, R43) -/

/-- The value of an element's bits in a floating-point format. -/
def decodeFloat (f bits : Nat) : Num :=
  let F := floatFmt f
  let w := fmtWidth f
  let eb := w - 1 - F.m
  let s := bits / 2 ^ (w - 1) % 2 = 1
  let E := bits / 2 ^ F.m % 2 ^ eb
  let M := bits % 2 ^ F.m
  let sg (x : Int) : Int := if s then -x else x
  let top := E = 2 ^ eb - 1
  if f ≤ 2 && top then (if M = 0 then .inf s else .nan (M < 2 ^ (F.m - 1)))
  else if f = 4 && top then (if M = 0 then .inf s else .nan (M = 1))
  else if f = 3 && top && M = 7 then .nan false
  else if E = 0 then Num.ofSig s (sg M) (F.emin - F.m)
  else .fin (sg (2 ^ F.m + M : Nat)) (E - F.bias - F.m)

/-- Two's complement value of the low `w` bits. -/
def sInt (w bits : Nat) : Int := let b := bits % 2 ^ w; if b < 2 ^ (w - 1) then b else (b : Int) - (2 ^ w : Nat)

/-- The low `w` bits of an integer. -/
def intBits (w : Nat) (v : Int) : Nat := (v % (2 ^ w : Nat)).toNat

/-- The value of an element's bits in any format. -/
def decodeNum (f bits : Nat) : Num :=
  if isFloat f then decodeFloat f bits else Num.ofSig false (sInt (fmtWidth f) bits) 0

/-- The canonical NaN of a format (R41). -/
def canonNan : Nat → Nat
  | 0 => 0x7FC00000
  | 1 => 0x7FC0
  | 2 => 0x7E00
  | 3 => 0x7F
  | 4 => 0x7E
  | _ => 0

/-- The encoding of an infinity. -/
def infBits (f : Nat) (neg : Bool) : Nat :=
  let F := floatFmt f
  let w := fmtWidth f
  (2 ^ (w - 1 - F.m) - 1) * 2 ^ F.m + b2n neg * 2 ^ (w - 1)

/-- The encoding of a zero. -/
def zeroBits (f : Nat) (neg : Bool) : Nat := b2n neg * 2 ^ (fmtWidth f - 1)

/-- The encoding of the largest finite magnitude. -/
def maxBits (f : Nat) (neg : Bool) : Nat :=
  let F := floatFmt f
  (F.emax + F.bias).toNat * 2 ^ F.m + (F.sigmax - 2 ^ F.m) + b2n neg * 2 ^ (fmtWidth f - 1)

/-! ## Rounding (R51 to R55) -/

/-- What a conversion gives: bits, the block NaN of R56, or the trap of policy 0b11. -/
inductive Conv
  | bits (b : Nat)
  | blockNan
  | trap
deriving DecidableEq, Repr

/-- Overflow of a value of a given sign (R52, R53). -/
def overflow (f rm pol : Nat) (neg : Bool) : Conv × Word :=
  if f ≤ 2 then
    let big := match rm with | 0 => true | 1 => false | 2 => !neg | _ => neg
    (.bits (if big then infBits f neg else maxBits f neg), flagOF ||| flagIX)
  else match pol with
    | 0 => (.bits (maxBits f neg), flagOF ||| flagIX)
    | 1 => (match f with | 3 => .bits 0x7F | 4 => .bits (infBits 4 neg) | _ => .blockNan, flagOF ||| flagIX)
    | 2 => (match f with | 3 => .bits 0x7F | 4 => .bits 0x7E | _ => .blockNan, flagOF ||| flagIX)
    | _ => (.trap, 0)

/-- RoundToFormat (R51) into a floating-point format; `ftz` is the flush of R55. -/
def roundTo (x : Num) (f rm pol : Nat) (ftz : Bool) : Conv × Word :=
  let F := floatFmt f
  match x with
  | .nan _ => (.bits (canonNan f), 0)
  | .inf n => if F.hasInf then (.bits (infBits f n), 0) else overflow f rm pol n
  | .zero n => (.bits (zeroBits f n), 0)
  | .fin m e =>
    let neg := decide (m < 0)
    let lg := floorLog2 m e
    let ee := max lg F.emin
    -- x in units of 2^(ee − m)
    let (y, exact) := roundInt rm m (e - (ee - F.m))
    let a := y.natAbs
    let (a, ee) := if a = 2 ^ (F.m + 1) then (2 ^ F.m, ee + 1) else (a, ee)
    if ee > F.emax || (ee = F.emax && F.sigmax < a) then overflow f rm pol neg
    else
      let sub := decide (lg < F.emin)
      let fl : Word := (if exact then 0 else flagIX) ||| (if !exact && sub then flagUF else 0)
      if a = 0 then (.bits (zeroBits f neg), fl)
      else if a < 2 ^ F.m then
        if ftz then (.bits (zeroBits f neg), fl ||| flagUF ||| flagIX)
        else (.bits (a + b2n neg * 2 ^ (fmtWidth f - 1)), fl)
      else (.bits ((ee + F.bias).toNat * 2 ^ F.m + (a - 2 ^ F.m) + b2n neg * 2 ^ (fmtWidth f - 1)), fl)

/-- Conversion to an integer format (R54); `scaled` names a block destination. -/
def roundToInt (x : Num) (f rm pol : Nat) (scaled : Bool) : Conv × Word :=
  let w := fmtWidth f
  let hi : Int := (2 ^ (w - 1) : Nat) - 1
  let lo : Int := -(2 ^ (w - 1) : Nat)
  let overAs (neg : Bool) : Conv × Word :=
    if pol = 3 then (.trap, 0)
    else if scaled && pol ≠ 0 then (.blockNan, flagIV)
    else (.bits (intBits w (if neg then lo else hi)), flagIV)
  match x with
  | .nan _ => (.bits 0, flagIV)
  | .inf n => overAs n
  | .zero _ => (.bits 0, 0)
  | .fin m e =>
    let (y, exact) := roundInt rm m e
    if y < lo || hi < y then overAs (decide (m < 0)) else (.bits (intBits w y), if exact then 0 else flagIX)

/-- Conversion of an exact value to any format. -/
def convert (x : Num) (f rm pol : Nat) (scaled ftz : Bool) : Conv × Word :=
  if isFloat f then roundTo x f rm pol ftz else roundToInt x f rm pol scaled

/-- The bits of a conversion that cannot trap nor give a block NaN. -/
def Conv.val : Conv → Nat
  | .bits b => b
  | _ => 0

/-- A subnormal operand is read as a zero of its sign under FTZ (R55). -/
def readFtz (ftz : Bool) (f bits : Nat) : Num :=
  let x := decodeNum f bits
  if ftz && f ≤ 2 then
    match x with
    | .fin m e => if floorLog2 m e < (floatFmt f).emin then .zero (decide (m < 0)) else x
    | _ => x
  else x

/-! ## Block scales (R44, R46) -/

/-- BlockValue: the value of an element under a scale byte. -/
def blockValue (v : Nat) (x : Num) : Num :=
  if v = 0xFF then .nan false
  else match x with
    | .fin m e => .fin m (e + v - 127)
    | y => y

/-! ## Exact arithmetic -/

/-- The exact product, with the invalid case 0 × Inf. -/
def mulNum (a b : Num) : Num × Bool :=
  match a, b with
  | .nan s, .nan t => (.nan (s || t), false)
  | .nan s, _ => (.nan s, false)
  | _, .nan s => (.nan s, false)
  | .inf s, .zero _ => (.nan s, true)
  | .zero _, .inf s => (.nan s, true)
  | .inf s, y => (.inf (s != y.neg?), false)
  | y, .inf s => (.inf (s != y.neg?), false)
  | .zero s, y => (.zero (s != y.neg?), false)
  | y, .zero s => (.zero (s != y.neg?), false)
  | .fin m e, .fin n g => (.fin (m * n) (e + g), false)

/-- The exact sum of two addends that are not NaN; opposite infinities are invalid; a zero sum takes the sign R209 gives. -/
def addNum (rm : Nat) (a b : Num) : Num × Bool :=
  match a, b with
  | .nan s, _ => (.nan s, false)
  | _, .nan s => (.nan s, false)
  | .inf s, .inf t => if s = t then (.inf s, false) else (.nan false, true)
  | .inf s, _ => (.inf s, false)
  | _, .inf s => (.inf s, false)
  | .zero s, .zero t => (.zero (if s = t then s else rm = 3), false)
  | .zero _, y => (y, false)
  | y, .zero _ => (y, false)
  | .fin m e, .fin n g =>
    let (p, q, h) := alignTwo m e n g
    if p + q = 0 then (.zero (rm = 3), false) else (.fin (p + q) h, false)

/-- Finish a floating-point operation: NaN operands, invalid operations, and the one rounding (R209). -/
def finish (f rm : Nat) (ftz : Bool) (ops : List Num) (r : Num × Bool) : Nat × Word :=
  if ops.any Num.isNan then (canonNan f, if ops.any Num.sNan then flagIV else 0)
  else if r.2 then (canonNan f, flagIV)
  else
    let (c, fl) := roundTo r.1 f rm 0 ftz
    (c.val, fl)

/-- VADD, VSUB, VMUL and VFMA of one element (R209). -/
def fAdd (f rm : Nat) (ftz : Bool) (a b : Nat) : Nat × Word :=
  let x := readFtz ftz f a
  let y := readFtz ftz f b
  finish f rm ftz [x, y] (addNum rm x y)

def fSub (f rm : Nat) (ftz : Bool) (a b : Nat) : Nat × Word :=
  let x := readFtz ftz f a
  let y := readFtz ftz f b
  finish f rm ftz [x, y] (addNum rm x y.negate)

def fMul (f rm : Nat) (ftz : Bool) (a b : Nat) : Nat × Word :=
  let x := readFtz ftz f a
  let y := readFtz ftz f b
  finish f rm ftz [x, y] (mulNum x y)

def fFma (f rm : Nat) (ftz : Bool) (a b d : Nat) : Nat × Word :=
  let x := readFtz ftz f a
  let y := readFtz ftz f b
  let z := readFtz ftz f d
  let p := mulNum x y
  let r := addNum rm p.1 z
  finish f rm ftz [x, y, z] (r.1, p.2 || r.2)

/-- Order of two values that are not NaN, −0 below +0 when `zeros` asks: less than. -/
def numLt (zeros : Bool) (a b : Num) : Bool :=
  let key : Num → Int := fun x => match x with
    | .inf true => -2
    | .inf false => 2
    | _ => 0
  match a, b with
  | .zero s, .zero t => zeros && s && !t
  | .fin m e, .fin n g => let (p, q, _) := alignTwo m e n g; decide (p < q)
  | .fin m _, .zero _ => decide (m < 0)
  | .zero _, .fin n _ => decide (0 < n)
  | x, y => decide (key x < key y)

/-- VMIN and VMAX of floating-point elements (R210): the chosen operand's encoding as it was read. -/
def fMinMax (isMax : Bool) (f : Nat) (ftz : Bool) (a b : Nat) : Nat × Word :=
  let x := readFtz ftz f a
  let y := readFtz ftz f b
  if x.isNan || y.isNan then (canonNan f, if x.sNan || y.sNan then flagIV else 0)
  else
    let enc (v : Num) (bits : Nat) : Nat := match v with | .zero n => zeroBits f n | _ => bits
    let less := numLt true x y
    ((if less != isMax then enc x a else enc y b), 0)

/-- VMIN and VMAX of integer elements (R210). -/
def iMinMax (isMax unsigned : Bool) (f a b : Nat) : Nat :=
  let less := if unsigned then decide (a < b) else decide (sInt (fmtWidth f) a < sInt (fmtWidth f) b)
  if less != isMax then a else b

/-- Saturation of a result to a signed or an unsigned range (R211). -/
def satS (w : Nat) (v : Int) : Nat :=
  intBits w (if v < -(2 ^ (w - 1) : Nat) then -(2 ^ (w - 1) : Nat) else if (2 ^ (w - 1) : Nat) - 1 < v then (2 ^ (w - 1) : Nat) - 1 else v)

def satU (w : Nat) (v : Nat) : Nat := if 2 ^ w ≤ v then 2 ^ w - 1 else v

/-! ## The down-converter (R56) -/

/-- emax of a destination format; BF16 and FP16, which R56 does not list, keep the emax of R40 (log 29). -/
def dcEmax : Nat → Int
  | 1 => 127
  | 2 => 15
  | 3 => 8
  | 4 => 15
  | 5 => 2
  | 6 => 2
  | 7 => 6
  | _ => 2

/-- The larger floor(log2) among the finite values of a block, if any is finite and not zero. -/
def blockLog (xs : List Num) : Option Int :=
  xs.foldl (fun m x => match x with
    | .fin a e => some (match m with | none => floorLog2 a e | some b => max b (floorLog2 a e))
    | _ => m) none

/-- BlockConvert: scale byte, element bits and flags, or the trap of policy 0b11. -/
def blockConvert (xs : List Num) (f : Nat) (unit : Bool) (rm pol : Nat) : Option (Nat × List Nat × Word) :=
  if xs.any Num.isNan then some (0xFF, xs.map fun _ => 0, 0)
  else
    let s : Int :=
      if unit then 0
      else match blockLog xs with
        | none => -127
        | some l => max (-127) (min 127 (l - dcEmax f))
    let out := xs.map fun x =>
      convert (match x with | .fin m e => .fin m (e - s) | y => y) f rm pol true false
    let fl := out.foldl (fun a o => a ||| o.2) (0 : Word)
    if out.any fun o => o.1 = .trap then none
    else if out.any fun o => o.1 = .blockNan then some (0xFF, xs.map fun _ => 0, fl)
    else some ((s + 127).toNat, out.map fun o => o.1.val, fl)

/-- Pack 32 element fields into the bytes of a block (R48). -/
def packBlock (f : Nat) (es : List Nat) : List Byte :=
  let w := fmtWidth f
  natBytes (es.foldr (fun e acc => e % 2 ^ w + 2 ^ w * acc) 0) (es.length * w / 8)

/-- Element `i` of packed bytes of width `w` (R48). -/
def unpackAt (w : Nat) (bytes : List Byte) (i : Nat) : Nat := leNat bytes / 2 ^ (w * i) % 2 ^ w

/-- The byte screen of R196. -/
def special (b : Byte) : Bool := b &&& 0x7C = 0x7C

end Sys2Proof.Machine
end

