-- ==== Sys2Proof/Machine/Residue.lean ====
section
/-! DEFINITION. Residue accumulation: elements, terms, exact entry, readout and rebase (R59 to R70), the exact images of R193, and
the exact and floating-point adds of the collective engine (R434). -/

namespace Sys2Proof.Machine

/-! ## Channels (R59) -/

def mod1 : Nat := 2 ^ 21 - 1
def mod2 : Nat := 2 ^ 21
def mod3 : Nat := 2 ^ 21 + 1
def modAll : Nat := 2 ^ 63 - 2 ^ 21
def countMax : Nat := 524287
def windowMax : Int := 2 ^ 43 - 1

/-- The tags (R60). -/
def tagFinite : BitVec 2 := 0
def tagNan : BitVec 2 := 1
def tagPinf : BitVec 2 := 2
def tagNinf : BitVec 2 := 3

/-- Flags of a tile that terms raise (R21). -/
structure TileFlags where
  inx : Bool
  wovf : Bool
  depth : Bool
deriving DecidableEq, Repr

def TileFlags.none' : TileFlags := { inx := false, wovf := false, depth := false }

def TileFlags.or (a b : TileFlags) : TileFlags :=
  { inx := a.inx || b.inx, wovf := a.wovf || b.wovf, depth := a.depth || b.depth }

/-- Join of tags (R63). -/
def joinTag (s t : BitVec 2) : BitVec 2 :=
  if s = tagNan || t = tagNan then tagNan
  else if (s = tagPinf && t = tagNinf) || (s = tagNinf && t = tagPinf) then tagNan
  else if s ≠ tagFinite then s else t

/-- The element a saturated term count leaves (R63). -/
def Elem.saturated : Elem := { c1 := 0, c2 := 0, c3 := 0, check := 0, tag := tagNan, count := countMax }

/-- A channel plus an integer, in the canonical range of its modulus. -/
def modAdd (c : Nat) (v : Int) (m : Nat) : Nat := (((c : Int) + v) % (m : Int)).toNat

/-- Add an exact value to the residue channels and the check. -/
def Elem.addZ (e : Elem) (v : Int) : Elem :=
  { e with
    c1 := BitVec.ofNat 21 (modAdd e.c1.toNat v mod1)
    c2 := BitVec.ofNat 21 (modAdd e.c2.toNat v mod2)
    c3 := BitVec.ofNat 22 (modAdd e.c3.toNat v mod3)
    check := BitVec.ofNat 8 (modAdd e.check.toNat v 251) }

/-- Terms of total weight `n` enter an element with joined tag and summed value: AddTerm and EnterExact (R63, R64). An element
whose weight would pass 524,287 saturates. -/
def Elem.enter (e : Elem) (n : Nat) (tag : BitVec 2) (v : Int) : Elem × TileFlags :=
  if countMax < e.count + n then (Elem.saturated, { TileFlags.none' with depth := true })
  else ({ (e.addZ v) with count := e.count + n, tag := joinTag e.tag tag }, TileFlags.none')

/-- Window (R61): a finite exact value against an anchor. -/
def window (m e anchor : Int) : Int × TileFlags :=
  let (v, exact) := roundInt 0 m (e - anchor)
  if (2 ^ 43 : Nat) ≤ v.natAbs then
    (if m < 0 then -windowMax else windowMax, { inx := !exact, wovf := true, depth := false })
  else (v, { inx := !exact, wovf := false, depth := false })

/-- The term of one value: its tag, and its windowed value when finite. -/
def termOf (x : Num) (anchor : Int) : BitVec 2 × Int × TileFlags :=
  match x with
  | .nan _ => (tagNan, 0, TileFlags.none')
  | .inf n => (if n then tagNinf else tagPinf, 0, TileFlags.none')
  | .zero _ => (tagFinite, 0, TileFlags.none')
  | .fin m e => let (v, f) := window m e anchor; (tagFinite, v, f)

/-- The term of a product (R61, R62). -/
def productTerm (a b : Num) (anchor : Int) : BitVec 2 × Int × TileFlags := termOf (mulNum a b).1 anchor

/-- Every product of two rows of values enters an element, one term each (R63). -/
def dotTerms (anchor : Int) : List Num → List Num → Elem × TileFlags → Elem × TileFlags
  | a :: as, b :: bs, (e, f) =>
    let (t, v, g) := productTerm a b anchor
    let (e, h) := e.enter 1 t v
    dotTerms anchor as bs (e, (f.or g).or h)
  | _, _, r => r

/-- CrtToInt (R66). -/
def Elem.crt (e : Elem) : Int :=
  let c1 : Int := e.c1.toNat
  let c2 : Int := e.c2.toNat
  let c3 : Int := e.c3.toNat
  let y1 : Int := (c1 - c2) % (mod1 : Int)
  let y3 : Int := (c2 - c3) % (mod3 : Int)
  let k : Int := ((y3 - y1) * 2 ^ 20) % (mod3 : Int)
  let y := y1 + (mod1 : Int) * k
  let x := c2 + 2 ^ 21 * y
  if (modAll : Int) ≤ 2 * x then x - (modAll : Int) else x

/-- The comparison of R67: whether an element with a finite tag agrees with its check and its channels are canonical. -/
def Elem.checks (e : Elem) : Bool :=
  e.tag ≠ tagFinite || (e.c1.toNat < mod1 && e.c3.toNat < mod3 && (e.crt % 251).toNat = e.check.toNat)

/-- The exact value of an element at an anchor (R68). -/
def Elem.value (e : Elem) (anchor : Int) : Num :=
  if e.tag = tagNan then .nan false
  else if e.tag = tagPinf then .inf false
  else if e.tag = tagNinf then .inf true
  else Num.ofSig false e.crt anchor

/-- The least number of terms of magnitude 2^43 − 1 that reach a value (R64). -/
def weightOf (z : Int) : Nat := cdiv z.natAbs (2 ^ 43 - 1)

/-- Rebase of one element by `n` (R69). -/
def Elem.rebase (e : Elem) (n : Nat) : Elem × Bool :=
  if e.tag ≠ tagFinite then ({ e with count := 0 }, false)
  else
    let (z, exact) := roundShift 0 e.crt n
    ({ (Elem.zero.addZ z) with count := weightOf z }, !exact)

/-! ## Exact images (R193) -/

/-- The INT64 image of an element. -/
def Elem.image (e : Elem) : Word :=
  if e.tag = tagNan then 0x8000000000000000
  else if e.tag = tagPinf then 0x7FFFFFFFFFFFFFFF
  else if e.tag = tagNinf then 0x8000000000000001
  else BitVec.ofInt 64 e.crt

/-- ImageDecode (R193). -/
def imageDecode (w : Word) : BitVec 2 × Int :=
  if w = 0x8000000000000000 then (tagNan, 0)
  else if w = 0x7FFFFFFFFFFFFFFF then (tagPinf, 0)
  else if w = 0x8000000000000001 then (tagNinf, 0)
  else (tagFinite, w.toInt)

/-- The code of a tag that is not finite (R193). -/
def imageCode (t : BitVec 2) : Word :=
  if t = tagPinf then 0x7FFFFFFFFFFFFFFF else if t = tagNinf then 0x8000000000000001 else 0x8000000000000000

/-- XAdd (R434). -/
def xAdd (a b : Word) : Word :=
  let (s, x) := imageDecode a
  let (t, y) := imageDecode b
  let u := joinTag s t
  if u ≠ tagFinite then imageCode u else BitVec.ofInt 64 (x + y)

/-! ## Tiles -/

/-- Signed anchor of a tile. -/
def Tile.anchorInt (t : Tile) : Int := t.anchor.toInt

/-- An element of a tile. -/
def Tile.elem (t : Tile) (r c : Nat) : Elem := sget Elem.zero t.elems (r * 128 + c)

/-- Replace an element. -/
def Tile.setElem (t : Tile) (r c : Nat) (e : Elem) : Tile := { t with elems := sset Elem.zero t.elems (r * 128 + c) e }

/-- OR flags into a tile's sticky flags. -/
def Tile.orFlags (t : Tile) (f : TileFlags) : Tile :=
  { t with inx := t.inx || f.inx, wovf := t.wovf || f.wovf, depth := t.depth || f.depth }

/-- ResetTile (R73): elements, anchor and PARTIAL; the sticky flags stay. -/
def Tile.resetTo (t : Tile) (anchor : BitVec 12) : Tile := { t with elems := [], anchor := anchor, partialBit := false }

/-- Whether some element's tag is not finite. -/
def Tile.hasSpecial (t : Tile) : Bool := t.elems.any fun e => e.2.tag ≠ tagFinite

/-- The first element, in row-major order, that fails the comparison of R67. -/
def Tile.badElem (t : Tile) (row0 rows cols : Nat) : Option Nat :=
  (t.elems.find? fun e => row0 ≤ e.1 / 128 && e.1 / 128 < row0 + rows && e.1 % 128 < cols && !e.2.checks).map (·.1)

/-- Terms enter an element of a tile, flags included. -/
def Tile.enterAt (t : Tile) (r c n : Nat) (tag : BitVec 2) (v : Int) (f : TileFlags) : Tile :=
  let (e, g) := (t.elem r c).enter n tag v
  (t.setElem r c e).orFlags (f.or g)

/-- Rows of A and B meet in the M × N corner of a tile: every product one term. -/
def Tile.product (t : Tile) (A B : List (List Num)) : Tile :=
  A.zipIdx.foldl (fun t a => B.zipIdx.foldl (fun t b =>
    let (e, f) := dotTerms t.anchorInt a.1 b.1 (t.elem a.2 b.2, TileFlags.none')
    (t.setElem a.2 b.2 e).orFlags f) t) t

end Sys2Proof.Machine
end

