-- ==== Sys2Proof/Machine/Operands.lean ====
section
/-! DEFINITION. Operand forms: the scratchpad and its directory (R24, R195, R196), tile windows (R236 to R238), layouts and blocks
(R45 to R49), address generators (R240, R241), stream ports (R243, R244), and vector registers (R18). -/

namespace Sys2Proof.Machine

/-! ## Scratchpad and directory -/

/-- One byte at a scratchpad offset of a context. -/
def State.spByte (s : State) (k : Ctx) (o : Nat) : Byte := sget 0 (s.core k.coreNo).spad (k.baseBlk * 16384 + o)

/-- `n` bytes at a scratchpad offset. -/
def State.spBytes (s : State) (k : Ctx) (o n : Nat) : List Byte :=
  sbytes (s.core k.coreNo).spad (k.baseBlk * 16384 + o) n

/-- A GENERAL directory entry with its SPECIAL bit (R195). -/
def dirGeneral (special : Bool) : Word := BitVec.ofNat 64 (3 + b2n special * 8)

/-- The directory after bytes land (R196): each touched block becomes GENERAL, SPECIAL when it was or when a byte screens. A store that spans two
blocks marks SPECIAL only the one whose own bytes screen, where R58 may be read to mean both: DESIGN CHOICE (log 93). -/
def dirAfter (dir : Sparse Word) : List (Nat × Byte) → Sparse Word
  | [] => dir
  | (a, b) :: t =>
    let old := sget (0 : Word) dir (a / 16384)
    dirAfter (sset 0 dir (a / 16384) (dirGeneral (bitN old 3 || special b))) t

/-- Whether bytes of a scratchpad lie in a word with an uncorrectable error (R348). -/
def Core.spadBad (k : Core) (p n : Nat) : Bool := k.spadErr.any fun w => decide (w * 8 < p + n) && decide (p < w * 8 + 8)

/-- FAULTADDR of such an error: the physical offset with bit 63 set (R348). -/
def spadAddr (p : Nat) : Word := BitVec.ofNat 64 (2 ^ 63 + p)

/-- An uncorrectable error among scratchpad bytes of a context, by their offsets, as its reader meets it (R348). -/
def State.readBad (s : State) (k : Ctx) (os : List Nat) : Option Cause :=
  let h := s.core k.coreNo
  if h.spadErr = [] then none
  else (os.find? fun o => h.spadBad (k.baseBlk * 16384 + o) 1).map fun o => mkCause causeMemUncorr (spadAddr (k.baseBlk * 16384 + o))

/-- Bytes land in a core's scratchpad at physical offsets; a word that they cover whole loses its error (R348). -/
def Core.spWrite (k : Core) (bs : List (Nat × Byte)) : Core :=
  let whole (w : Nat) : Bool := (List.range 8).all fun i => bs.any fun e => e.1 = 8 * w + i
  { k with spad := ssets 0 k.spad bs, dir := dirAfter k.dir bs, spadErr := k.spadErr.filter fun w => !whole w }

/-- Bytes land at a scratchpad offset of a context. -/
def State.spStore (s : State) (c o : Nat) (bs : List Byte) : State :=
  let k := s.ctx c
  s.upCore k.coreNo fun h => h.spWrite (keyed (k.baseBlk * 16384 + o) bs)

/-- The first of the offsets that lies outside the allotment (R24). -/
def Ctx.firstOut (k : Ctx) (offs : List Nat) : Option Nat := offs.find? fun o => (k.spPhys o 1).isNone

/-! ## Windows (R236 to R238) -/

def Win.scale (w : Win) : Nat := bitsN w.w0 63 40
def Win.data (w : Win) : Nat := bitsN w.w0 39 16
def Win.fmt (w : Win) : Nat := bitsN w.w0 15 12
def Win.layout (w : Win) : Nat := bitsN w.w0 11 10
def Win.fam (w : Win) : Bool := bitN w.w0 9
def Win.swz (w : Win) : Nat := bitsN w.w0 8 7
def Win.kext (w : Win) : Nat := bitsN w.w1 31 16
def Win.rows (w : Win) : Nat := bitsN w.w1 10 0

/-- Whether a layout allows a format and family (R47, R236). -/
def layoutOk (fmt layout : Nat) (fam : Bool) : Bool :=
  match layout with
  | 0 => !fam && (fmt = 0 || fmt = 1 || fmt = 2 || fmt = 3 || fmt = 4 || fmt = 7 || fmt = 9 || fmt = 10 || fmt = 11)
  | 1 => !fam && 3 ≤ fmt && fmt ≤ 8
  | 2 => fmt = 0
  | _ => false

/-- Row, data and scale-plane sizes in bytes (R236). -/
def Win.rowSize (w : Win) : Nat :=
  match w.layout with
  | 0 => w.kext * fmtWidth w.fmt / 8
  | 1 => w.kext / 32 * (4 * fmtWidth w.fmt)
  | _ => w.kext / 32 * 32
def Win.dataSize (w : Win) : Nat := w.rows * w.rowSize
def Win.scaleSize (w : Win) : Nat :=
  match w.layout with
  | 0 => 0
  | 1 => w.rows * (w.kext / 32)
  | _ => w.rows * (w.kext / 32) * 2

/-- The descriptor check of TWDEF (R237): true when the descriptor is accepted. -/
def Win.ok (w : Win) : Bool :=
  bitsN w.w0 6 0 = 0 && bitsN w.w1 63 32 = 0 && bitsN w.w1 15 11 = 0 && w.layout ≠ 3 && w.swz ≠ 3 &&
  1 ≤ w.rows && w.rows ≤ 1024 && 1 ≤ w.kext && layoutOk w.fmt w.layout w.fam &&
  (w.layout = 0 || w.kext % 32 = 0) && (w.layout ≠ 0 || w.scale = 0) && (w.fmt ≠ 11 || w.swz = 0) &&
  (if w.layout = 0 then w.data % (fmtWidth w.fmt / 8) = 0 else w.data % 32 = 0) &&
  (w.layout ≠ 2 || w.scale % 2 = 0) &&
  (w.swz ≠ 1 || (w.rowSize % 128 = 0 && w.data % 128 = 0)) &&
  (w.swz ≠ 2 || (w.rowSize % 128 = 0 && w.data % 4096 = 0 && w.dataSize % 4096 = 0))

/-- Swz (R238). -/
def swizzle (mode o r : Nat) : Nat :=
  match mode with
  | 1 => Nat.xor o (r % 8 * 16)
  | 2 => Nat.xor o (r % 32 * 128)
  | _ => o

/-- The scratchpad offset of the byte at logical offset `o` of a window. -/
def Win.at (w : Win) (o : Nat) : Nat := w.data + swizzle w.swz o (o / max w.rowSize 1)

/-- Logical offset and byte count of the data of a row's element, or of the block that holds it (R49). -/
def Win.elemOff (w : Win) (r kk : Nat) : Nat × Nat :=
  match w.layout with
  | 0 => ((r * w.kext + kk) * (fmtWidth w.fmt / 8), fmtWidth w.fmt / 8)
  | 1 => ((r * (w.kext / 32) + kk / 32) * (4 * fmtWidth w.fmt), 4 * fmtWidth w.fmt)
  | _ => ((r * (w.kext / 32) + kk / 32) * 32, 32)

/-- Scratchpad offset and size of the scale entry of a block (R49). -/
def Win.scaleOff (w : Win) (r b : Nat) : Nat × Nat :=
  match w.layout with
  | 0 => (0, 0)
  | 1 => (w.scale + r * (w.kext / 32) + b, 1)
  | _ => (w.scale + (r * (w.kext / 32) + b) * 2, 2)

/-- The scratchpad offsets that a rectangle of a window touches, scale entries included. -/
def Win.touch (w : Win) (r0 nr k0 nk : Nat) : List Nat :=
  let cols := if w.layout = 0 then (List.range nk).map (k0 + ·)
    else (List.range ((k0 + nk + 31) / 32 - k0 / 32)).map fun b => (k0 / 32 + b) * 32
  ((List.range nr).flatMap fun r => cols.flatMap fun kk =>
    let (o, n) := w.elemOff (r0 + r) kk
    let (so, sn) := w.scaleOff (r0 + r) (kk / 32)
    ((List.range n).map fun i => w.at (o + i)) ++ (List.range sn).map fun i => so + i)

/-- What governs the elements of one block: its format, scale byte, whether it is a ZERO-block, and a reserved tag (R45). -/
structure Blk where
  fmt : Nat
  scale : Nat
  zero : Bool
  bad : Bool
deriving DecidableEq, Repr

/-- The block of a tag within a family (R45). -/
def blkOfTag (fam : Bool) (tag scale : Nat) : Blk :=
  if fam then
    match tag with
    | 0 => { fmt := 7, scale := scale, zero := false, bad := false }
    | 1 => { fmt := 8, scale := scale, zero := false, bad := false }
    | 2 => { fmt := 7, scale := scale, zero := true, bad := false }
    | _ => { fmt := 7, scale := scale, zero := false, bad := true }
  else { fmt := 3 + tag, scale := scale, zero := false, bad := false }

/-- The block of row `r`, block `b` of a window, its scratchpad read through `rd`. PLAIN elements carry scale 2^0. -/
def Win.blk (w : Win) (rd : Nat → Byte) (r b : Nat) : Blk :=
  match w.layout with
  | 0 => { fmt := w.fmt, scale := 127, zero := false, bad := false }
  | 1 => { fmt := w.fmt, scale := (rd (w.scaleOff r b).1).toNat, zero := false, bad := false }
  | _ => let o := (w.scaleOff r b).1; blkOfTag w.fam ((rd (o + 1)).toNat % 4) (rd o).toNat

/-- The bits of one element of a window (R48, R49). -/
def Win.bits (w : Win) (rd : Nat → Byte) (r kk : Nat) : Nat :=
  let (o, n) := w.elemOff r kk
  let bytes := (List.range n).map fun i => rd (w.at (o + i))
  if w.layout = 0 then leNat bytes
  else unpackAt (fmtWidth (w.blk rd r (kk / 32)).fmt) bytes (kk % 32)

/-- The block value of one element (R46). -/
def elemValue (b : Blk) (bits : Nat) : Num :=
  if b.zero then blockValue b.scale (.zero false) else blockValue b.scale (decodeNum b.fmt bits)

/-- The block value of one element of a window. -/
def Win.value (w : Win) (rd : Nat → Byte) (r kk : Nat) : Num := elemValue (w.blk rd r (kk / 32)) (w.bits rd r kk)

/-- The scratchpad offset of the first reserved tag in a rectangle of a window (R45). -/
def Win.badTag (w : Win) (rd : Nat → Byte) (nr k0 nk : Nat) : Option Nat :=
  if w.layout ≠ 2 then none
  else
    let blocks := (List.range nr).flatMap fun r => (List.range ((k0 + nk + 31) / 32 - k0 / 32)).map fun b => (r, k0 / 32 + b)
    (blocks.find? fun rb => (w.blk rd rb.1 rb.2).bad).map fun rb => (w.scaleOff rb.1 rb.2).1

/-- kstep of an element format, 16 for a ZERO-block (R186). -/
def kstep (b : Blk) : Nat :=
  if b.zero then 16 else match b.fmt with | 1 => 2 | 2 => 2 | 6 => 16 | 8 => 16 | _ => 8

/-! ## Writing windows (R47 to R49, R56) -/

/-- The scratchpad offset and value of each byte of one element of a PLAIN window. -/
def Win.putElem (w : Win) (r kk size bits : Nat) : List (Nat × Byte) :=
  (natBytes bits size).zipIdx.map fun b => (w.at ((w.elemOff r kk).1 + b.2), b.1)

/-- The scratchpad bytes of one block, scale entry and tag of format `f` included. -/
def Win.putBlock (w : Win) (r b f scale : Nat) (es : List Nat) : List (Nat × Byte) :=
  let (o, n) := w.elemOff r (b * 32)
  let data := (fit n (packBlock f es)).zipIdx.map fun x => (w.at (o + x.2), x.1)
  let (so, sn) := w.scaleOff r b
  let tag := if 7 ≤ f then f - 7 else f - 3
  data ++ keyed so ((natBytes scale 1 ++ natBytes tag 1).take sn)

/-- Groups of 32 of a list, by number. -/
def groups32 {α : Type} (xs : List α) : List (Nat × List α) :=
  (List.range (xs.length / 32)).map fun b => (b, (xs.drop (32 * b)).take 32)

/-- One row of values converted and written from column 0 on: element by element under PLAIN, block by block else (R56); none
when policy 0b11 traps. `ftz` flushes the results of a vector instruction in FP32, BF16 and FP16 (R55). -/
def Win.putRow (w : Win) (f : Nat) (unit : Bool) (rm pol : Nat) (ftz : Bool) (r : Nat) (xs : List Num) :
    Option (List (Nat × Byte) × Word) :=
  if w.layout = 0 then
    let cs := xs.map fun x => convert x f rm pol false (ftz && f ≤ 2)
    if cs.any fun c => c.1 = .trap then none
    else some (cs.zipIdx.flatMap (fun c => w.putElem r c.2 (fmtWidth f / 8) c.1.1.val), cs.foldl (fun a c => a ||| c.2) 0)
  else
    (groups32 xs).foldl (fun acc g =>
      match acc, blockConvert g.2 f unit rm pol with
      | some (bs, fl), some (scale, es, fl') => some (bs ++ w.putBlock r g.1 f scale es, fl ||| fl')
      | _, _ => none) (some ([], 0))

/-- Several rows, the first of them window row 0. -/
def Win.putRows (w : Win) (f : Nat) (unit : Bool) (rm pol : Nat) (ftz : Bool) (rows : List (List Num)) :
    Option (List (Nat × Byte) × Word) :=
  rows.zipIdx.foldl (fun acc x =>
    match acc, w.putRow f unit rm pol ftz x.2 x.1 with
    | some (bs, fl), some (bs', fl') => some (bs ++ bs', fl ||| fl')
    | _, _ => none) (some ([], 0))

/-- Scratchpad offsets of a context as physical offsets. -/
def Ctx.phys (k : Ctx) (bs : List (Nat × Byte)) : List (Nat × Byte) := bs.map fun b => (k.baseBlk * 16384 + b.1, b.2)

/-! ## Generators (R240, R241) -/

/-- A program from its 64 bytes. -/
def agParse (b : List Byte) : AgProg :=
  { base := fieldW b 0, chunk := fieldN b 8 4, space := fieldN b 12 1,
    count := [fieldN b 16 4, fieldN b 20 4, fieldN b 24 4, fieldN b 28 4],
    stride := [fieldW b 32, fieldW b 40, fieldW b 48, fieldW b 56] }

/-- Whether a program is valid (R240). -/
def agOk (b : List Byte) : Bool :=
  let p := agParse b
  1 ≤ p.chunk && p.chunk ≤ 4096 && p.space ≤ 1 && zeroIn b 13 16 && (p.count.all fun n => 1 ≤ n) &&
  (p.space = 0 || p.base.toNat < 2 ^ 24)

/-- The number of chunks of a program. -/
def AgProg.total (p : AgProg) : Nat := p.count.foldl (· * ·) 1

/-- The address of chunk `n` (R241). -/
def AgProg.addr (p : AgProg) (n : Nat) : Word :=
  let c (i : Nat) := p.count.getD i 1
  let st (i : Nat) := p.stride.getD i 0
  let i0 := n % c 0
  let i1 := n / c 0 % c 1
  let i2 := n / (c 0 * c 1) % c 2
  let i3 := n / (c 0 * c 1 * c 2)
  p.base + BitVec.ofNat 64 i0 * st 0 + BitVec.ofNat 64 i1 * st 1 + BitVec.ofNat 64 i2 * st 2 + BitVec.ofNat 64 i3 * st 3

/-- The address of byte `o` of a generator's byte stream (R246). -/
def AgProg.byteAddr (p : AgProg) (o : Nat) : Word := p.addr (o / max p.chunk 1) + BitVec.ofNat 64 (o % max p.chunk 1)

/-- The bytes of a generator's stream. -/
def AgProg.bytes (p : AgProg) : Nat := p.total * p.chunk

/-- Generator `n` of a context. -/
def Ctx.agN (k : Ctx) (n : Nat) : Ag := vgetD k.ag n Ag.idle

/-- Port `n` of a context. -/
def Ctx.port (k : Ctx) (n : Nat) : Port := vgetD k.sp n Port.off

/-- Window `n` of a context. -/
def Ctx.winN (k : Ctx) (n : Nat) : Win := vgetD k.win n Win.undef

/-! ## Input ports (R243) -/

/-- Elements per block of a port's layout, bytes of a block's data and of its scale entry. -/
def Port.perBlock (p : Port) : Nat := if p.layout = 0 then 1 else 32
def Port.blockBytes (p : Port) : Nat :=
  match p.layout with
  | 0 => fmtWidth p.fmt / 8
  | 1 => 4 * fmtWidth p.fmt
  | _ => 32
def Port.scaleBytes (p : Port) : Nat := p.layout

/-- Whole elements that wait in an input port. -/
def Port.avail (p : Port) : Nat :=
  let nb := p.fifo.length / max p.blockBytes 1
  let nb := if p.layout = 0 then nb else min nb (p.sfifo.length / p.scaleBytes)
  nb * p.perBlock - p.taken

/-- One element of an input port, counted from the first unconsumed one: its block, its bits, and the poison of its bytes. -/
def Port.elem (p : Port) (j : Nat) : Blk × Nat × Option Cause :=
  let i := p.taken + j
  let b := i / p.perBlock
  let bytes := (p.fifo.drop (b * p.blockBytes)).take p.blockBytes
  let sc := (p.sfifo.drop (b * p.scaleBytes)).take p.scaleBytes
  let poison := ((bytes ++ sc).find? fun x => x.poison.isSome).bind (·.poison)
  let raw := bytes.map PByte.b
  let s0 := ((sc.map PByte.b).getD 0 0).toNat
  let s1 := ((sc.map PByte.b).getD 1 0).toNat
  let blk : Blk :=
    match p.layout with
    | 0 => { fmt := p.fmt, scale := 127, zero := false, bad := false }
    | 1 => { fmt := p.fmt, scale := s0, zero := false, bad := false }
    | _ => blkOfTag p.fam (s1 % 4) s0
  (blk, if p.layout = 0 then leNat raw else unpackAt (fmtWidth blk.fmt) raw (i % 32), poison)

/-- Remove `n` elements from an input port. -/
def Port.drop (p : Port) (n : Nat) : Port :=
  let t := p.taken + n
  let b := t / p.perBlock
  { p with fifo := p.fifo.drop (b * p.blockBytes), sfifo := p.sfifo.drop (b * p.scaleBytes), taken := t % p.perBlock }

/-- The first poison among the elements that wait in an input port, up to `n`. -/
def Port.poisonIn (p : Port) (n : Nat) : Option Cause :=
  (List.range (min n p.avail)).findSome? fun j => (p.elem j).2.2

/-- Drop the poisoned bytes of an input port and what follows them: its generator stands where they began (R243). -/
def Ctx.refetch (k : Ctx) (n : Nat) : Ctx :=
  let p := k.port n
  let back (k : Ctx) (a off : Nat) (q : List PByte) : Ctx × List PByte × Nat :=
    let keep := q.takeWhile fun b => b.poison.isNone
    if keep.length = q.length then (k, q, off)
    else
      let g := k.agN a
      let c := max g.prog.chunk 1
      let o := g.pos * c + off - (q.length - keep.length)
      ({ k with ag := vmod k.ag a fun g => { g with pos := o / c } }, keep, o % c)
  let (k, q, off) := back k p.agd p.chunkOff p.fifo
  let (k, sq, soff) := match p.ags with
    | none => (k, p.sfifo, p.schunkOff)
    | some a => back k a p.schunkOff p.sfifo
  { k with sp := vmod k.sp n fun p => { p with fifo := q, chunkOff := off, sfifo := sq, schunkOff := soff } }

/-- Whether an input port can present no further element: the generator that holds its next block back has no chunk left (R243). -/
def Ctx.portDry (k : Ctx) (p : Port) : Bool :=
  let out (n : Nat) : Bool := (k.agN n).prog.total ≤ (k.agN n).pos
  let nb := p.fifo.length / max p.blockBytes 1
  match p.ags with
  | none => out p.agd
  | some a =>
    let ns := p.sfifo.length / max p.scaleBytes 1
    (out p.agd && decide (nb ≤ ns)) || (out a && decide (ns ≤ nb))

/-! ## Vector registers (R18) -/

/-- The key of byte `b` of vector register `r`. -/
def vkey (r b : Nat) : Nat := r * 4096 + b

/-- Element `i` of register `r` under an element size. -/
def Ctx.velem (k : Ctx) (r size i : Nat) : Nat := leNat (sbytes k.v (vkey r (i * size)) size)

/-- The bytes of element `i` as keyed register bytes. -/
def elemBytes (size i v : Nat) : List (Nat × Byte) := keyed (i * size) (natBytes v size)

/-- Write keyed bytes of a register. -/
def Ctx.vwrite (k : Ctx) (r : Nat) (bs : List (Nat × Byte)) : Ctx :=
  { k with v := ssets 0 k.v (bs.map fun e => (vkey r e.1, e.2)) }

/-- Bit `i` of vector predicate `r`. -/
def Ctx.mbit (k : Ctx) (r i : Nat) : Bool := (vgetD k.m r 0).getLsbD i

/-- Whether element `i` is selected by an operation's mask (R205). -/
def Ctx.selected (k : Ctx) (mken : Bool) (mm : BitVec 3) (i : Nat) : Bool := !mken || k.mbit mm.toNat i

/-! ## Engine landings -/

/-- TFILL's directory entry for block `i` of a fill (R198). -/
def fillEntry (kind fmt : Nat) (pat : Word) (i : Nat) : Word :=
  match kind with
  | 0 => 0
  | 1 =>
    if pat = 0 then 0
    else
      let x := decodeNum fmt pat.toNat
      let sp := match x with | .nan _ => true | .inf _ => true | _ => false
      BitVec.ofNat 64 (pat.toNat * 2 ^ 32 + fmt * 2 ^ 28 + b2n (sp && isFloat fmt) * 8 + 1)
  | _ =>
    let q := fmtWidth fmt / 8
    BitVec.ofNat 64 (i % q * 2 ^ 32 + fmt * 2 ^ 28 + 2)

/-- The encoding of 1 in a PLAIN format (R198). -/
def oneBits : Nat → Nat
  | 0 => 0x3F800000
  | 1 => 0x3F80
  | 2 => 0x3C00
  | 3 => 0x38
  | 4 => 0x3C
  | _ => 1

/-- The 16,384 bytes of block `i` of a fill (R198), as those that are not zero, keyed within the block. -/
def fillBytes (kind fmt : Nat) (pat : Word) (i : Nat) : List (Nat × Byte) :=
  let w := fmtWidth fmt
  match kind with
  | 0 => []
  | 1 => if pat = 0 then [] else (List.range (131072 / w)).flatMap fun e => elemBytes (w / 8) e pat.toNat
  | _ =>
    let rows := 1024 / w
    let q := i % (w / 8)
    (List.range rows).flatMap fun r => elemBytes (w / 8) (r * 128 + (q * rows + r)) (oneBits fmt)

/-- One effect of a landing engine instruction. -/
def State.land (s : State) (c ord : Nat) (e : Effect) : State :=
  match e with
  | .vbytes r bs => s.upCtx c fun k => k.vwrite r bs
  | .pred r m v => s.upCtx c fun k => { k with m := vmod k.m r fun o => (o &&& ~~~m) ||| (v &&& m) }
  | .sp bs => s.upCore (s.ctx c).coreNo fun h => h.spWrite bs
  | .xreg st r v => s.upSeq c st fun q => q.wx r v
  | .flags f => s.upCtx c fun k => k.orVstat f
  | .fill kind fmt pat blk n =>
    (List.range n).foldl (fun s i => s.upCore (s.ctx c).coreNo fun h =>
      let spad := ssets 0 (sclear h.spad ((blk + i) * 16384) ((blk + i + 1) * 16384))
        ((fillBytes kind fmt pat i).map fun e => ((blk + i) * 16384 + e.1, e.2))
      { h with spad := spad, dir := sset 0 h.dir (blk + i) (fillEntry kind fmt pat i)
               spadErr := h.spadErr.filter fun w => w / 2048 ≠ blk + i }) s
  | .tileEntry t _ => s.upCore (s.ctx c).coreNo fun h =>
      { h with tiles := vmod h.tiles t fun x => { x with special := x.hasSpecial } }
  | .portOut p bs => s.upCtx c fun k =>
      { k with sp := vmod k.sp p fun q => { q with outQ := q.outQ ++ bs.map fun b => { b := b, owner := ord } } }

/-- The class that a tile's writer gives the entry, in program order (R190, R195). -/
def State.enterClass (s : State) (c : Nat) (es : List Effect) : State :=
  es.foldl (fun s e => match e with
    | .tileEntry t (some z) => s.upCore (s.ctx c).coreNo fun h =>
        { h with tiles := vmod h.tiles t fun (x : Tile) => { x with general := !z } }
    | _ => s) s

/-! ## The watermark (R182, R183) -/

/-- The writers of a physical tile that are in flight on a core. -/
def State.writers (s : State) (core t : Nat) : List Inflight :=
  s.ctxs.flatMap fun k => if k.core = some core then k.flight.filter fun f => f.tile = some t else []

/-- The rows from 0 that one writer in flight has made final by now (R181): from `rowBase` on, `rows` rows a cycle from
`rowFirst`, until `rowCount` rows are done; every other row is final at `rowBase`. -/
def Inflight.finalRows (f : Inflight) (now : Nat) : Nat :=
  if f.mid.isSome then 0
  else if now < f.rowBase then 0
  else
    let n := (now - f.rowBase + 1) * f.rows
    if f.rowCount ≤ n then 128 else min 128 (f.rowFirst + n)

/-- WM of a physical tile. -/
def State.wm (s : State) (core t : Nat) : Nat :=
  if (vgetD (s.core core).tiles t Tile.zero).wmHold then 0
  else (s.writers core t).foldl (fun m f => min m (f.finalRows s.tide)) 128

/-- BUSY of a physical tile. -/
def State.tileBusy (s : State) (core t : Nat) : Bool :=
  (vgetD (s.core core).tiles t Tile.zero).wmHold || s.writers core t ≠ []

/-- ACCSTAT of a physical tile (R21). -/
def State.accstat (s : State) (core t : Nat) : Word :=
  let x := vgetD (s.core core).tiles t Tile.zero
  BitVec.ofNat 64 (x.anchor.toNat * 2 ^ 20 + s.wm core t * 2 ^ 12 + b2n (s.tileBusy core t) * 2 ^ 11 +
    b2n x.partialBit * 2 ^ 10 + b2n x.chkerr * 2 ^ 9 + b2n x.depth * 4 + b2n x.inx * 2 + b2n x.wovf)

/-- Change a physical tile. -/
def State.upTile (s : State) (core t : Nat) (f : Tile → Tile) : State :=
  s.upCore core fun h => { h with tiles := vmod h.tiles t f }

end Sys2Proof.Machine
end

