-- ==== Sys2Proof/Machine/Issue.lean ====
section
/-! DEFINITION. How a sequencer issues one word: the guard (R76), the registers it waits for (R146, R233), the marks of
uncorrectable loads (R145), the span and slot rules (R122, R136), boost (R133, R134), and the four ends of an issue: done,
jumped, stalled, trapped. -/

namespace Sys2Proof.Machine

/-- The outcome of a meaning. -/
abbrev Out := Host.Outcome State Fault Refusal

/-- How one word ends: it completed and the sequencer advances; it completed and set its own next PC; it stands still; it
raised a precise fault. -/
inductive Res
  | done (s : State)
  | jump (s : State)
  | stall (k : StallKind) (s : State)
  | trap (c : Cause) (s : State)

/-- The 64-bit word of an instruction. -/
def wordOf (i : Instr) : Word := (encode i).getD 0

/-- The state after an issue of stream `st` of context `c`. -/
def finishRes (i : Instr) (c : Nat) (st : Stream) : Res → Out
  | .done s => .next (s.upSeq c st fun q => { q.advance with stall := none, ord := q.ord + 1 })
  | .jump s => .next (s.upSeq c st fun q => { q with stall := none, ord := q.ord + 1 })
  | .stall k s => .next (s.upSeq c st fun q => { q with stall := some (wordOf i, k) })
  | .trap cause s => .next (preciseFault (s.upSeq c st fun q => { q with stall := none }) c st (s.seq c st).pc (wordOf i) cause)

/-- C-stream registers that an engine word reads when it issues. -/
def xReads : Instr → List (BitVec 5)
  | .vbcast _ o => [o.va]
  | .vext _ _ _ _ _ xo => [xo]
  | .vld _ _ false _ xo _ _ _ => [xo]
  | .vst _ _ false _ xo _ _ _ => [xo]
  | .tfillConst _ _ _ a _ => [a]
  | _ => []

/-- C-stream registers that an engine word writes. -/
def xWrites : Instr → List (BitVec 5)
  | .accWm _ d _ _ => [d]
  | .accStat _ d _ _ => [d]
  | .tdRd _ d _ _ => [d]
  | _ => []

/-- Whether a load still owes a register (R146). -/
def owed (q : Seq) (r : BitVec 5) : Bool :=
  r ≠ 0 && q.loadQ.any fun e => e.reg = r && e.kind ≠ .mark

/-- In a locked region the C stream waits for engine words that write a register it reads, and for those that read or write one
it writes (R233). -/
def engineBusy (k : Ctx) (st : Stream) (xs ws : List (BitVec 5)) : Bool :=
  st = .c && !k.timed &&
    ((k.eqM ++ k.eqV ++ k.eqS).any (fun e =>
      (xs.any fun r => (xWrites e.instr).contains r) || (ws.any fun r => (xWrites e.instr ++ xReads e.instr).contains r)) ||
     k.flight.any fun f => (xs ++ ws).any fun r => f.effs.any fun e => match e with | .xreg .c d _ => d = r && r ≠ 0 | _ => false)

/-- The oldest marked load among the registers read (R145). -/
def oldestMark (ms : List Mark) : Option Mark :=
  ms.foldl (fun m e => match m with | none => some e | some o => if e.ord < o.ord then some e else some o) none

def markOf (q : Seq) (xs : List (BitVec 5)) : Option Mark := oldestMark (q.marks.filter fun m => m.reg ≠ 0 && xs.contains m.reg)

/-- Issue one unboosted word of the current stream. `inSpan` words may issue while a shadow level is not empty (R136), `ctl`
words may not stand in a delay slot (R122), and of a word that breaks both rules the span's is judged first, DESIGN CHOICE (log 67); `xs` are the registers read and `ws` those written. -/
def runSeq (i : Instr) (g : Guard) (inSpan ctl : Bool) (xs ws : List (BitVec 5)) (body : Nat → Stream → State → Res)
    (s : State) : Out :=
  match s.turn with
  | .agents => .next s
  | .issue c st _ =>
    let k := s.ctx c
    let q := k.seq st
    finishRes i c st <|
      if q.rp g.gp = g.gn then .done s
      else if st = .x && k.boost.nonEmpty && !inSpan then .trap { code := causeBoostIllegal, detail := 0xFF, addr := wordOf i } s
      else if ctl && q.xfer.isSome then .trap (mkCause causeCtlInSlot (wordOf i)) s
      else if (xs ++ ws).any (owed q) || engineBusy k st xs ws then .stall .other s
      else match markOf q xs with
        | some m => .trap (mkCause causeMemUncorr m.addr) s
        | none => body c st s

/-- The destination of a word of R87. -/
inductive Dest
  | x (r : BitVec 5)
  | p (r : BitVec 3)
deriving DecidableEq, Repr

/-- Write a destination in architectural state. -/
def Seq.wDest (q : Seq) (d : Dest) (v : Word) : Seq :=
  match d with
  | .x r => q.wx r v
  | .p r => q.wp r (v ≠ 0)

/-- Write a destination's shadow entry. -/
def Ctx.wShadowDest (k : Ctx) (lv : Nat) (d : Dest) (v : Word) (poison : Option Cause) (pc : Word) : Ctx :=
  match d with
  | .x r => k.wShadow lv false r.toNat v poison pc
  | .p r => k.wShadow lv true r.toNat v poison pc

/-- The x register a destination names. -/
def Dest.xs : Dest → List (BitVec 5)
  | .x r => [r]
  | .p _ => []

/-- Issue one register-to-register word of R87: architectural when unboosted, through the shadow of its level when boosted
(R133, R134). `val` computes the result from the values read; a predicate result is 0 or 1. -/
def runAlu (i : Instr) (g : Guard) (xs : List (BitVec 5)) (ps : List (BitVec 3)) (d : Dest)
    (val : (BitVec 5 → Word) → (BitVec 3 → Bool) → Word) (s : State) : Out :=
  if g.boost = 0 then
    runSeq i g true false xs d.xs
      (fun c st s => let q := s.seq c st; .done (s.upSeq c st fun q' => q'.wDest d (val q.rx q.rp))) s
  else match s.turn with
    | .agents => .next s
    | .issue c st _ =>
      let k := s.ctx c
      let q := k.seq st
      let lv := g.boost.toNat
      finishRes i c st <|
        if (xs ++ d.xs).any (owed q) then .stall .other s
        else match k.poisonAt lv [] [g.gp] with
          | some _ => .done (s.upCtx c fun k => k.wShadowDest lv d 0 (k.poisonAt lv xs (g.gp :: ps)) q.pc)
          | none =>
            if k.rpAt st lv g.gp = g.gn then .done s
            else match markOf q (xs.filter fun r => (k.boost.find lv false r.toNat).isNone) with
              | some m => .trap (mkCause causeMemUncorr m.addr) s
              | none =>
                .done (s.upCtx c fun k =>
                  k.wShadowDest lv d (val (k.rxAt st lv) (k.rpAt st lv)) (k.poisonAt lv xs ps) q.pc)

end Sys2Proof.Machine
end

