-- ==== Sys2Proof/Machine/Fetch.lean ====
section
/-! DEFINITION. Instruction fetch: bundles and their poison tags (R114 to R117), the word a sequencer is about to issue, the loop
buffer (R16, R124) and the call-graph prefetcher (R123). -/

namespace Sys2Proof.Machine

/-- Whether an address lies in the context's code bounds (R12, R114). -/
def Ctx.inCode (k : Ctx) (a : Nat) : Bool := decide (k.csr.codebase.toNat ≤ a) && decide (a < k.csr.codebound.toNat)

/-- Whether the tables of the arena's home let the context's function read, as for any other read (R355, R360). -/
def State.arenaPass (s : State) (vf a : Nat) : Bool := (s.refusedAt vf agCore 4096 .rd a).isNone

/-- The poison of the bundle at a 64-byte-aligned address, `a` being the address fetched (R114). -/
def State.bundlePoison (s : State) (k : Ctx) (a : Nat) : Option Cause :=
  let b := a / 64 * 64
  if !k.inCode a then some (mkCause causeFetchRange (BitVec.ofNat 64 a))
  else if !s.arenaPass k.vf b then some (mkCause causeFetchDenied (BitVec.ofNat 64 b))
  else if s.uncorrAt b 64 then some (mkCause causeFetchMemerr (BitVec.ofNat 64 b))
  else none

/-- Fetch the bundle that holds an address into a stream's fetch path; a fetch never faults (R114). A target with bits [2:0] set is entered
under its own address, poisoned. Arena reads use key index 4,096 and L2 class 0 (R355). -/
def State.fetchBundle (s : State) (c : Nat) (st : Stream) (a : Nat) : State :=
  let b := if a % 8 = 0 then a / 64 * 64 else a
  if (s.seq c st).bundles.any fun x => x.addr = b then s
  else if a % 8 ≠ 0 then
    s.upSeq c st fun q => { q with bundles := q.bundles ++ [{ addr := b, poison := some (mkCause causeFetchRange (BitVec.ofNat 64 a)) }] }
  else
    let p := s.bundlePoison (s.ctx c) a
    let s := match p with
      | none => (s.holdWait 4096 b 64 false).l2touch 0 4096 b false
      | some e =>
        if e.code = causeFetchDenied then s.logDenied (s.ctx c).vf agCore 4096 .rd b
        else if e.code = causeFetchMemerr then s.chargeUncorr b else s
    s.upSeq c st fun q => { q with bundles := q.bundles ++ [{ addr := b, poison := p }] }

/-- A code byte as a context's iteration fetches it: a change made since the iteration started is not seen (R117). -/
def State.codeByte (s : State) (k : Ctx) (a : Nat) : Byte :=
  let seen := (k.iter.map (·.edits)).getD s.codeEdits.length
  match (s.codeEdits.drop seen).find? fun e => decide (e.addr ≤ a) && decide (a < e.addr + e.old.length) with
  | some e => e.old.getD (a - e.addr) 0
  | none => sget 0 s.code a

/-- The word at an arena address as a context's iteration fetches it (R117). -/
def State.codeWord (s : State) (k : Ctx) (a : Nat) : Word := BitVec.ofNat 64 (leNat ((List.range 8).map fun i => s.codeByte k (a + i)))

/-- The word at an arena address as FC2 last wrote it: what an iteration that starts now fetches. -/
def State.codeNow (s : State) (a : Nat) : Word := BitVec.ofNat 64 (leNat (sbytes s.code a 8))

/-- The word at the sequencer's PC: from the loop buffer when it holds it, else from its bundle; or the poison it was fetched
with (R16, R115). -/
def State.wordAtPc (s : State) (c : Nat) (st : Stream) : Except Cause Word :=
  let q := s.seq c st
  let a := q.pc.toNat
  if a % 8 ≠ 0 then .error (mkCause causeFetchRange q.pc)
  else match q.loopBuf.find? fun e => e.1 = a with
    | some e => .ok e.2
    | none =>
      if !(s.ctx c).inCode a then .error (mkCause causeFetchRange q.pc)
      else match (q.bundles.find? fun b => b.addr = a / 64 * 64).bind (·.poison) with
        | some p => if p.code = causeFetchRange then .ok (s.codeWord (s.ctx c) a) else .error p
        | none => .ok (s.codeWord (s.ctx c) a)

/-- A bundle of a stream's instruction cache is repaired: invalidated and fetched again, and the repair counted (R116, R446). -/
def State.icacheRepair (s : State) (c : Nat) (st : Stream) (a : Nat) : State :=
  let b := a / 64 * 64
  if (s.seq c st).bundles.any fun x => x.addr = b then
    ((s.upSeq c st fun q => { q with bundles := q.bundles.filter fun x => x.addr ≠ b }).fetchBundle c st a).addScore .core (s.ctx c).coreNo 2
  else s

/-- LOOP captures its body (R16): the words of [start, stop) that can be fetched. -/
def State.capture (s : State) (k : Ctx) (start stop : Word) : Sparse Word :=
  let n := (stop.toNat - start.toNat) / 8
  (List.range n).filterMap fun i =>
    let a := start.toNat + 8 * i
    if (s.bundlePoison k a).isSome then none else some (a, s.codeWord k a)

/-- Fetch captures the active body of each loop nest again (R16, R129): after a trap, a pre-emption or a restore. -/
def State.recapture (s : State) (c : Nat) : State :=
  [Stream.x, .l, .c, .s].foldl (fun s st => match (s.seq c st).loops.getLast? with
    | some e => s.upSeq c st fun q => { q with loopBuf := s.capture (s.ctx c) e.start e.stop }
    | none => s) s

/-- Poisoned bundles that a stream fetched and never issued (R115). -/
def Ctx.prefetchEvents (k : Ctx) : Nat :=
  ([Stream.x, .l, .c, .s].map fun st => ((k.seq st).bundles.filter fun b => b.poison.isSome).length).sum

/-- The fetch paths of a context empty: each poisoned bundle that never issued is counted against the core (R115, R446). -/
def State.dropBundles (s : State) (c : Nat) : State :=
  let n := (s.ctx c).prefetchEvents
  let s := if n = 0 || (s.ctx c).core.isNone then s else s.addScore .core (s.ctx c).coreNo (2 * n)
  [Stream.x, .l, .c, .s].foldl (fun s st => s.upSeq c st fun q => { q with bundles := [] }) s

/-- The successor list of the function at an address of the running image (R105, R123). -/
def State.successors (s : State) (k : Ctx) (a : Nat) : List Nat :=
  match k.iter.bind fun it => s.launch? it.launch with
  | none => []
  | some l =>
    match (s.vf k.vf).berths.find? fun b => b.num = l.berth with
    | none => []
    | some b =>
      match b.succ.find? fun e => l.image + e.1 = a with
      | none => []
      | some e => (e.2.take 4).map fun o => l.image + o

/-- The prefetches of a taken CALL (R123). -/
def State.prefetchCall (s : State) (c : Nat) (st : Stream) (target : Word) : State :=
  (s.successors (s.ctx c) target.toNat).foldl (fun s a => s.fetchBundle c st a) s

/-- BUNDLE_FETCH (R114): the fetch path enters the bundle at an address. -/
def execBundleFetch (ctx : Nat) (st : Stream) (addr : Word) (s : State) : Out :=
  if (s.ctx ctx).run = .running then .next (s.fetchBundle ctx st addr.toNat) else .next s

end Sys2Proof.Machine
end

