-- ==== Sys2Proof/Machine/Journal.lean ====
section
/-! DEFINITION. The context journal and YQ (R33, R156, R157, R160): the one place where entries are written, their states change,
and records are pushed. -/

namespace Sys2Proof.Machine

/-- Entry states (R156). -/
def jQueued : Nat := 1
def jStarted : Nat := 2
def jDone : Nat := 3
def jCancelled : Nat := 4
def jFailed : Nat := 5

/-- The 64 bytes of an entry (R156). -/
def JEntry.bytes (e : JEntry) : List Byte :=
  natBytes e.seq 8 ++ natBytes e.queue 1 ++ natBytes e.state 1 ++ zeros 2 ++ natBytes e.iter.toNat 4 ++ fit 48 e.body

/-- The virtual address of the entry of a sequence number (R33). -/
def Ctx.jnlVa (k : Ctx) (seq : Nat) : Word :=
  BitVec.ofNat 64 (bitsN k.csr.jnlbase 55 16 * 65536 + seq % k.jnlEntries * 64)

/-- The oldest journal write of a context that waits reaches the ring at TENANT scope, unless a core has pinned its line or its channel is in
a hold, when it comes again (R295, R440). A ring page that is not mapped takes nothing (log 26). The flag tells that it was made. -/
def State.jnlFlush1 (s : State) (c : Nat) : State × Bool :=
  match (s.ctx c).jnlOut with
  | [] => (s, false)
  | (va, bs) :: rest =>
    let t := (({ s with fwWaits := [] } : State).fwWrite (s.ctx c).vf va 3 bs).1
    if t.fwWaits = [] then (({ t with fwWaits := s.fwWaits } : State).upCtx c fun k => { k with jnlOut := rest }, true)
    else (t.fwWaits.foldl (fun s l => s.notePin 128 128 (l * 1024)) s, false)

/-- The journal writes of a context that wait are made in order, as far as they go. -/
def State.jnlFlush (s : State) (c : Nat) : Nat → State
  | 0 => s
  | n + 1 => match s.jnlFlush1 c with
    | (s, true) => s.jnlFlush c n
    | (s, false) => s

/-- Journal bytes go to the context's ring, behind those that still wait. -/
def State.jnlStore (s : State) (c : Nat) (va : Word) (bs : List Byte) : State :=
  let s := s.upCtx c fun k => { k with jnlOut := k.jnlOut ++ [(va, bs)] }
  s.jnlFlush c (s.ctx c).jnlOut.length

/-- Whether the ring has room for a push (R33). -/
def Ctx.jnlRoom (k : Ctx) : Bool := k.csr.jnlhead.toNat - k.jnlLow < k.jnlEntries

/-- A valid write to JNLBASE takes effect (R33): the counters stand, and no entry of the old ring is open. -/
def Ctx.setJnlbase (k : Ctx) (w : Word) : Ctx :=
  { k with jnlPending := none, journal := [], csr := { k.csr with jnlbase := w &&& 0x00FFFFFFFFFF000F } }

/-- ACCSTAT of a logical tile. -/
def State.accOf (s : State) (k : Ctx) (i : Nat) : Word := s.accstat k.coreNo (k.abase + i)

/-- Whether a snapshot of this cycle stands (R36). -/
def Ctx.oldNow (k : Ctx) (tide : Nat) : Option CsrOld := k.csrOld.filter fun o => o.tide = tide

/-- The snapshot that the first CSRW of a cycle leaves (R36). -/
def State.snapCsr (s : State) (c : Nat) : State :=
  let k := s.ctx c
  if (k.oldNow s.tide).isSome then s
  else
    let o : CsrOld := { tide := s.tide, csrs := k.csr, acc := (List.range k.acount).map fun i => (i, s.accOf k i) }
    s.upCtx c fun k => { k with csrOld := some o }

/-- Bits [31:0] of x26 of the iteration (R156). -/
def Ctx.iterNo (k : Ctx) : BitVec 32 := BitVec.ofNat 32 ((k.iter.map (·.flat)).getD 0)

/-- A push takes JNLHEAD and writes its entry QUEUED (R157). -/
def State.jnlPush (s : State) (c queue : Nat) (body : List Byte) : State :=
  let k := s.ctx c
  let seq := k.csr.jnlhead.toNat
  let e : JEntry := { seq := seq, queue := queue, state := jQueued, iter := k.iterNo, body := fit 48 body }
  let slot (x : JEntry) : Bool := x.seq % k.jnlEntries ≠ seq % k.jnlEntries
  let s := s.upCtx c fun k =>
    { k with journal := k.journal.filter slot ++ [e], csr := { k.csr with jnlhead := k.csr.jnlhead + 1 } }
  s.jnlStore c (k.jnlVa seq) e.bytes

/-- The state of an entry; 0 when the ring no longer holds it. -/
def Ctx.jnlState (k : Ctx) (seq : Nat) : Nat := ((k.journal.find? fun e => e.seq = seq).map (·.state)).getD 0

/-- One STATE byte is written (R157). -/
def State.jnlMark (s : State) (c seq st : Nat) : State :=
  let k := s.ctx c
  let f (e : JEntry) : JEntry := if e.seq = seq then { e with state := st } else e
  let s := s.upCtx c fun k => { k with journal := k.journal.map f }
  s.jnlStore c (k.jnlVa seq + 9) (natBytes st 1)

/-- Whether YQ takes a record now (R32, R9). -/
def Ctx.yqOpen (k : Ctx) : Bool := k.seqs.x.exited || k.yq.length < 64

/-- Push a record; once X has exited it is discarded (R9). -/
def Ctx.yqPush (k : Ctx) (r : Word) : Ctx := if k.seqs.x.exited then k else { k with yq := k.yq ++ [r] }

/-- A YQ record (R160). -/
def yqRecord (kind seq value : Nat) : Word :=
  BitVec.ofNat 64 (kind * 2 ^ 60 + seq % 2 ^ 28 * 2 ^ 32 + value % 2 ^ 32)

/-- Pop the oldest word of FQ, whose entry becomes STARTED through the once-only guard (R157, R320). A word whose entry is in
another state is discarded. -/
def State.fqPop (s : State) (c : Nat) : Nat → State × Option FqEntry
  | 0 => (s, none)
  | n + 1 =>
    match (s.ctx c).fq with
    | [] => (s, none)
    | e :: rest =>
      let s' := s.upCtx c fun k => { k with fq := rest }
      if (s.ctx c).jnlState e.seq = jQueued then (s'.jnlMark c e.seq jStarted, some e) else s'.fqPop c n

/-- Words go back to the head of FQ, in order, and their entries to QUEUED (R169, R180, R312). -/
def State.fqReturn (s : State) (c : Nat) (es : List FqEntry) : State :=
  es.foldl (fun s e => s.jnlMark c e.seq jQueued) (s.upCtx c fun k => { k with fq := es ++ k.fq })

/-- A popped word is consumed: its entry becomes DONE, or FAILED (R157, R179). -/
def State.fqDone (s : State) (c : Nat) (e : Option FqEntry) (ok : Bool) : State :=
  match e with
  | none => s
  | some e => s.jnlMark c e.seq (if ok then jDone else jFailed)

/-- The end of a timed region (R31, R167, R170): held format words and tokens are consumed, deferred posts are made in order. The word of
an instruction still at work becomes DONE when that instruction completes (R157). -/
def State.endRegion (s : State) (c : Nat) : State :=
  match (s.ctx c).region with
  | none => s
  | some r =>
    let k := s.ctx c
    let open' (e : FqEntry) : Bool :=
      (k.flight.any fun f => f.fword = some e) || k.pend.any fun p => (p.entry.bind (·.fword)) = some e
    ((r.heldFq.filter fun e => !open' e).foldl (fun s e => s.fqDone c (some e) true) s).upCtx c Ctx.endRegion

end Sys2Proof.Machine
end

