-- ==== Sys2Proof/Machine/Control.lean ====
section
/-! DEFINITION. Control flow (R118 to R132), the words that resolve boost (R137), and the vector votes (R139, R140). -/

namespace Sys2Proof.Machine

/-! ## Prepared transfers -/

/-- PBT (R118): the target is stored unchecked, and its bundle is fetched. -/
def execPbt (g : Guard) (bd : BitVec 2) (a : BitVec 5) (imm : BitVec 32) (s : State) : Out :=
  runSeq (.pbt g bd a imm) g true false [a] []
    (fun c st s =>
      let q := s.seq c st
      let base := if a = 0 then q.pc else q.rx a
      let t := base + sext32 imm * 8
      .done ((s.upSeq c st fun q => { q with bt := q.bt.set bd.toNat t }).fetchBundle c st t.toNat)) s

/-- Whether a word stands in one of the last two words of an active body (R126). -/
def inBodyEnd (q : Seq) : Bool := q.loops.any fun e => e.stop = q.pc + 8 || e.stop = q.pc + 16

/-- BT (R120): commit or clear by direction, then two slots and the transfer. The shadow file is the X sequencer's (R14), so COMMIT finds
nothing to commit or clear in another stream. The target is the one that btD holds as BT issues, whatever a slot word writes to it:
DESIGN CHOICE (log 67). -/
def execBt (g : Guard) (bd : BitVec 2) (commit : BitVec 2) (cn : Bool) (cp : BitVec 3) (s : State) : Out :=
  runSeq (.bt g bd commit cn cp) g true true [] []
    (fun c st s =>
      let k := s.ctx c
      let q := k.seq st
      if inBodyEnd q then .trap (mkCause causeLoopState (wordOf (.bt g bd commit cn cp))) s
      else
        let taken := q.rp cp != cn
        let go (s : State) : Res :=
          .jump (s.upSeq c st fun q =>
            { q with pc := q.pc + 8,
                     xfer := some { slots := 2, target := if taken then q.bt[bd.toNat] else q.pc + 24, taken := taken } })
        if commit = 0 || st ≠ .x then go s
        else if (commit = 1 && taken) || (commit = 2 && !taken) then
          if k.boostLoads then .stall .other s
          else match k.commit with
            | .ok k' => go (s.upCtx c fun _ => k')
            | .error e => .trap e s
        else go (s.upCtx c Ctx.clearBoost)) s

/-- CALL (R121): the link, two slots, the transfer, and the successor walk of R123. The target is the one that btN holds as CALL issues,
whatever a slot word writes to it: DESIGN CHOICE (log 67). -/
def execCall (g : Guard) (d : BitVec 5) (bn : BitVec 2) (s : State) : Out :=
  runSeq (.call g d bn) g false true [] [d]
    (fun c st s =>
      let q := s.seq c st
      if q.loops ≠ [] then .trap (mkCause causeLoopState (wordOf (.call g d bn))) s
      else
        let t := q.bt[bn.toNat]
        let s := s.upSeq c st fun q =>
          { (q.wx d (q.pc + 24)) with pc := q.pc + 8, xfer := some { slots := 2, target := t, taken := true } }
        .jump (s.prefetchCall c st t)) s

/-- RET (R121): xA is read when it issues. -/
def execRet (g : Guard) (a : BitVec 5) (s : State) : Out :=
  runSeq (.ret g a) g false true [a] []
    (fun c st s =>
      let q := s.seq c st
      if q.loops ≠ [] then .trap (mkCause causeLoopState (wordOf (.ret g a))) s
      else .jump (s.upSeq c st fun q => { q with pc := q.pc + 8, xfer := some { slots := 2, target := q.rx a, taken := true } })) s

/-! ## Loops -/

/-- CheckNest (R125): whether a new body may be entered. -/
def nestOk (q : Seq) (ld : BitVec 2) (start stop : Word) : Bool :=
  q.loops.length < 4 && (q.loops.all fun e => e.lc ≠ ld) &&
    match q.loops with
    | [] => true
    | e :: _ => decide (e.start.toNat ≤ start.toNat) && decide (stop.toNat ≤ e.stop.toNat)

/-- LOOP (R124, R125). -/
def execLoop (g : Guard) (ld : BitVec 2) (a : BitVec 5) (icount : BitVec 23) (bodylen : BitVec 9) (s : State) : Out :=
  runSeq (.loop g ld a icount bodylen) g false true [a] []
    (fun c st s =>
      let k := s.ctx c
      let q := k.seq st
      let n := if a = 0 then icount.toNat else (q.rx a).toNat
      let start := q.pc + 8
      let stop := start + BitVec.ofNat 64 (8 * bodylen.toNat)
      if 2 ^ 32 ≤ n then .trap (mkCause causeLoopCount (BitVec.ofNat 64 n)) s
      else if n = 0 then .jump (s.upSeq c st fun q => ({ q with pc := stop } : Seq).arrive 4)
      else if !nestOk q ld start stop then .trap (mkCause causeLoopState (wordOf (.loop g ld a icount bodylen))) s
      else
        let buf := if q.loops = [] then s.capture k start stop else q.loopBuf
        .jump (s.upSeq c st fun q =>
          { q with pc := start, lc := q.lc.set ld.toNat (BitVec.ofNat 32 n),
                   loops := { lc := ld, start := start, stop := stop } :: q.loops, loopBuf := buf })) s

/-- BRK (R127). -/
def execBrk (g : Guard) (s : State) : Out :=
  runSeq (.brk g) g false true [] []
    (fun c st s =>
      match (s.seq c st).loops with
      | [] => .trap (mkCause causeLoopState (wordOf (.brk g))) s
      | e :: rest =>
        .jump (s.upSeq c st fun q =>
          ({ q with loops := rest, loopBuf := if rest = [] then [] else q.loopBuf, pc := e.stop } : Seq).arrive 4)) s

/-! ## Ending and signalling -/

/-- TRIG (R130): waits for the X stream's accesses at MODULE scope, then sets the iteration's trigger bit. Engine instructions
ordered before it by a token have completed, since their tokens were posted at completion (R181, R230). -/
def execTrig (g : Guard) (s : State) : Out :=
  runSeq (.trig g) g false false [] []
    (fun c st s =>
      let q := s.seq c st
      if q.loadQ ≠ [] || q.storeQ ≠ [] || !s.ownHome c st 3 then .stall .other s
      else
        let s := s.sendHome c st 3
        .done (s.upCtx c fun k => { k with iter := k.iter.map fun it => { it with trig := true } })) s

/-- Whether a sent engine word of the C stream has not issued. -/
def Ctx.engQueued (k : Ctx) : Bool := k.eqM ≠ [] || k.eqV ≠ [] || k.eqS ≠ []

/-- EXIT (R131): waits for the stream's loads, raises the oldest marked one (R145), then ends the stream. In a timed region it
ends the region, whose words that have yet to issue keep their cycles. -/
def execExit (g : Guard) (s : State) : Out :=
  runSeq (.exit g) g true true [] []
    (fun c st s =>
      let q := s.seq c st
      if q.loadQ.any fun e => e.boost = 0 then .stall .other s
      else match oldestMark q.marks with
        | some m => .trap (mkCause causeMemUncorr m.addr) s
        | none =>
          let s := s.upSeq c st fun q => { q with exited := true, loops := [], loopBuf := [] }
          let s := if st = .x then s.upCtx c Ctx.clearBoost else s
          let s := if st = .c then s.endRegion c else s
          .jump s) s

/-- NOP (R132). -/
def execNop (g : Guard) (s : State) : Out :=
  runSeq (.nop g) g true false [] [] (fun _ _ s => .done s) s

/-- CMTB (R137): Commit of level 1; a poisoned entry raises its recorded fault and both levels clear (R134). -/
def execCmtb (g : Guard) (s : State) : Out :=
  runSeq (.cmtb g) g true false [] []
    (fun c _ s =>
      let k := s.ctx c
      if k.boostLoads then .stall .other s
      else match k.commit with
        | .ok k' => .done (s.upCtx c fun _ => k')
        | .error e => .trap e s) s

/-- CLRB (R137). -/
def execClrb (g : Guard) (s : State) : Out :=
  runSeq (.clrb g) g true false [] [] (fun c _ s => .done (s.upCtx c Ctx.clearBoost)) s

/-! ## Votes -/

/-- Whether an engine word writes a vector predicate: VCMP alone does (R213). -/
def writesPred (i : Instr) (m : BitVec 3) : Bool :=
  match i with
  | .vcmp _ o => o.vd.extractLsb' 0 3 = m
  | _ => false

/-- Whether an earlier vector instruction of the C stream has yet to write a predicate (R140). -/
def predBusy (k : Ctx) (m : BitVec 3) : Bool :=
  (k.eqV.any fun e => writesPred e.instr m) || k.flight.any fun f => f.pw.contains m.toNat

/-- The OR or the AND over the selected elements (R139). -/
def voteOf (k : Ctx) (all : Bool) (ma mb : BitVec 3) (masked : Bool) : Bool :=
  let sel := (List.range k.velems).filter fun i => !masked || k.mbit mb.toNat i
  if all then sel.all fun i => k.mbit ma.toNat i else sel.any fun i => k.mbit ma.toNat i

/-- A vote waits for the writes of its predicates, then writes a scalar predicate. -/
def vote (i : Instr) (all : Bool) (g : Guard) (pd ma mb : BitVec 3) (masked : Bool) (s : State) : Out :=
  runSeq i g false false [] []
    (fun c st s =>
      let k := s.ctx c
      if predBusy k ma || (masked && predBusy k mb) then .stall .other s
      else .done (s.upSeq c st fun q => q.wp pd (voteOf k all ma mb masked))) s

/-- VANY (R139). -/
def execVany (g : Guard) (pd ma mb : BitVec 3) (masked : Bool) (s : State) : Out :=
  vote (.vany g pd ma mb masked) false g pd ma mb masked s

/-- VALL (R139). -/
def execVall (g : Guard) (pd ma mb : BitVec 3) (masked : Bool) (s : State) : Out :=
  vote (.vall g pd ma mb masked) true g pd ma mb masked s

end Sys2Proof.Machine
end

