-- ==== Sys2Proof/Machine/Paging.lean ====
section
/-! DEFINITION. FC2's service of translation faults (R313, R314, R359) and SYSC PREFAULT (R173). -/

namespace Sys2Proof.Machine

/-- Size of a table of each level and of the page that a leaf of each level maps (R356). -/
def tableBytes (lvl : Nat) : Nat := lvlEntries lvl * 8
def pageBytes (lvl : Nat) : Nat := 2 ^ lvlShift lvl

/-- The entries of a table that may read as other than 0, in order: those with a byte that memory lists, or all of them where some of the table is
stored under another key than FC2's (R351). -/
def State.tableSlots (s : State) (table n : Nat) : List Nat :=
  let other (k : Nat) : Bool := k ≠ 0 && k ≠ s.keyAt 4096
  let lo := table / 128
  let hi := cdiv (table + 8 * n) 128
  if (s.sectorKey.any fun e => decide (lo ≤ e.1) && decide (e.1 < hi) && other e.2) ||
      (s.keySpans.any fun r => decide (r.1 < hi) && decide (lo < r.2.1) && other r.2.2) then List.range n
  else ((sslice s.mem table (table + 8 * n)).map fun e => e.1 / 8).eraseDups

/-- The valid, well-formed entries of a table. -/
def State.tableEntries (s : State) (table lvl : Nat) : List Word :=
  ((s.tableSlots table (lvlEntries lvl)).map fun i => (BitVec.ofNat 64 (leNat (s.homeBytes 4096 (table + 8 * i) 8)) : Word)).filter
    fun e => bitN e 0 && !malformed e lvl

/-- Physical ranges that the leaves and the tables below a table take. -/
def State.usedBelow (s : State) : Nat → Nat → List (Nat × Nat)
  | lvl, table =>
    (s.tableEntries table lvl).flatMap fun e =>
      let a := bitsN e 51 8 * 256
      if bitN e 1 then [(a, pageBytes lvl)]
      else match lvl with
        | 0 => []
        | n + 1 => (a, tableBytes n) :: s.usedBelow n a

/-- Physical ranges of a function that are not free (R359): its pages, its tables, and the pages that its berths pin. -/
def State.usedRanges (s : State) (vf : Nat) : List (Nat × Nat) :=
  let v := s.vf vf
  (v.root, tableBytes 4) :: s.usedBelow 4 v.root ++ v.berths.flatMap fun b => b.segs.flatMap fun g => g.pages.map fun p => (p, 65536)

/-- The lowest free 64 KiB pages at or above `p` and below `limit`, at most `n`. The fuel bounds the pages and ranges passed. -/
def freePages (used : List (Nat × Nat)) (limit : Nat) : Nat → Nat → Nat → List Nat
  | 0, _, _ => []
  | fuel + 1, p, n =>
    if n = 0 || limit < p + 65536 then []
    else match used.find? fun u => decide (u.1 < p + 65536) && decide (p < u.1 + u.2) with
      | some u => freePages used limit fuel (cdiv (u.1 + u.2) 65536 * 65536) n
      | none => p :: freePages used limit fuel (p + 65536) (n - 1)

/-- A page is filled with zeros under the key of a slot: its bytes, its errors and its copies go. -/
def State.zeroPage (s : State) (key pa n : Nat) : State :=
  let out (x sz : Nat) : Bool := x * sz + sz ≤ pa || pa + n ≤ x * sz
  { (s.l2span key pa n true).keySpan key (pa / 128) ((pa + n) / 128) with
    mem := sclear s.mem pa (pa + n)
    uncorr := s.uncorr.filter fun x => out x 128
    rdc := s.rdc.filter fun r => out r.line 1024 }

/-- FC2 writes a table entry. -/
def State.putEntry (s : State) (pa : Nat) (e : Word) : State := (s.homeStore 0 4096 none 0 pa (natBytes e.toNat 8)).1

/-- A table pointer and a level-0 leaf (R356). -/
def tableEntry (pa : Nat) : Word := BitVec.ofNat 64 (pa + 1)
def leafEntry (pa : Nat) (rd w : Bool) : Word := BitVec.ofNat 64 (pa + 3 + b2n rd * 4 + b2n w * 8)

/-- Whether a demand range holds an address and grants a need. -/
def demandGrants (r : DemandRange) (va : Nat) (wr : Bool) : Bool :=
  decide (r.va.toNat ≤ va) && decide (va < r.va.toNat + r.pages * 65536) && (if wr then r.w else r.rd)

/-- ZEROFILL (R359): the state with the page mapped, or none when FC2 declines. A page that another context's fault has mapped since is
mapped (R314). -/
def State.zeroFill (s : State) (vf va : Nat) (wr : Bool) : Option State :=
  let v := s.vf vf
  match v.ranges.find? fun r => demandGrants r va wr with
  | none => none
  | some r =>
    match s.walk vf va with
    | .leaf _ e _ => if bitN e 2 && (!wr || bitN e 3) then some s else none
    | .miss true _ _ => none
    | .miss false lvl table =>
      if 3 ≤ lvl then none
      else
        let used := s.usedRanges vf
        let pages := freePages used v.winLimit (used.length + 8) (cdiv v.winBase 65536 * 65536) (lvl + 1)
        if pages.length < lvl + 1 then none
        else
          let s := pages.zipIdx.foldl (fun s e => s.zeroPage (if e.2 < lvl then 4096 else vf) e.1 65536) s
          match lvl, pages with
          | 0, [p] => some (s.putEntry (entryPa table 0 va) (leafEntry p r.rd r.w))
          | 1, [t, p] =>
            some ((s.putEntry (entryPa table 1 va) (tableEntry t)).putEntry (entryPa t 0 va) (leafEntry p r.rd r.w))
          | 2, [u, t, p] =>
            some (((s.putEntry (entryPa table 2 va) (tableEntry u)).putEntry (entryPa u 1 va) (tableEntry t)).putEntry
              (entryPa t 0 va) (leafEntry p r.rd r.w))
          | _, _ => none

/-- FC2's answer to a fault. -/
inductive Answer
  | mapped
  | declined
  | record (n : Nat)
deriving DecidableEq, Repr

/-- The 64 bytes of a fault record (R359). -/
def FaultRec.bytes (r : FaultRec) : List Byte :=
  fit 64 (natBytes 0x0210 2 ++ natBytes r.vf 2 ++ natBytes r.need 1 ++ zeros 3 ++ natBytes r.num 8 ++ natBytes r.va.toNat 8 ++
    natBytes r.ctx 2 ++ zeros 6 ++ natBytes r.tide 8)

/-- Whether a function's tree maps an address with the right that an access needs. -/
def State.grants (s : State) (vf va : Nat) (wr : Bool) : Bool :=
  match s.walk vf va with
  | .leaf _ e _ => if wr then bitN e 3 else bitN e 2
  | .miss _ _ _ => false

/-- FC2 serves a translation fault under the function's policy (R359). A page that has been mapped or remapped since the access faulted is
served, against the entry it now has, and a page with a record awaiting its answer gets no second one (R314). -/
def State.serveFault (s : State) (c vf : Nat) (va : Word) (wr : Bool) : State × Answer :=
  if s.grants vf va.toNat wr then (s, .mapped)
  else match (s.vf vf).paging with
  | 1 => match s.zeroFill vf va.toNat wr with
    | some s' => (s', .mapped)
    | none => (s, .declined)
  | 2 =>
    match s.faults.find? fun r => r.vf = vf && r.va.toNat / 65536 = va.toNat / 65536 with
    | some r => (s, .record r.num)
    | none =>
      let r : FaultRec :=
        { num := s.nextFault, vf := vf, ctx := ctxid c, va := va, need := if wr then 2 else 1, tide := s.tide }
      ({ (s.logPf (.raw r.bytes)) with faults := s.faults ++ [r], nextFault := s.nextFault + 1 }, .record r.num)
  | _ => (s, .declined)

/-- Whether a function's tree maps an address. -/
def State.mapped (s : State) (vf va : Nat) : Bool :=
  match s.walk vf va with
  | .leaf _ _ _ => true
  | .miss _ _ _ => false

/-- Map ahead the 64 KiB pages of [va, va + 65536 × n) that ZEROFILL grants for reading: the state and how many were newly mapped. -/
def State.prefault (s : State) (vf va : Nat) : Nat → State × Nat
  | 0 => (s, 0)
  | n + 1 =>
    let (s, m) := if s.mapped vf va then (s, 0) else match s.zeroFill vf va false with
      | some s' => (s', 1)
      | none => (s, 0)
    let (s, k) := s.prefault vf (va + 65536) n
    (s, m + k)

/-- PREFAULT over a byte range: the pages of each demand range that meet it, under the ZEROFILL policy (R173, R359; log 27). -/
def State.prefaultRange (s : State) (vf lo len : Nat) : State × Nat :=
  if (s.vf vf).paging ≠ 1 || len = 0 then (s, 0)
  else
    (s.vf vf).ranges.foldl (fun (a : State × Nat) r =>
      let first := max (lo / 65536) (r.va.toNat / 65536)
      let last := min ((lo + len - 1) / 65536 + 1) (r.va.toNat / 65536 + r.pages)
      let (s, n) := a.1.prefault vf (first * 65536) (last - first)
      (s, a.2 + n)) (s, 0)

end Sys2Proof.Machine
end

