-- ==== Sys2Proof/Machine/Save.lean ====
section
/-! DEFINITION. The save area of a context in device memory (R23, R303, R317, R349): where its items stand, and how tiles, directory
entries and vector registers are laid out in it. The items follow one another in the order of R317's table; of the control area R303
lays out the frame, barriers and the anchors and flags of tiles follow it, and the rest of it stays in the context's own record (log 69). -/

namespace Sys2Proof.Machine

/-! ## Where the items stand -/

/-- Offsets of the vector registers and of the tiles, and the bytes of one tile (R317, R349). -/
def areaVec : Nat := 16384
def areaTiles : Nat := areaVec + 132096
def tileBytes : Nat := 196608

/-- Blocks of a context's scratchpad allotment (R24). -/
def Ctx.blocks (k : Ctx) : Nat := k.endBlk - k.baseBlk

/-- Addresses of a saved tile, of the saved scratchpad and of the saved directory entries. -/
def Ctx.areaTile (k : Ctx) (t : Nat) : Nat := k.saveArea + areaTiles + tileBytes * t
def Ctx.areaSpad (k : Ctx) : Nat := k.areaTile k.acount
def Ctx.areaDir (k : Ctx) : Nat := k.areaSpad + 16384 * k.blocks

/-- Bytes of a whole save area (R317). -/
def Ctx.areaBytes (k : Ctx) : Nat := k.areaDir + 8 * k.blocks - k.saveArea

/-- FC1 replaces `n` bytes of a save area, given those that are not zero: its stores perform at the home slices (R346) in class 0 (R361), under
key index 4,096, and one that covers an uncorrectable sector heals it (R353). -/
def State.areaPut (s : State) (pa n : Nat) (cells : Sparse Byte) : State :=
  let s := ((s.holdWait 4096 pa n true).l2span 4096 pa n true).keySpan 4096 (pa / 128) (cdiv (pa + n) 128)
  { s with
    mem := ssets 0 (sclear s.mem pa (pa + n)) (cells.map fun e => (pa + e.1, e.2))
    uncorr := s.uncorr.filter fun x => !(decide (pa ≤ x * 128) && decide (x * 128 + 128 ≤ pa + n)) }

/-- `n` bytes of a save area, as those that are not zero. -/
def State.areaGet (s : State) (pa n : Nat) : Sparse Byte := sslice s.mem pa (pa + n)

/-- The first uncorrectable sector of a range, as its number. -/
def State.badSector (s : State) (pa n : Nat) : Option Nat := s.uncorr.find? fun x => decide (pa < x * 128 + 128) && decide (x * 128 < pa + n)

/-! ## Tiles (R349) -/

/-- The residue of an element (R59) and its word of tag, check and count (R349). -/
def Elem.residue (e : Elem) : BitVec 64 := e.c3 ++ e.c2 ++ e.c1
def Elem.tagWord (e : Elem) : Nat := e.tag.toNat + e.check.toNat * 4 + e.count * 2 ^ 10

/-- The element that a residue and a word hold. -/
def Elem.ofWords (r : BitVec 64) (w : Nat) : Elem :=
  { c1 := r.extractLsb' 0 21, c2 := r.extractLsb' 21 21, c3 := r.extractLsb' 42 22, tag := BitVec.ofNat 2 w,
    check := BitVec.ofNat 8 (w / 4), count := w / 2 ^ 10 % 2 ^ 19 }

/-- The 196,608 bytes of a saved tile, as those that are not zero: residues first. -/
def tileCells (es : Sparse Elem) : Sparse Byte :=
  let put (o : Nat) (bs : List Byte) : List (Nat × Byte) := (keyed o bs).filter fun e => e.2 ≠ 0
  (es.flatMap fun e => put (8 * e.1) (natBytes e.2.residue.toNat 8)) ++
    es.flatMap fun e => put (131072 + 4 * e.1) (natBytes e.2.tagWord 4)

/-- The elements that the bytes of a saved tile hold. -/
def tileElems (bs : Sparse Byte) : Sparse Elem :=
  let at' := (bs.map fun e => if e.1 < 131072 then e.1 / 8 else (e.1 - 131072) / 4).eraseDups
  ssets Elem.zero [] (at'.map fun i =>
    (i, Elem.ofWords (BitVec.ofNat 64 (leNat (sbytes bs (8 * i) 8))) (leNat (sbytes bs (131072 + 4 * i) 4))))

/-- Anchor and flags of a tile in eight bytes of the control area, and back (R317; log 69). -/
def Tile.statWord (x : Tile) : Nat :=
  x.anchor.toNat + 2 ^ 12 * b2n x.wmHold + 2 ^ 13 * b2n x.partialBit + 2 ^ 14 * b2n x.chkerr + 2 ^ 15 * b2n x.depth + 2 ^ 16 * b2n x.inx +
    2 ^ 17 * b2n x.wovf + 2 ^ 18 * b2n x.general + 2 ^ 19 * b2n x.special
def Tile.ofStat (n : Nat) (es : Sparse Elem) : Tile :=
  { elems := es, anchor := BitVec.ofNat 12 n, wmHold := n.testBit 12, partialBit := n.testBit 13, chkerr := n.testBit 14, depth := n.testBit 15,
    inx := n.testBit 16, wovf := n.testBit 17, general := n.testBit 18, special := n.testBit 19 }

/-- A barrier in sixteen bytes of the control area, and back (R317; log 69). -/
def Barrier.bytes (b : Barrier) : List Byte :=
  natBytes (b2n b.init + 2 * b2n b.phase) 4 ++ natBytes b.expect 4 ++ natBytes b.pending 4 ++ natBytes (BitVec.ofInt 32 b.tx).toNat 4
def Barrier.ofBytes (bs : List Byte) : Barrier :=
  { init := (fieldN bs 0 4).testBit 0, phase := (fieldN bs 0 4).testBit 1, expect := fieldN bs 4 4, pending := fieldN bs 8 4,
    tx := (BitVec.ofNat 32 (fieldN bs 12 4)).toInt }

/-- Where the barriers and the anchors and flags of the tiles stand in the control area, behind the frame (R303, R317; log 69). -/
def Ctx.areaBar (k : Ctx) (b : Nat) : Nat := k.saveArea + 5120 + 16 * b
def Ctx.areaStat (k : Ctx) (t : Nat) : Nat := k.saveArea + 7168 + 8 * t

/-- Bytes as those that are not zero. -/
def cellsOf (bs : List Byte) : Sparse Byte := (keyed 0 bs).filter fun e => e.2 ≠ 0

/-- A tile of a saved context. -/
def State.savedTile (s : State) (k : Ctx) (t : Nat) : Tile :=
  Tile.ofStat (leNat (sbytes (s.areaGet (k.areaStat t) 8) 0 8)) (tileElems (s.areaGet (k.areaTile t) tileBytes))

/-- A barrier of a saved context. -/
def State.savedBar (s : State) (k : Ctx) (b : Nat) : Barrier := Barrier.ofBytes (sbytes (s.areaGet (k.areaBar b) 16) 0 16)

/-- Replace a tile of a saved context. -/
def State.putSavedTile (s : State) (k : Ctx) (t : Nat) (x : Tile) : State :=
  (s.areaPut (k.areaTile t) tileBytes (tileCells x.elems)).areaPut (k.areaStat t) 8 (cellsOf (natBytes x.statWord 8))

/-- An element restored from a save area is entered whole (R64): its term count is the least that its value needs. The check residue stays the
saved one (log 70). -/
def Elem.restored (e : Elem) : Elem × TileFlags :=
  let z := if e.tag = tagFinite then e.crt else 0
  let (x, f) := Elem.zero.enter (weightOf z) e.tag z
  (if e.tag = tagFinite && !f.depth then { e with count := x.count } else x, f)

/-- A tile restored from a save area (R64). -/
def Tile.restored (x : Tile) : Tile :=
  x.elems.foldl (fun t e =>
    let (y, f) := e.2.restored
    { t with elems := sset Elem.zero t.elems e.1 y }.orFlags f) x

/-! ## Directory entries and vector registers -/

/-- Directory entries as bytes, those that are not zero, and back. -/
def dirCells (d : Sparse Word) : Sparse Byte :=
  d.flatMap fun e => (keyed (8 * e.1) (natBytes e.2.toNat 8)).filter fun b => b.2 ≠ 0
def dirOf (bs : Sparse Byte) : Sparse Word :=
  ssets 0 [] ((bs.map fun e => e.1 / 8).eraseDups.map fun i => (i, BitVec.ofNat 64 (leNat (sbytes bs (8 * i) 8))))

/-- The directory entries of a saved context. -/
def State.savedDir (s : State) (k : Ctx) : Sparse Word := dirOf (s.areaGet k.areaDir (8 * k.blocks))

/-- Vector registers and then vector predicates, as those bytes that are not zero. -/
def vecCells (v : Sparse Byte) (m : Vector (BitVec 1024) 8) : Sparse Byte :=
  v ++ m.toList.zipIdx.flatMap fun e => (keyed (131072 + 128 * e.2) (natBytes e.1.toNat 128)).filter fun b => b.2 ≠ 0

/-- A saved vector predicate. -/
def predOf (bs : Sparse Byte) (i : Nat) : BitVec 1024 := BitVec.ofNat 1024 (leNat (sbytes bs (131072 + 128 * i) 128))

/-! ## Out and in -/

/-- The sectors of the save area that the bad words of a context's scratchpad go to (R348). -/
def State.badOut (s : State) (k : Ctx) : List Nat :=
  (((s.core k.coreNo).spadErr.filter fun w => decide (k.baseBlk * 2048 ≤ w) && decide (w < k.endBlk * 2048)).map fun w =>
    (k.areaSpad + (w - k.baseBlk * 2048) * 8) / 128).eraseDups

/-- The items of R317 go to the save area, and the core keeps nothing of the context's allotment. The vector registers of the context's
record empty, since the save area then holds them. An uncorrectable word of the scratchpad is saved as a poisoned sector (log 82). -/
def State.saveItems (s : State) (c : Nat) : State :=
  let k := s.ctx c
  let h := s.core k.coreNo
  let bad := s.badOut k
  let s := (List.range k.bcount).foldl (fun s i =>
    s.areaPut (k.areaBar i) 16 (cellsOf (vgetD h.bars (k.bbase + i) Barrier.raw).bytes)) s
  let s := s.areaPut (k.saveArea + areaVec) 132096 (vecCells k.v k.m)
  let s := (List.range k.acount).foldl (fun s i => s.putSavedTile k i (vgetD h.tiles (k.abase + i) Tile.zero)) s
  let s := s.areaPut k.areaSpad (16384 * k.blocks) (sslice h.spad (k.baseBlk * 16384) (k.endBlk * 16384))
  let s := s.areaPut k.areaDir (8 * k.blocks) (dirCells (sslice h.dir k.baseBlk k.endBlk))
  let s := { s with uncorr := s.uncorr ++ bad }
  s.upCtx c fun k => { k with saved := true, v := [], m := Vector.replicate 8 0 }

/-- The items of a saved context are written back to a core at an allotment's bases (R319): FC1 reads the save area in class 0 (R361), the
elements of its tiles are entered whole (R64), and the words of a poisoned sector of the saved scratchpad are uncorrectable again (R348,
R353; log 82). -/
def State.restoreItems (s : State) (c core b a r : Nat) : State :=
  let k := s.ctx c
  let s := (s.holdWait 4096 k.saveArea k.areaBytes false).l2span 4096 k.saveArea k.areaBytes false
  let vec := s.areaGet (k.saveArea + areaVec) 132096
  let spad := s.areaGet k.areaSpad (16384 * k.blocks)
  let dir := s.savedDir k
  let tiles := (List.range k.acount).map fun i => (s.savedTile k i).restored
  let bars := (List.range k.bcount).map fun i => s.savedBar k i
  let bad := (s.uncorr.filter fun x => decide (k.areaSpad ≤ x * 128) && decide (x * 128 < k.areaSpad + 16384 * k.blocks)).flatMap fun x =>
    (List.range 16).map fun i => b * 2048 + (x * 128 - k.areaSpad) / 8 + i
  let s := s.upCore core fun h =>
    { h with
      spad := ssets 0 (sclear h.spad (b * 16384) ((b + k.blocks) * 16384)) (spad.map fun e => (b * 16384 + e.1, e.2))
      spadErr := (h.spadErr.filter fun w => !(decide (b * 2048 ≤ w) && decide (w < (b + k.blocks) * 2048))) ++ bad
      dir := ssets 0 (sclear h.dir b (b + k.blocks)) (dir.map fun e => (b + e.1, e.2))
      tiles := (tiles.zipIdx).foldl (fun v e => vmod v (a + e.2) fun _ => e.1) h.tiles
      bars := (bars.zipIdx).foldl (fun v e => vmod v (r + e.2) fun _ => e.1) h.bars }
  s.upCtx c fun k =>
    { k with saved := false, v := vec.filter fun e => e.1 < 131072, m := Vector.ofFn fun i : Fin 8 => predOf vec i.val }

/-- The first uncorrectable sector of a save area outside the scratchpad's part, whose error FC1 meets as it restores the context (R350). -/
def State.areaError (s : State) (k : Ctx) : Option Nat :=
  (s.badSector k.saveArea (k.areaSpad - k.saveArea)).orElse fun _ => s.badSector k.areaDir (8 * k.blocks)

end Sys2Proof.Machine
end

