-- ==== Sys2Proof/Machine/Store.lean ====
section
/-! DEFINITION. The words of the writable control store and its base region (R261, R263, R268 to R270), and the record of a base routine
that runs in an engine's micro-sequencer (R267, R278, R283, R284). -/

namespace Sys2Proof.Machine

/-! ## Micro-words (R268) -/

/-- A micro-word by fields. -/
structure MWord where
  seqOp : Nat
  cneg : Bool
  csel : Nat
  tgt : Nat
  mlc : Nat
  lop : Nat
  ld : Nat
  la : Nat
  lb : Nat
  lf : Nat
  lrm : Nat
  lmk : Nat
  lind : Bool
  mop : Nat
  mt : Nat
  mx : Nat
  aop : Nat
  ag : Nat
  av : Nat
  at' : Nat
  bit48 : Bool
  sop : Nat
  sr : Nat
  sa : Nat
  sn : Nat
  top : Nat
  td : Nat
  ta : Nat
  tb : Nat
  immsel : Bool
  imm : Nat
deriving DecidableEq, Repr

def mwordOf (w : BitVec 128) : MWord :=
  let f (hi lo : Nat) : Nat := w.toNat / 2 ^ lo % 2 ^ (hi + 1 - lo)
  { seqOp := f 127 124, cneg := w.getLsbD 123, csel := f 122 120, tgt := f 119 107, mlc := f 106 106, lop := f 105 102, ld := f 101 97,
    la := f 96 92, lb := f 91 87, lf := f 86 83, lrm := f 82 81, lmk := f 80 77, lind := w.getLsbD 76, mop := f 75 72, mt := f 71 69,
    mx := f 68 64, aop := f 63 60, ag := f 59 57, av := f 56 52, at' := f 51 49, bit48 := w.getLsbD 48, sop := f 47 44, sr := f 43 39,
    sa := f 38 36, sn := f 35 32, top := f 31 28, td := f 27 25, ta := f 24 22, tb := f 21 19, immsel := w.getLsbD 18, imm := f 17 0 }

/-- The header and the words of an image section as bytes (R106, R261). -/
def imageBytes (ws : List (BitVec 128)) : List Byte := natBytes ws.length 4 ++ zeros 12 ++ ws.flatMap fun w => natBytes w.toNat 16

/-! ## Temporaries and sequencing (R269, R270) -/

/-- Temporary `i` as it stood before the step. -/
def Micro.t (m : Micro) (i : Nat) : Word := vgetD m.mt i 0

/-- Write temporary `i`. -/
def Micro.setT (m : Micro) (i : Nat) (v : Word) : Micro := { m with mt := vmod m.mt i fun _ => v }

/-- Result, carry of the arithmetic temporary operations (R270). -/
def topAlu (op : Nat) (a b : Word) : Word × Bool :=
  match op with
  | 1 => (a + b, decide (2 ^ 64 ≤ a.toNat + b.toNat))
  | 2 => (a - b, decide (a.toNat < b.toNat))
  | 3 => (a &&& b, false)
  | 4 => (a ||| b, false)
  | 5 => (a ^^^ b, false)
  | 6 => (a <<< (b.toNat % 64), false)
  | _ => (a >>> (b.toNat % 64), false)

/-- What the temporary slot does to the record, but for RDX and WRX (R270). -/
def MWord.tempOp (w : MWord) (m0 : Micro) (arg : Nat) (m : Micro) : Micro :=
  let a := m0.t w.ta
  let simm : Word := BitVec.ofInt 64 (sInt 18 w.imm)
  let b := if w.immsel then simm else m0.t w.tb
  match w.top with
  | 0 => m
  | 8 => m.setT w.td a
  | 9 => m.setT w.td simm
  | 10 => m.setT w.td (BitVec.ofNat 64 (arg / 2 ^ (w.imm % 64) % 2 ^ (w.imm / 64)))
  | 11 => if w.td % 2 = 0 then { m with mlc0 := a.extractLsb' 0 32 } else { m with mlc1 := a.extractLsb' 0 32 }
  | 12 => m
  | 13 => m
  | n =>
    let r := topAlu n a b
    { (m.setT w.td r.1) with z := r.1 = 0, n := r.1.msb, c := r.2 }

/-- The condition of a JUMP (R269). -/
def MWord.cond (w : MWord) (m : Micro) : Bool :=
  (match w.csel with
    | 0 => true
    | 1 => m.z
    | 2 => m.n
    | 3 => m.c
    | 4 => m.mlc0 = 0
    | _ => m.mlc1 = 0) != w.cneg

/-- The sequencing slot (R269): the next MPC, the counter of LOOP, and the end. -/
def MWord.runSeqOp (w : MWord) (m0 m : Micro) : Micro :=
  let next : Micro := { m with mpc := m0.mpc + 1, steps := m0.steps + 1 }
  match w.seqOp with
  | 1 => if w.cond m0 then { next with mpc := w.tgt } else next
  | 2 =>
    let v := (if w.mlc = 0 then m0.mlc0 else m0.mlc1) - 1
    let next : Micro := if w.mlc = 0 then { next with mlc0 := v } else { next with mlc1 := v }
    if v ≠ 0 then { next with mpc := w.tgt } else next
  | 3 => { next with fin := true }
  | _ => next

/-! ## The base region (R261, R263, R283, R284) -/

/-- The entry word of an engine instruction's base routine, by opcode: the published listings (R283, R284), else one that the spec does
not give (log 75). -/
def baseEntry (opc : BitVec 8) : Nat :=
  match opc.toNat with
  | 0x60 => 0x600
  | 0x61 => 0x610
  | 0x62 => 0x620
  | 0x75 => 0x680
  | _ => (Config.baseEntry opc).toNat

/-- The lane code of a common-layout vector instruction of R209 to R212 (R272); for one that R272 gives none, that of the firmware image,
which the spec does not give (log 75). -/
def baseLane (opc : BitVec 8) : Nat :=
  match opc.toNat with
  | 0x75 => 1
  | 0x76 => 2
  | 0x77 => 3
  | 0x78 => 4
  | 0x79 => 5
  | 0x7A => 6
  | 0x73 => 7
  | 0x74 => 8
  | _ => (mwordOf (Config.baseWord (baseEntry opc + 1))).lop

/-- The two words of the base routine of a common-layout vector instruction, which differ only in LOP (R283). -/
def laneRoutine (opc : BitVec 8) : List (Nat × BitVec 128) :=
  [(baseEntry opc, 0xAE000680), (baseEntry opc + 1, BitVec.ofNat 128 (0x30000000000010000000000000000000 + baseLane opc * 2 ^ 102))]

/-- The base routines of the common-layout vector instructions of R209 to R212, by opcode (R283). -/
def laneRoutines : List (Nat × BitVec 128) := (List.range 17).flatMap fun i => laneRoutine (BitVec.ofNat 8 (0x73 + i))

/-- A word of the base region: as the spec's listings give it, else a word of the firmware image that the spec does not give (log 75). -/
def State.baseWord (s : State) (n : Nat) : BitVec 128 :=
  match (s.wcsBase ++ laneRoutines).find? fun e => e.1 = n with
  | some e => e.2
  | none => Config.baseWord n

/-- The state in which an engine's micro-sequencer starts a base routine (R267). -/
def Micro.start (word : Word) : Micro := { active := true, base := true, word := word, mpc := baseEntry (word.extractLsb' 56 8) }

/-- One step of a base routine on the record: `fw` is the format word that it pops, `n` its slab count (R270, R273). -/
def MWord.baseStep (w : MWord) (fw : Word × Nat) (n : Nat) (m0 : Micro) : Micro :=
  let m := w.tempOp m0 (bitsN m0.word 25 0) m0
  w.runSeqOp m0 (match w.mop with
    | 1 => { m.setT w.mt fw.1 with mword := some fw }
    | 2 => { m.setT w.mt (BitVec.ofNat 64 n) with bound := true, form := w.mx, mops := (m0.t w.mt).extractLsb' 0 26, slabs := 0 }
    | 4 => { m with slabs := m0.slabs + 1 }
    | 5 => { m with bound := false }
    | _ => m)

/-- The record after a number of steps of a base routine of the base region. -/
def State.baseRun (s : State) (fw : Word × Nat) (n : Nat) : Nat → Micro → Micro
  | 0, m => m
  | k + 1, m => s.baseRun fw n k ((mwordOf (s.baseWord m.mpc)).baseStep fw n m)

end Sys2Proof.Machine
end

