-- ==== Sys2Proof/Machine/Memory.lean ====
section
/-! DEFINITION. Loads, stores, ordering words and atomics of the sequencers (R143 to R152), and the events by which their queues
perform (R287 to R298). -/

namespace Sys2Proof.Machine

/-! ## Fields -/

/-- Access size of a width code. -/
def sizeOf' (w : BitVec 2) : Nat := 2 ^ w.toNat

/-- The effective address of LD, ST, LDS and STS. -/
def effAddr (base : Word) (imm : BitVec 32) : Word := base + sext32 imm

/-- The bytes loaded as a register value: zero- or sign-extended (R146). -/
def loadValue (u : Bool) (bs : List Byte) : Word :=
  let v := leNat bs
  if u then BitVec.ofNat 64 v else BitVec.ofInt 64 (sInt (8 * bs.length) v)

/-- An offset of the scratchpad as checked by LDS and STS (R148): the physical offset, or the cause. -/
def Ctx.spCheck (k : Ctx) (o : Word) (n : Nat) : Except Cause Nat :=
  if 2 ^ 24 ≤ o.toNat then .error (mkCause causeAllotRange (kindAddr 1 o.toNat))
  else if o.toNat % n ≠ 0 then .error (mkCause causeMisaligned o)
  else match k.spPhys o.toNat n with
    | none => .error (mkCause causeAllotRange (kindAddr 1 o.toNat))
    | some p => .ok p

/-- Sector space of a queue entry: scratchpad or memory. -/
def QEntry.isSp (e : QEntry) : Bool := e.kind = .lds || e.kind = .sts

/-- Whether two entries touch one 128-byte sector (R288). -/
def QEntry.meets (a b : QEntry) : Bool := a.isSp = b.isSp && sameSector a.pa a.len b.pa b.len

/-! ## Issue -/

/-- Enter an entry into queues of a stream. -/
def State.enqueue (s : State) (c : Nat) (st : Stream) (ld stq : Bool) (e : QEntry) : State :=
  s.upSeq c st fun q =>
    { q with loadQ := if ld then q.loadQ ++ [e] else q.loadQ, storeQ := if stq then q.storeQ ++ [e] else q.storeQ }

/-- Issue a load whose check gave `r`; a boosted one records a failure instead of trapping (R134). -/
def issueLoad (g : Guard) (d : BitVec 5) (c : Nat) (st : Stream) (e : QEntry) : State × Except Cause (Nat × Nat) → Res
  | (s, .error cause) =>
    if g.boost = 0 then .trap cause s
    else .done (s.upCtx c fun k => k.wShadow g.boost.toNat false d.toNat 0 (some cause) (s.seq c st).pc)
  | (s, .ok (pa, key)) =>
    let s := if g.boost = 0 then s else s.upCtx c fun k => k.wShadow g.boost.toNat false d.toNat 0 none (s.seq c st).pc
    .done (s.enqueue c st true false { e with pa := pa, key := key, ord := (s.seq c st).ord, reg := d, boost := g.boost.toNat })

/-- Issue LD or LDS: as `runSeq` when unboosted, through the shadow of its level when boosted (R133, R134); `span` says whether it may issue in a
boost span (R136). `go` makes the checks
with the base register's value. A boosted form whose base register is marked by an uncorrectable load traps as any reader does (R145):
R134 speaks of the load's own fault, DESIGN CHOICE (log 67). -/
def runLoad (i : Instr) (g : Guard) (span : Bool) (d a : BitVec 5) (go : Word → Nat → Stream → State → Res) (s : State) : Out :=
  if g.boost = 0 then
    runSeq i g span false [a] [d] (fun c st s => go ((s.seq c st).rx a) c st s) s
  else match s.turn with
    | .agents => .next s
    | .issue c st _ =>
      let k := s.ctx c
      let q := k.seq st
      let lv := g.boost.toNat
      finishRes i c st <|
        if [a, d].any (owed q) then .stall .other s
        else match k.poisonAt lv [a] [g.gp], k.poisonAt lv [] [g.gp] with
          | some p, some _ => .done (s.upCtx c fun k => k.wShadow lv false d.toNat 0 (some p) q.pc)
          | p, _ =>
            if k.rpAt st lv g.gp = g.gn then .done s
            else match p with
              | some p => .done (s.upCtx c fun k => k.wShadow lv false d.toNat 0 (some p) q.pc)
              | none => match markOf q ([a].filter fun r => (k.boost.find lv false r.toNat).isNone) with
                | some m => .trap (mkCause causeMemUncorr m.addr) s
                | none => go (k.rxAt st lv a) c st s

/-- LD (R146). -/
def execLd (g : Guard) (d a : BitVec 5) (w : BitVec 2) (u acq : Bool) (scope : BitVec 3) (imm : BitVec 32) (s : State) : Out :=
  runLoad (.ld g d a w u acq scope imm) g (!acq) d a
    (fun base c st s =>
      let k := s.ctx c
      let n := sizeOf' w
      let ea := effAddr base imm
      let e := k.effScope scope.toNat
      let r := s.checkVa k.core k.vf .rd ea n
      let r := match r.2 with
        | .ok _ => if acq then (r.1.upCtx c fun k => k.countClamp e.2, r.2) else r
        | .error _ => r
      issueLoad g d c st { ord := 0, kind := .ld, va := ea, len := n, ext := u, ordered := acq, scope := e.1 } r) s

/-- LDS (R148). -/
def execLds (g : Guard) (d a : BitVec 5) (w : BitVec 2) (u : Bool) (imm : BitVec 32) (s : State) : Out :=
  runLoad (.lds g d a w u imm) g true d a
    (fun base c st s =>
      let o := effAddr base imm
      let n := sizeOf' w
      issueLoad g d c st { ord := 0, kind := .lds, va := o, len := n, ext := u }
        (s, ((s.ctx c).spCheck o n).map fun p => (p, 0))) s

/-- ST (R147). -/
def execSt (g : Guard) (a b : BitVec 5) (w : BitVec 2) (rel : Bool) (scope : BitVec 3) (imm : BitVec 32) (s : State) : Out :=
  runSeq (.st g a b w rel scope imm) g false false [a, b] []
    (fun c st s =>
      let k := s.ctx c
      let q := k.seq st
      let n := sizeOf' w
      let ea := effAddr (q.rx a) imm
      let e := k.effScope scope.toNat
      match s.checkVa k.core k.vf .wr ea n with
      | (s, .error cause) => .trap cause s
      | (s, .ok (pa, key)) =>
        let s := if rel then s.upCtx c fun k => k.countClamp e.2 else s
        .done (s.enqueue c st false true
          { ord := q.ord, kind := .st, va := ea, pa := pa, len := n, key := key, ordered := rel, scope := e.1, data := q.rx b })) s

/-- STS (R148). -/
def execSts (g : Guard) (a b : BitVec 5) (w : BitVec 2) (imm : BitVec 32) (s : State) : Out :=
  runSeq (.sts g a b w imm) g false false [a, b] []
    (fun c st s =>
      let k := s.ctx c
      let q := k.seq st
      let n := sizeOf' w
      let o := effAddr (q.rx a) imm
      match k.spCheck o n with
      | .error cause => .trap cause s
      | .ok p => .done (s.enqueue c st false true { ord := q.ord, kind := .sts, va := o, pa := p, len := n, data := q.rx b })) s

/-- MARK (R149): a place in both queues; a marked load of the stream faults here (R145). -/
def execMark (g : Guard) (s : State) : Out :=
  runSeq (.mark g) g false false [] []
    (fun c st s =>
      let q := s.seq c st
      match oldestMark q.marks with
      | some m => .trap (mkCause causeMemUncorr m.addr) s
      | none => .done (s.enqueue c st true true { ord := q.ord, kind := .mark })) s

/-- FENCE (R150): waits for the stream's queues, then releases and acquires at its effective scope; ENG carries the effects of the
context's engines and copies to that scope. -/
def execFence (g : Guard) (scope : BitVec 3) (eng : Bool) (s : State) : Out :=
  runSeq (.fence g scope eng) g false false [] []
    (fun c st s =>
      let q := s.seq c st
      let (e, clamped) := (s.ctx c).effScope scope.toNat
      let core := (s.ctx c).coreNo
      let mine (x : CStore) : Bool := x.ctx = c && x.ag = none
      if q.loadQ ≠ [] || q.storeQ ≠ [] then .stall .other s
      else match oldestMark q.marks with
        | some m => .trap (mkCause causeMemUncorr m.addr) s
        | none =>
          if !s.releaseReady c st e || (eng && 1 ≤ e && (s.unackedBy c || !s.homeOpen core mine fun p => p.ctx = c)) then .stall .other s
          else
          let s := s.upCtx c fun k => k.countClamp clamped
          let s := s.release c st e
          let s := if eng && 1 ≤ e then s.flush core mine else s
          .done (s.acquire c e)) s

/-- Issue AMO or CAS (R151, R152): the check needs the write right; the entry stands in both queues. -/
def issueAtomic (i : Instr) (g : Guard) (kind : QKind) (d a b : BitVec 5) (scope : BitVec 3) (w64 : Bool) (s : State) : Out :=
  runSeq i g false false (if kind = .cas then [a, b, d] else [a, b]) [d]
    (fun c st s =>
      let k := s.ctx c
      let q := k.seq st
      let n := if w64 then 8 else 4
      let (e, clamped) := k.effScope scope.toNat
      match s.checkVa k.core k.vf .both (q.rx a) n with
      | (s, .error cause) => .trap cause s
      | (s, .ok (pa, key)) =>
        .done ((s.upCtx c fun k => k.countClamp clamped).enqueue c st true true
          { ord := q.ord, kind := kind, va := q.rx a, pa := pa, len := n, key := key, reg := d, ordered := true, scope := e,
            data := q.rx b, old := q.rx d })) s

def execAmoAdd (g : Guard) (d a b : BitVec 5) (scope : BitVec 3) (w64 : Bool) (s : State) : Out :=
  issueAtomic (.amoAdd g d a b scope w64) g (.amo 0) d a b scope w64 s

def execAmoAnd (g : Guard) (d a b : BitVec 5) (scope : BitVec 3) (w64 : Bool) (s : State) : Out :=
  issueAtomic (.amoAnd g d a b scope w64) g (.amo 1) d a b scope w64 s

def execAmoOr (g : Guard) (d a b : BitVec 5) (scope : BitVec 3) (w64 : Bool) (s : State) : Out :=
  issueAtomic (.amoOr g d a b scope w64) g (.amo 2) d a b scope w64 s

def execAmoXor (g : Guard) (d a b : BitVec 5) (scope : BitVec 3) (w64 : Bool) (s : State) : Out :=
  issueAtomic (.amoXor g d a b scope w64) g (.amo 3) d a b scope w64 s

def execAmoMin (g : Guard) (d a b : BitVec 5) (scope : BitVec 3) (w64 : Bool) (s : State) : Out :=
  issueAtomic (.amoMin g d a b scope w64) g (.amo 4) d a b scope w64 s

def execAmoMax (g : Guard) (d a b : BitVec 5) (scope : BitVec 3) (w64 : Bool) (s : State) : Out :=
  issueAtomic (.amoMax g d a b scope w64) g (.amo 5) d a b scope w64 s

def execAmoMinu (g : Guard) (d a b : BitVec 5) (scope : BitVec 3) (w64 : Bool) (s : State) : Out :=
  issueAtomic (.amoMinu g d a b scope w64) g (.amo 6) d a b scope w64 s

def execAmoMaxu (g : Guard) (d a b : BitVec 5) (scope : BitVec 3) (w64 : Bool) (s : State) : Out :=
  issueAtomic (.amoMaxu g d a b scope w64) g (.amo 7) d a b scope w64 s

def execAmoSwap (g : Guard) (d a b : BitVec 5) (scope : BitVec 3) (w64 : Bool) (s : State) : Out :=
  issueAtomic (.amoSwap g d a b scope w64) g .swap d a b scope w64 s

def execCas (g : Guard) (d a b : BitVec 5) (scope : BitVec 3) (w64 : Bool) (s : State) : Out :=
  issueAtomic (.cas g d a b scope w64) g .cas d a b scope w64 s

/-! ## The new value of an atomic (R151, R152) -/

/-- The value that an atomic writes, from the old value, the operand and (for CAS) the expected value, all at width `w`; none for
a failed CAS. -/
def atomicNew (kind : QKind) (w old opd expect : Nat) : Option Nat :=
  let lt := decide (sInt w old < sInt w opd)
  match kind with
  | .amo 0 => some ((old + opd) % 2 ^ w)
  | .amo 1 => some (Nat.land old opd)
  | .amo 2 => some (Nat.lor old opd)
  | .amo 3 => some (Nat.xor old opd)
  | .amo 4 => some (if lt then old else opd)
  | .amo 5 => some (if lt then opd else old)
  | .amo 6 => some (Nat.min old opd)
  | .amo 7 => some (Nat.max old opd)
  | .swap => some opd
  | .cas => if old = expect then some opd else none
  | _ => some old

/-! ## Performing -/

/-- Remove the entry of program order `ord` from the queues of a stream. -/
def State.dequeue (s : State) (c : Nat) (st : Stream) (ord : Nat) : State :=
  s.upSeq c st fun q =>
    { q with loadQ := q.loadQ.filter fun e => e.ord ≠ ord, storeQ := q.storeQ.filter fun e => e.ord ≠ ord }

/-- Mark an entry refused, with its cycle (R295). -/
def State.refuse (s : State) (c : Nat) (st : Stream) (ord : Nat) : State :=
  let f (e : QEntry) : QEntry := if e.ord = ord then { e with refused := true, since := s.tide } else e
  s.upSeq c st fun q => { q with loadQ := q.loadQ.map f, storeQ := q.storeQ.map f }

/-- A load's data returns: the register, the shadow entry, or the mark of R145, which a load to x0 leaves too: it is never read, and the
stream's next MARK, FENCE or EXIT raises it (R10). -/
def State.returnLoad (s : State) (c : Nat) (st : Stream) (e : QEntry) (v : Word) (bad : Bool) : State :=
  if e.boost = 0 then
    s.upSeq c st fun q =>
      let q := q.wx e.reg v
      if bad then { q with marks := q.marks ++ [{ reg := e.reg, ord := e.ord, addr := e.va }] } else q
  else
    let f (x : Shadow) : Shadow :=
      if x.lv = e.boost && !x.isP && x.reg = e.reg.toNat then
        { x with val := v, poison := if bad then some (mkCause causeMemUncorr e.va) else none }
      else x
    s.upCtx c fun k => { k with boost := { k.boost with entries := k.boost.entries.map f } }

/-- Whether an atomic or a ST.rel works at the home: at DIE or wider, and in memory that no core pins (R294, R295). -/
def atHome (scope pa : Nat) : Bool := decide (1 ≤ scope) || !isDevice pa

/-- Whether an atomic works at the home: at DIE or wider, and at CORE on a line that may not be pinned yet (R296). -/
def State.worksHome (s : State) (c scope pa : Nat) : Bool :=
  atHome scope pa || (s.noPin (pa / 1024) && (s.core (s.ctx c).coreNo).pins.all fun p => p.line ≠ pa / 1024)

/-- Whether an atomic, or a release at CORE scope, has to wait: at the home, while another context of the core has the line pinned (R294 to
R296); and while stores that must reach home with a pin that it ends wait for a channel in a hold (R440). -/
def State.pinWaits (s : State) (c scope pa : Nat) : Bool :=
  let core := (s.ctx c).coreNo
  let pins := (s.core core).pins
  if s.worksHome c scope pa then
    (pins.any fun p => p.line = pa / 1024 && p.ctx ≠ c) || !s.expireOpen core fun p => p.line = pa / 1024
  else 16 ≤ pins.length && (pins.all fun p => p.line ≠ pa / 1024) && !s.expireOpen core fun p => some p = pins.head?

/-- The stores of a core that overlap an atomic at the home get there first, and pins of the context itself on its line end; at CORE the
line is pinned (R294, R295). The copy that the die holds of the line is not used. -/
def State.atomicPlace (s : State) (c scope pa n : Nat) : State :=
  let core := (s.ctx c).coreNo
  let s := if s.worksHome c scope pa then (s.expirePins core fun p => p.line = pa / 1024).flush core fun x => overlaps x.pa x.bytes.length pa n
    else s.pinLine c pa
  s.dropCopy (dieOf core) (pa / 1024)

/-- The code of an atomic in a request to another module (log 59). -/
def peerCode (e : QEntry) : Nat := match e.kind with
  | .amo op => 1 + op
  | .swap => 9
  | _ => 0

/-- An atomic on peer memory: its release performs, and the request goes to the home, which answers with the value it read (R287, R430). -/
def State.peerAtomic (s : State) (c : Nat) (st : Stream) (e : QEntry) : State :=
  if (s.peerAsked (s.ctx c).vf e.pa e.len).isSome then s
  else (s.release c st e.scope).askPeer (s.ctx c).vf e.pa e.len 3 (peerCode e) (natBytes e.data.toNat 8 ++ natBytes e.old.toNat 8) none

/-- The atomic of an entry performs (R151, R152, R294): its release, the access at the home or in the pinned copy, its acquire. On peer memory
the response has come, and the home has made the change. -/
def State.performAtomic (s : State) (c : Nat) (st : Stream) (e : QEntry) : State :=
  let k := s.ctx c
  let core := k.coreNo
  let s := s.dequeue c st e.ord
  let s := (s.release c st e.scope).served (seqAsker c st) (e.pa / 1024)
  let home := s.worksHome c e.scope e.pa
  let w := 8 * e.len
  let opd := e.data.toNat % 2 ^ w
  let exp := e.old.toNat % 2 ^ w
  let s := s.atomicPlace c e.scope e.pa e.len
  let (s, bs, bad) := s.agentLoad c (some st) e.key e.pa e.len
  if bad then looseFault s c st.code (mkCause causeMemUncorr e.va)
  else
    let old := leNat bs
    let s := match atomicNew e.kind w old opd exp with
      | none => s
      | some v =>
        let s := if isPeer e.pa then s else s.agentStore c (some st) e.key e.pa e.va (natBytes v e.len)
        if home then s.flush core fun x => overlaps x.pa x.bytes.length e.pa e.len else s
    let s := s.acquire c e.scope
    s.upSeq c st fun q => q.wx e.reg (BitVec.ofNat 64 old)

/-- Whether the head of the load queue may perform: no earlier store of its sector, no MARK or atomic before it (R288, R289). -/
def loadFree (q : Seq) (e : QEntry) : Bool :=
  q.storeQ.all fun o => !decide (o.ord < e.ord) || !(o.meets e)

/-- Whether the head of the store queue may perform: no earlier load of its sector, no earlier acquire, and for a release no
earlier load (R288, R289). -/
def storeFree (q : Seq) (e : QEntry) : Bool :=
  q.loadQ.all fun o => !decide (o.ord < e.ord) || !(o.meets e || o.ordered || e.ordered)

/-- Whether an entry that stands in both queues is at the head of both. -/
def bothHeads (q : Seq) (e : QEntry) : Bool :=
  (match q.loadQ with | o :: _ => o.ord = e.ord | [] => false) && (match q.storeQ with | o :: _ => o.ord = e.ord | [] => false)

/-- Whether an access of a core to memory is refused because another core has pinned the line (R295). -/
def State.blocked (s : State) (c : Nat) (e : QEntry) : Bool :=
  !e.isSp && e.kind ≠ .mark && s.pinnedElsewhere (s.ctx c).coreNo e.pa

/-- The head entry of one queue performs (a fault of an access to peer space reports the PA, R431; an access to a held
channel waits, R440), is refused, or stands; `none` when nothing happens. -/
def State.performEntry (s : State) (c : Nat) (st : Stream) (e : QEntry) : Option State :=
  let q := s.seq c st
  let e := if isPeer e.pa && !e.isSp then { e with va := BitVec.ofNat 64 e.pa } else e
  if !e.isSp && e.kind ≠ .mark && e.kind ≠ .st && s.channelHeld e.key e.pa e.len false then none
  else match e.kind with
  | .mark => if bothHeads q e then some (s.dequeue c st e.ord) else none
  | .ld =>
    if !loadFree q e then none
    else if s.blocked c e then some (s.refuse c st e.ord)
    else
      let s := if e.ordered then s.acquire c e.scope else s
      let (s, bs, bad) := s.agentLoad c (some st) e.key e.pa e.len
      some ((s.dequeue c st e.ord).returnLoad c st e (loadValue e.ext bs) bad)
  | .lds =>
    if !loadFree q e then none
    else
      let h := s.core (s.ctx c).coreNo
      let bad := h.spadBad e.pa e.len
      let e := if bad then { e with va := spadAddr e.pa } else e
      some ((s.dequeue c st e.ord).returnLoad c st e (loadValue e.ext (sbytes h.spad e.pa e.len)) bad)
  | .st =>
    if !storeFree q e then none
    else if s.blocked c e then some (s.refuse c st e.ord)
    else if e.ordered && (!s.releaseReady c st e.scope || (!atHome e.scope e.pa && s.pinWaits c e.scope e.pa)) then none
    else
      let s := s.dequeue c st e.ord
      let s := if e.ordered then s.release c st e.scope else s
      let s := s.served (seqAsker c st) (e.pa / 1024)
      let s := if e.ordered && e.scope = 0 then s.pinLine c e.pa else s
      some (s.agentStore c (some st) e.key e.pa e.va (natBytes e.data.toNat e.len))
  | .sts =>
    if !storeFree q e then none
    else
      let s := s.dequeue c st e.ord
      some (s.upCore (s.ctx c).coreNo fun h => h.spWrite (keyed e.pa (natBytes e.data.toNat e.len)))
  | _ =>
    if !bothHeads q e then none
    else if s.blocked c e then some (s.refuse c st e.ord)
    else if !s.releaseReady c st e.scope || s.pinWaits c e.scope e.pa then none
    else if s.peerWaits (s.ctx c).vf e.pa e.len then s.waitOr (s.peerAtomic c st e)
    else some (s.performAtomic c st e)

/-- Whether a context's queues may perform: not once it is saved or gone. -/
def Ctx.alive (k : Ctx) : Bool := match k.run with | .saved => false | .gone => false | _ => k.core.isSome

/-- LOAD_RETURN (R146): the oldest entry of the load queue performs and its data returns. -/
def tryLoadReturn (c : Nat) (st : Stream) (s : State) : Option State :=
  if !(s.ctx c).alive then none
  else match (s.seq c st).loadQ with
    | [] => none
    | e :: _ => if e.refused then none else s.performEntry c st e

def execLoadReturn (ctx : Nat) (st : Stream) (s : State) : Out := .next ((tryLoadReturn ctx st s).getD s)

/-- Whether a store of a core may perform at its home: it is the earliest that touches its bytes, and its line is not pinned
(R287, R295). -/
def State.homeReady (s : State) (core idx : Nat) (e : CStore) : Bool :=
  ((s.core core).stores.take idx).all (fun o => !overlaps o.pa o.bytes.length e.pa e.bytes.length) &&
    (s.core core).pins.all fun p => !e.inLine p.line

/-- ACCESS_PERFORM (R287). -/
def tryAccessPerform (what : PerformWhat) (s : State) : Option State :=
  match what with
  | .core c st =>
    if !(s.ctx c).alive then none
    else match (s.seq c st).storeQ with
      | [] => none
      | e :: _ => if e.refused then none else s.performEntry c st e
  | .home core idx =>
    match (s.core core).stores[idx]? with
    | none => none
    | some e =>
      if s.homeReady core idx e && !s.channelHeld e.key e.pa e.bytes.length true then
        some ((s.upCore core fun h => { h with stores := h.stores.eraseIdx idx }).storeHome core e)
      else none

def execAccessPerform (what : PerformWhat) (s : State) : Out := .next ((tryAccessPerform what s).getD s)

/-- PIN_RETRY (R295): 64 cycles after its refusal the head access is tried again. -/
def tryPinRetry (c : Nat) (st : Stream) (s : State) : Option State :=
  let q := s.seq c st
  match (q.loadQ.take 1 ++ q.storeQ.take 1).find? fun e => e.refused && decide (e.since + 64 ≤ s.tide) with
  | none => none
  | some e => if s.blocked c e then some (s.refuse c st e.ord) else s.performEntry c st e

def execPinRetry (ctx : Nat) (st : Stream) (s : State) : Out := .next ((tryPinRetry ctx st s).getD s)

/-- PIN_TIMEOUT (R296): 65,536 cycles after the pin; the write-back waits for a channel in a hold (R440). -/
def tryPinTimeout (core line : Nat) (s : State) : Option State :=
  match (s.core core).pins.find? fun p => p.line = line && decide (p.since + 65536 ≤ s.tide) with
  | none => none
  | some p => if s.expireOpen core (· = p) then some (s.expirePins core (· = p)) else none

def execPinTimeout (core line : Nat) (s : State) : Out := .next ((tryPinTimeout core line s).getD s)

/-- RDC_LINE_LEAVE (R297): a line may leave a die's remote-data cache at any time. -/
def execRdcLineLeave (die line : Nat) (s : State) : Out :=
  .next { s with rdc := s.rdc.filter fun r => !(r.die = die && r.line = line) }

end Sys2Proof.Machine
end

