-- ==== Sys2Proof/Machine/Sync.lean ====
section
/-! DEFINITION. Tokens, decoupled queues, barriers and the tide (R153 to R164). -/

namespace Sys2Proof.Machine

/-! ## Tokens -/

/-- Posts that wait for room are made. -/
def Ctx.settle (k : Ctx) : Ctx := k.settlePosts k.posts.length

/-- The queues that codes name; 0 is none. -/
def codes (qs : List (BitVec 4)) : List Nat := (qs.map BitVec.toNat).filter (· ≠ 0)

/-- TKWAIT (R153). -/
def execTkwait (g : Guard) (q0 q1 q2 : BitVec 4) (s : State) : Out :=
  runSeq (.tkwait g q0 q1 q2) g false false [] []
    (fun c st s =>
      let qs := codes [q0, q1, q2]
      if !(s.ctx c).canTake qs then .stall .take s
      else .done (s.upCtx c fun k => ((k.take qs).holdTokens st qs).settle)) s

/-- TKPOST (R154): after the stream's earlier accesses have performed at CORE scope; deferred in a timed region (R170). -/
def execTkpost (g : Guard) (q : BitVec 4) (s : State) : Out :=
  runSeq (.tkpost g q) g false false [] []
    (fun c st s =>
      let k := s.ctx c
      let sq := k.seq st
      if sq.loadQ ≠ [] || sq.storeQ ≠ [] then .stall .other s
      else if !(st = .c && k.region.isSome) && !k.canPost q.toNat then .stall .post s
      else .done (s.upCtx c fun k => k.postOr st q.toNat 0)) s

/-- Whether a stream's stall is one that R155 counts. -/
def deadStall (q : Seq) : Bool :=
  match q.stall with
  | some (_, .other) => false
  | some (_, .slot) => false
  | some (_, .cancel) => false
  | some (_, .step) => false
  | some _ => true
  | none => false

/-- Whether a command unit, with its queue, does nothing but wait for room in YQ, if it does anything. -/
def pushStalled (idle ended : Bool) (queue : Nat) (yqOpen : Bool) : Bool := if idle then queue = 0 else ended && !yqOpen

/-- Whether a generator of an input port has a chunk to yield for which a FIFO has room: its fetch is under way (R243). -/
def Ctx.chunkDue (k : Ctx) (agn off : Nat) (fifo : List PByte) : Bool :=
  let g := (k.agN agn).prog
  decide ((k.agN agn).pos < g.total) && decide (fifo.length + (g.chunk - off) ≤ 16384)

/-- Whether an input port has a fetch under way. -/
def Ctx.fetching (k : Ctx) : Bool :=
  k.sp.toList.any fun p => p.dir = 1 && (k.chunkDue p.agd p.chunkOff p.fifo || p.ags.any fun a => k.chunkDue a p.schunkOff p.sfifo)

/-- Whether a context stands still in the sense of R155: every agent that has not exited is stalled on a token, a queue or a
missed stamp, and nothing is in flight, a port's fetch included. An engine or a copy stalled on its post, and a command whose record waits for room in YQ, stand
still too; a stamped word that waits for its cycle does not. -/
def Ctx.standsStill (k : Ctx) (now : Nat) : Bool :=
  let sts := [Stream.x, .l, .c, .s].filter fun st => !(k.seq st).exited
  let eq := k.eqM ++ k.eqV ++ k.eqS
  k.run = .running && (sts ≠ [] || eq ≠ []) && sts.all (fun st => deadStall (k.seq st)) &&
    (eq.all fun e => e.stamp.isNone || e.past) &&
    ([Stream.x, .l, .c, .s].all fun st => (k.seq st).loadQ = [] && (k.seq st).storeQ = []) &&
    !k.fetching && (k.copies.all fun y => y.landed && !k.canPost y.post) && (k.flight.all fun f => k.posting now f) &&
    pushStalled k.ie.isNone (k.ie.any (·.ended)) k.sq0.length k.yqOpen && pushStalled k.mu.isNone (k.mu.any (·.ended)) k.sq1.length k.yqOpen &&
    pushStalled k.coll.isNone (k.coll.any (·.ended)) k.collq.length k.yqOpen

/-- The count of R155 for one context at the start of a tide cycle. -/
def Ctx.countDead (k : Ctx) (tide : Nat) : Ctx :=
  { k with deadSince := if k.standsStill tide then some (k.deadSince.getD tide) else none }

/-- TOKEN_DEADLOCK (R155): after 4,096 such cycles the context as a whole faults. -/
def tryTokenDeadlock (c : Nat) (s : State) : Option State :=
  let k := s.ctx c
  match k.deadSince with
  | some t =>
    if k.standsStill s.tide && k.pend = [] && t + 4096 ≤ s.tide then
      some (looseFault (s.upCtx c fun k => { k with deadSince := none }) c 8 (mkCause causeTokenDeadlock 0))
    else none
  | none => none

def execTokenDeadlock (ctx : Nat) (s : State) : Out := .next ((tryTokenDeadlock ctx s).getD s)

/-! ## Decoupled queues -/

/-- FQPUSH (R158). -/
def execFqpush (g : Guard) (d a : BitVec 5) (s : State) : Out :=
  runSeq (.fqpush g d a) g false false [a] [d]
    (fun c st s =>
      let k := s.ctx c
      if 64 ≤ k.fq.length || !k.jnlRoom then .stall .push s
      else
        let seq := k.csr.jnlhead
        let w := (k.seq st).rx a
        let s := s.jnlPush c 1 (natBytes w.toNat 8)
        .done (s.upCtx c fun k => ({ k with fq := k.fq ++ [{ word := w, seq := seq.toNat }] } : Ctx).upSeq st fun q => q.wx d seq)) s

/-- The block that a stalled SQPUSH has read, if the sequencer stands at that word. -/
def Ctx.sqHeld (k : Ctx) (st : Stream) (w : Word) : Option (List Byte) := if (k.seq st).stall = some (w, .push) then k.sqBlk else none

/-- SQPUSH (R159): the block is read whole when the stream's earlier stores have performed at CORE scope, and kept while SQn or the
journal is full. -/
def execSqpush (g : Guard) (d a : BitVec 5) (n : BitVec 1) (s : State) : Out :=
  runSeq (.sqpush g d a n) g false false [a] [d]
    (fun c st s =>
      let k := s.ctx c
      let q := k.seq st
      let push (s : State) (bs : List Byte) : Res :=
        if 16 ≤ (if n = 0 then k.sq0 else k.sq1).length || !k.jnlRoom then .stall .push (s.upCtx c fun k => { k with sqBlk := some bs })
        else
          let seq := k.csr.jnlhead
          let qn := n.toNat + 2
          let s := s.jnlPush c qn (bs.drop 16)
          let j : JEntry := { seq := seq.toNat, queue := qn, state := jQueued, iter := k.iterNo, body := bs.drop 16 }
          let e : SqEntry := { seq := seq.toNat, blk := j.bytes }
          .done (s.upCtx c fun k =>
            (if n = 0 then { k with sq0 := k.sq0 ++ [e], sqBlk := none } else { k with sq1 := k.sq1 ++ [e], sqBlk := none } : Ctx).upSeq st
              fun q => q.wx d seq)
      match k.sqHeld st (wordOf (.sqpush g d a n)) with
      | some bs => push s bs
      | none => match s.checkVa k.core k.vf .rd (q.rx a) 64 with
        | (s, .error cause) => .trap cause s
        | (s, .ok (pa, key)) =>
          if q.storeQ ≠ [] || q.loadQ ≠ [] then .stall .other s
          else if s.pinnedElsewhere k.coreNo pa then .stall .other (s.notePin k.coreNo (seqAsker c st) pa)
          else if s.channelHeld key pa 64 false then .stall .other s
          else if s.peerWaits k.vf pa 64 then .stall .other (s.askPeers [(k.vf, pa, 64)])
          else
            let (s, bs, bad) := s.agentLoad c (some st) key pa 64
            if bad then .trap (mkCause causeMemUncorr (q.rx a)) s else push s bs) s

/-- YPOP (R160); a collective completion is a MODULE-scope acquire (R437). -/
def execYpop (g : Guard) (d : BitVec 5) (s : State) : Out :=
  runSeq (.ypop g d) g false false [] [d]
    (fun c st s =>
      match (s.ctx c).yq with
      | [] => .stall .ypop s
      | r :: rest =>
        let s := if bitsN r 63 60 = 3 then s.acquire c 3 else s
        .done (s.upCtx c fun k => ({ k with yq := rest } : Ctx).upSeq st fun q => q.wx d r)) s

/-- Remove from the four queues every entry with SEQ at or above a threshold, and cancel their journal entries (R161). -/
def State.cancelFrom (s : State) (c : Nat) (t : Nat) : State × Nat :=
  let k := s.ctx c
  let gone := (k.fq.map (·.seq) ++ k.sq0.map (·.seq) ++ k.sq1.map (·.seq) ++ k.collq.map (·.seq)).filter fun q => t ≤ q
  let s := s.upCtx c fun k =>
    { k with fq := k.fq.filter fun e => e.seq < t
             sq0 := k.sq0.filter fun e => e.seq < t
             sq1 := k.sq1.filter fun e => e.seq < t
             collq := k.collq.filter fun e => e.seq < t }
  (gone.foldl (fun s q => s.jnlMark c q jCancelled) s, gone.length)

/-- QCANCEL (R161). While a matrix word of the C stream may still pop FQ in this cycle, it waits until the sequencers have had their
turns, since the pops of a cycle come before it. -/
def execQcancel (g : Guard) (d a : BitVec 5) (s : State) : Out :=
  runSeq (.qcancel g d a) g false false [a] [d]
    (fun c st s =>
      let k := s.ctx c
      if !s.late && k.fq ≠ [] && k.eqM = [] && !k.seqs.c.exited then .stall .cancel s
      else
      let (s, n) := s.cancelFrom c ((s.seq c st).rx a).toNat
      .done (s.upSeq c st fun q => q.wx d (BitVec.ofNat 64 n))) s

/-- FQ_LEFTOVER (R9). -/
def tryFqLeftover (c : Nat) (s : State) : Option State :=
  let k := s.ctx c
  if k.run = .running && k.allExited && k.fq ≠ [] && k.eqM = [] && k.flight.all (fun f => f.unit ≠ .matrix) then
    let n := k.fq.length
    let s := (k.fq.map (·.seq)).foldl (fun s q => s.jnlMark c q jCancelled) (s.upCtx c fun k => { k with fq := [] })
    some (s.logVf k.vf (.event .fqLeftover k.vf (ctxid c) (BitVec.ofNat 64 n)))
  else none

def execFqLeftover (ctx : Nat) (s : State) : Out := .next ((tryFqLeftover ctx s).getD s)

/-- JNLBASE_APPLY (R33): the write at which a stream waits takes effect once JNLLOW = JNLHEAD, after the streams of the cycle have read
(R36), and the stream goes on. -/
def tryJnlbaseApply (c : Nat) (s : State) : Option State :=
  let k := s.ctx c
  match k.jnlPending with
  | none => none
  | some (st, w) =>
    if k.jnlLow = k.csr.jnlhead.toNat then
      some ((s.snapCsr c).upCtx c fun k => (k.setJnlbase w).upSeq st fun q => { q.advance with stall := none, ord := q.ord + 1 })
    else none

def execJnlbaseApply (ctx : Nat) (s : State) : Out := .next ((tryJnlbaseApply ctx s).getD s)

/-! ## Barriers (R34, R162, R163) -/

/-- A phase completes when PENDING and TX are both 0. -/
def Barrier.settle (b : Barrier) : Barrier :=
  if b.init && b.pending = 0 && b.tx = 0 then { b with phase := !b.phase, pending := b.expect } else b

/-- A TX change, refused outside the signed 32-bit range. -/
def Barrier.addTx (b : Barrier) (t : Int) : Option Barrier :=
  let x := b.tx + t
  if x < -(2 ^ 31 : Nat) || (2 ^ 31 : Nat) ≤ x then none else some ({ b with tx := x } : Barrier).settle

/-- One arrival, refused at PENDING = 0. -/
def Barrier.arrive (b : Barrier) : Option Barrier :=
  if b.pending = 0 then none else some ({ b with pending := b.pending - 1 } : Barrier).settle

/-- The cause BAR_STATE of a logical barrier (R467). -/
def barState (n : Nat) : Cause := mkCause causeBarState (kindAddr 3 n)

/-- The barrier of a logical number with its physical number, or the cause: ALLOT_RANGE, or BAR_STATE when it is not
initialised and the operation needs it to be. -/
def State.barrier (s : State) (k : Ctx) (n : Nat) (needInit : Bool) : Except Cause (Nat × Barrier) :=
  match k.barNo n with
  | none => .error (mkCause causeAllotRange (kindAddr 3 n))
  | some p =>
    let b := vgetD (s.core k.coreNo).bars p Barrier.raw
    if needInit && !b.init then .error (barState n) else .ok (p, b)

/-- Replace a physical barrier of the context's core. -/
def State.setBar (s : State) (c p : Nat) (b : Barrier) : State :=
  s.upCore (s.ctx c).coreNo fun h => { h with bars := vmod h.bars p fun _ => b }

/-- Issue one barrier word: the checks, then the new barrier and the register and predicate writes, or the fault. -/
def runBar (i : Instr) (g : Guard) (n : BitVec 7) (needInit : Bool) (xs ws : List (BitVec 5))
    (f : Barrier → Seq → Option (Barrier × Seq)) (s : State) : Out :=
  runSeq i g false false xs ws
    (fun c st s =>
      let k := s.ctx c
      match s.barrier k n.toNat needInit with
      | .error e => .trap e s
      | .ok (p, b) =>
        match f b (k.seq st) with
        | none => .trap (barState n.toNat) s
        | some (b', q') => .done ((s.upSeq c st fun _ => q').setBar c p b')) s

/-- BAR.INIT. -/
def execBarInit (g : Guard) (n : BitVec 7) (expect : BitVec 12) (s : State) : Out :=
  runBar (.barInit g n expect) g n false [] []
    (fun b q =>
      if b.init && (b.pending ≠ b.expect || b.tx ≠ 0) then none
      else some ({ init := true, expect := expect.toNat, pending := expect.toNat, tx := 0, phase := false }, q)) s

/-- BAR.ARV. -/
def execBarArv (g : Guard) (d : BitVec 5) (n : BitVec 7) (s : State) : Out :=
  runBar (.barArv g d n) g n true [] [d]
    (fun b q => b.arrive.map fun b' => (b', q.wx d (if b.phase then 1 else 0))) s

/-- BAR.EXP, with or without its arrival: the add and the arrival are both checked before either is applied. -/
def execBarExp (g : Guard) (d a : BitVec 5) (n : BitVec 7) (arv : Bool) (s : State) : Out :=
  runBar (.barExp g d a n arv) g n true [a] (if arv then [d] else [])
    (fun b q =>
      let v := q.rx a
      if ((v.extractLsb' 0 32).signExtend 64 : Word) ≠ v then none
      else match b.addTx v.toInt with
        | none => none
        | some b' =>
          if arv then b'.arrive.map fun b'' => (b'', q.wx d (if b'.phase then 1 else 0))
          else some (b', q)) s

/-- BAR.WAIT. -/
def execBarWait (g : Guard) (a : BitVec 5) (n : BitVec 7) (s : State) : Out :=
  runSeq (.barWait g a n) g false false [a] []
    (fun c st s =>
      let k := s.ctx c
      match s.barrier k n.toNat true with
      | .error e => .trap e s
      | .ok (_, b) => if b.phase = bitN ((k.seq st).rx a) 0 then .stall .other s else .done s) s

/-- BAR.TEST. -/
def execBarTest (g : Guard) (pd : BitVec 3) (a : BitVec 5) (n : BitVec 7) (s : State) : Out :=
  runBar (.barTest g pd a n) g n true [a] []
    (fun b q => some (b, q.wp pd (b.phase != bitN (q.rx a) 0))) s

/-! ## Tide -/

/-- TIDE.RD (R164). -/
def execTideRd (g : Guard) (d : BitVec 5) (s : State) : Out :=
  runSeq (.tideRd g d) g false false [] [d]
    (fun c st s => .done (s.upSeq c st fun q => q.wx d (BitVec.ofNat 64 s.tide))) s

end Sys2Proof.Machine
end

