-- ==== Sys2Proof/Machine/Trap.lean ====
section
/-! DEFINITION. What follows a fault: the stop of a context and the unwinding of a timed region (R307, R312), the fault frame
(R303 to R305), the actions of FC3 (R308), resumption (R309), the end of a launch (R310), checkpoints and saves (R316, R317),
and restoration (R319, R320). The taking of the fault itself is `takeFault` in Ops. -/

namespace Sys2Proof.Machine

/-! ## The stop -/

/-- The region unwinds (R31, R170, R312): its tokens and format words go back, its posts are discarded, a routine of it is dropped, and
the C stream stands at Head, from where the region runs again. -/
def State.unwindRegion (s : State) (c : Nat) : State :=
  match (s.ctx c).region with
  | none => s
  | some r =>
    let s := s.fqReturn c r.heldFq
    s.upCtx c fun k =>
      let k := k.giveBack r.held
      let k := { k with
        region := some { r with held := [], ords := [], heldFq := [], posts := [], stamps := [], sent := false, missed := none, again := true } }
      k.upSeq .c fun q => ({ q with xfer := none, micro := {} } : Seq).jump r.head

/-- The record of a stream at the stop (R304). -/
def Ctx.streamRec (k : Ctx) (st : Stream) : StreamRec :=
  let q := k.seq st
  let xfer : Option Xfer := match st, k.region, k.boost.restartRec with
    | .c, some _, _ => none
    | .x, _, some r => if q.micro.active then q.xfer else r.xfer
    | _, _, _ => q.xfer
  let f := k.pend.find? fun p => p.precise && p.source = st.code
  let inRegion := st = .c && k.region.isSome
  let active := q.micro.active && !inRegion
  { restart := k.restart st
    trappc := match f with
      | some p => p.pc
      | none => q.pc
    target := (xfer.map (·.target)).getD 0
    slots := (xfer.map (·.slots)).getD 0
    taken := (xfer.map (·.taken)).getD false
    exited := q.exited
    inregion := inRegion
    boostspan := st = .x && k.boost.restart.isSome
    routine := active
    stalled := q.stall.isSome && !active
    stallword := match q.stall with
      | some (w, _) => if active then 0 else w
      | none => 0 }

/-- The engine queues in the order EQUEUE keeps them (R303). -/
def Ctx.equeue (k : Ctx) : List (EUnit × EqEntry) :=
  k.eqM.map (fun e => (EUnit.matrix, e)) ++ k.eqV.map (fun e => (EUnit.vector, e)) ++ k.eqS.map fun e => (EUnit.sfu, e)

/-- A copy that waits for a slot has not issued: at a stop its tokens return (R247, R249). -/
def Ctx.unslot (k : Ctx) (st : Stream) : Ctx :=
  match (k.seq st).stall with
  | some (w, .slot) =>
    (k.giveBack [(fld w 52 4).toNat, (fld w 48 4).toNat, (fld w 44 4).toNat]).upSeq st fun q => { q with stall := none }
  | _ => k

/-- The streams of a context stop at their restart points (R304, R307): records are taken, boost clears (R15), loop buffers are
dropped (R16), the region unwinds, and the engine queues move to EQUEUE, which keeps no word of an open region. -/
def State.stopStreams (s : State) (c : Nat) : State :=
  let k := s.ctx c
  let recs := [Stream.x, .l, .c, .s].map k.streamRec
  let pcs : Vector Word 4 := #v[k.restart .x, k.restart .l, k.restart .c, k.restart .s]
  let inRegion := k.region.isSome
  let s := s.upCtx c fun k =>
    let fr := { Frame.empty with
      streams := recs, equeue := k.equeue.filter fun e => e.2.left || !inRegion, tide := s.tide,
      micros := [k.seqs.x.micro, k.seqs.l.micro, if inRegion then {} else k.seqs.c.micro, k.seqs.s.micro] }
    let k := { k with frame := fr, eqM := [], eqV := [], eqS := [], sqBlk := none, jnlPending := none, csr := { k.csr with faultpc := pcs } }
    let k := match k.boost.restartRec with
      | some r => k.upSeq .x fun q => if q.micro.active then q else ({ q with xfer := r.xfer } : Seq).jump r.pc
      | none => k
    let k := k.clearBoost
    let drop (k : Ctx) (st : Stream) : Ctx := k.unslot st |>.upSeq st fun q => { q with loopBuf := [] }
    drop (drop (drop (drop k .x) .l) .c) .s
  (s.dropBundles c).unwindRegion c

/-- The tide of the first fault, for the frame (R303). -/
def Ctx.faultTide (k : Ctx) : Nat := ((firstFault k.pend).map (·.tide)).getD k.frame.tide

/-- A context stops for the faults that it has taken (R307). -/
def State.faultStop (s : State) (c : Nat) : State :=
  (s.stopStreams c).upCtx c fun k => { k with run := .stopping, frame := { k.frame with tide := k.faultTide } }

/-- FAULT_STOP (R307): from the cycle after the fault, the streams stand still. -/
def tryFaultStop (c : Nat) (s : State) : Option State :=
  let k := s.ctx c
  match firstFault k.pend with
  | some f => if k.run = .running && f.tide < s.tide then some (s.faultStop c) else none
  | none => none

def execFaultStop (ctx : Nat) (s : State) : Out := .next ((tryFaultStop ctx s).getD s)

/-! ## The frame -/

/-- FAULTCAUSE of one recorded fault with its own source (R305). -/
def Pending.causeWord (strict : Bool) (p : Pending) : Word := if p.cause.code = 0 then 0 else faultWord strict p

/-- The record of the engine with a SOURCE number (R305): the cause and address of its fault, if it took one, and the instruction that it
stopped at. -/
def Ctx.engineRec (k : Ctx) (strict : Bool) (src : Nat) : EngineRec :=
  let n := match src with
    | 4 => (k.frame.equeue.filter fun e => e.1 = EUnit.matrix).length
    | 5 => (k.frame.equeue.filter fun e => e.1 = EUnit.vector).length
    | 6 => (k.frame.equeue.filter fun e => e.1 = EUnit.sfu).length
    | _ => k.copies.length
  let mine := k.pend.filter fun p => p.source = src
  let fault := firstFault mine
  let at' := (fault.filter fun p => p.word ≠ 0).or ((mine.find? fun p => p.midop).or mine.head?)
  match at' with
  | none => { cause := 0, addr := 0, word := 0, progress := 0, fword := 0, qcount := n, unissued := false, midop := false }
  | some p =>
    { cause := (fault.map fun f => f.causeWord strict).getD 0, addr := (fault.map (·.cause.addr)).getD 0, word := p.word, progress := BitVec.ofNat 64 p.progress,
      fword := match p.fword with
        | some w => w.word
        | none => 0
      qcount := n, unissued := p.unissued, midop := p.midop }

/-- The record of a stopped copy (R305): leading pieces done, cause and address. -/
def Copy.record (strict : Bool) (y : Copy) : CopyRec :=
  let cause := y.fault.getD (mkCause 0 0)
  let p : Pending :=
    { source := 7, precise := false, cause := cause, tide := 0, pc := 0, word := 0, fword := none, progress := 0,
      unissued := false, midop := false }
  { word := y.word, dst := y.dst, src := y.src, count := BitVec.ofNat 64 y.count,
    pieces := BitVec.ofNat 64 y.lead, cause := p.causeWord strict, addr := cause.addr }

/-- The micro-state record of the matrix engine for a product that stopped between slabs: the base routine at its slab step, or at its
last one (R278, R284). -/
def State.midMicro (s : State) (p : Pending) : Micro :=
  match p.fword with
  | some w => s.baseRun (w.word, w.seq) (cdiv (bitsN w.word 38 20) 32) (3 + p.progress) (Micro.start p.word)
  | none => Micro.start p.word

/-- The record of an engine whose base routine the spec does not list, for an instruction with some progress (R278; log 75). -/
def unlistedMicro (word : Word) (progress : Nat) : Micro :=
  let v (i : Nat) : Word := Config.baseRecord word progress i
  { Micro.start word with
    mpc := bitsN (v 0) 12 0, steps := bitsN (v 1) 31 0, mlc0 := (v 2).extractLsb' 0 32, mlc1 := (v 2).extractLsb' 32 32,
    mt := #v[v 3, v 4, v 5, v 6, v 7, v 8, v 9, v 10] }

/-- The records of a stopped VST to a port, and of a copy that faulted with some pieces done (R263, R278). -/
def otherMicro (p : Pending) : Micro := unlistedMicro p.word p.progress
def copyMicro (y : Copy) : Micro := unlistedMicro y.word y.lead

/-- The micro-state records of the engines (R303): active for an instruction that stopped with its routine in progress. -/
def State.engineMicros (s : State) (k : Ctx) : List Micro :=
  [match k.pend.find? fun p => p.source = 4 && p.midop with
    | some p => s.midMicro p
    | none => {},
   match k.pend.find? fun p => p.source = 5 && p.midop with
    | some p => otherMicro p
    | none => {}, {},
   match k.copies.find? fun y => y.fault.isSome with
    | some y => copyMicro y
    | none => {}]

/-- The frame closes (R303): the fields as the stop left them. -/
def State.closeFrame (s : State) (c status : Nat) : State :=
  let strict := s.strict c
  let pattern := ((s.leases.find? fun l => l.ctx = some c).map (·.ident)).getD 0
  let ident := match (s.ctx c).iter with
    | some it => ((s.launch? it.launch).map (·.ident)).getD 0
    | none => pattern
  s.upCtx c fun k =>
    let fr := { k.frame with
      mode := b2n strict, status := status, iter := k.iterNo, cause := k.csr.faultcause, addr := k.csr.faultaddr,
      jnllow := k.jnlLow, jnlhead := k.csr.jnlhead.toNat, launchid := ident,
      engines := [4, 5, 6, 7].map (k.engineRec strict), micros := k.frame.micros ++ s.engineMicros k,
      copies := (k.copies.filter fun y => y.fault.isSome).take 48 |>.map (Copy.record strict) }
    { k with frame := fr }

/-- The bytes of a micro-state record (R278). -/
def Micro.bytes (m : Micro) : List Byte :=
  let (w, _) := m.mword.getD (0, 0)
  fit 128 (natBytes m.word.toNat 8 ++ natBytes m.binding.toNat 8 ++ natBytes m.mpc 2 ++
    natBytes (b2n m.z + 2 * b2n m.n + 4 * b2n m.c + 8 * b2n m.active + 16 * b2n m.base) 2 ++ natBytes m.steps 4 ++
    natBytes m.mlc0.toNat 4 ++ natBytes m.mlc1.toNat 4 ++ m.mt.toList.flatMap (fun x => natBytes x.toNat 8) ++
    natBytes w.toNat 8 ++ natBytes (m.mops.toNat + m.form * 2 ^ 26 + b2n m.bound * 2 ^ 28) 4 ++ natBytes m.slabs 4)

/-- The bytes of a stream record (R304). -/
def StreamRec.bytes (r : StreamRec) : List Byte :=
  fit 64 (natBytes r.restart.toNat 8 ++ natBytes r.trappc.toNat 8 ++ natBytes r.target.toNat 8 ++
    natBytes (r.slots + 4 * b2n r.exited + 8 * b2n r.inregion + 16 * b2n r.boostspan + 32 * b2n r.routine + 64 * b2n r.stalled) 4 ++
    zeros 4 ++ natBytes r.stallword.toNat 8)

/-- The bytes of an engine record (R305). -/
def EngineRec.bytes (r : EngineRec) : List Byte :=
  fit 64 (natBytes r.cause.toNat 8 ++ natBytes r.addr.toNat 8 ++ natBytes r.word.toNat 8 ++ natBytes r.progress.toNat 8 ++
    natBytes r.fword.toNat 8 ++ natBytes r.qcount 4 ++ natBytes (b2n r.unissued + 2 * b2n r.midop) 4)

/-- The bytes of a copy record (R305). -/
def CopyRec.bytes (r : CopyRec) : List Byte :=
  [r.word, r.dst, r.src, r.count, r.pieces, r.cause, r.addr].flatMap (fun x => natBytes x.toNat 8) ++ zeros 8

/-- The first 64 bytes of the frame of a context (R303). -/
def Ctx.frameHeader (k : Ctx) (c : Nat) : List Byte :=
  let f := k.frame
  natBytes 1 2 ++ natBytes f.mode 1 ++ natBytes f.status 1 ++ natBytes (ctxid c) 2 ++ natBytes k.vf 2 ++ natBytes f.iter.toNat 4 ++
    zeros 4 ++ natBytes f.tide 8 ++ natBytes f.cause.toNat 8 ++ natBytes f.addr.toNat 8 ++ natBytes f.jnllow 8 ++
    natBytes f.jnlhead 8 ++ natBytes f.launchid.toNat 8

/-- The 128 bytes of EQUEUE of one engine. -/
def equeueBytes (q : List (EUnit × EqEntry)) (u : EUnit) : List Byte :=
  fit 128 ((q.filter fun e => e.1 = u).flatMap fun e => natBytes e.2.word.toNat 8)

/-- The 5,120 bytes of the frame (R303). -/
def Ctx.frameBytes (k : Ctx) (c : Nat) : List Byte :=
  let f := k.frame
  k.frameHeader c ++ fit 256 (f.streams.flatMap StreamRec.bytes) ++ fit 256 (f.engines.flatMap EngineRec.bytes) ++
    fit 1024 (f.micros.flatMap Micro.bytes) ++ equeueBytes f.equeue .matrix ++ equeueBytes f.equeue .vector ++
    equeueBytes f.equeue .sfu ++ zeros 64 ++ fit 3072 (f.copies.flatMap CopyRec.bytes)

/-- The frame as the save area holds it: what a debugger wrote into it stands in the place of what the stop left (R423; log 89). -/
def Ctx.frameNow (k : Ctx) (c : Nat) : List Byte :=
  k.frame.patch.foldl (fun b p => b.take p.1 ++ p.2 ++ b.drop (p.1 + p.2.length)) (k.frameBytes c)

/-- The frame is written at the head of the context's save area (R303), under key index 4,096. -/
def State.writeFrame (s : State) (c : Nat) : State :=
  let k := s.ctx c
  if k.saveArea = 0 then s else (s.homeStore 0 4096 none 0 k.saveArea (k.frameNow c)).1

/-- Change STATUS of the frame. -/
def State.setStatus (s : State) (c n : Nat) : State :=
  (s.upCtx c fun k => { k with frame := { k.frame with status := n, patch := k.frame.patch.filter fun p => p.1 ≠ 0 } }).writeFrame c

/-! ## Ending a launch (R310) -/

/-- A tile with an unfinished writer becomes PARTIAL (R189). -/
def Tile.abandon (t : Tile) : Tile := { t with partialBit := true, wmHold := false, general := true, special := t.hasSpecial }

/-- How many of a product's slabs are done at a tide. -/
def Slabs.ended (r : Slabs) (now : Nat) : Nat := (r.ends.filter fun e => decide (e ≤ now)).length

/-- The tile after the first `n` slabs of a product. -/
def Slabs.tileAt (r : Slabs) (n : Nat) : Tile := r.tile.product (r.a.map (·.take (32 * n))) (r.b.map (·.take (32 * n)))

/-- What is left of a product after its first `n` slabs; the ends count from its next issue. -/
def Slabs.left (r : Slabs) (n : Nat) : Slabs :=
  let t := if n = 0 then 0 else r.ends.getD (n - 1) 0
  { done := r.done + n, tile := Tile.zero, a := r.a.map (·.drop (32 * n)), b := r.b.map (·.drop (32 * n)), ends := (r.ends.drop n).map (· - t) }

/-- Whether an instruction in flight is between two steps of its routine at a stop (R280, R316): a product between two slabs that its port
feeds, or with one under way in the array, or a VST whose port has bytes to write. One of an open region runs again with it (R312). -/
def Inflight.between (f : Inflight) (now : Nat) : Bool :=
  match f.unit with
  | .matrix => f.mid.isSome || match f.slabs with
    | none => false
    | some r => f.owns && r.ends.any fun e => decide (now < e)
  | .vector => f.vw = [] && f.port.isSome && f.mid.isSome
  | .sfu => false

/-- Whether a matrix instruction in flight writes the tile of an earlier product that stops, and so begins again after it. -/
def Ctx.behindTile (k : Ctx) (now : Nat) (g : Inflight) : Bool :=
  g.unit = .matrix && !g.between now && g.tile.isSome &&
    k.flight.any fun f => f.unit = .matrix && f.between now && f.tile = g.tile && decide (f.ord < g.ord)

/-- FC7 abandons the entry that a context has started and sends its peers an abort (R437). -/
def State.abandonColl (s : State) (c : Nat) : State :=
  match (s.ctx c).coll with
  | none => s
  | some r => (s.abortPeers (s.ctx c).vf r.entry.comm).upCtx c fun k => { k with coll := none }

/-- The kill report of a started command (R310): its SEQ, its journal entry, and for SCATTER.ADD the elements applied (R256). -/
def State.reportStarted (s : State) (c seq : Nat) : State :=
  let k := s.ctx c
  let s := s.logVf k.vf (.event .killReport k.vf (ctxid c) (BitVec.ofNat 64 seq))
  let s := (k.journal.filter fun e => e.seq = seq).foldl (fun s e => s.logVf k.vf (.raw e.bytes)) s
  match k.ie with
  | some r => if r.seq = seq then s.logVf k.vf (.event .applied k.vf (ctxid c) (BitVec.ofNat 64 r.applied)) else s
  | none => s

/-- What the running step of a tenant routine has yet to land lands: a step has its effects whole or not at all (R266), and one that has
started has had some of them (R280; log 81). -/
def State.endSteps (s : State) (c : Nat) : State :=
  let own (f : Inflight) : Bool := (s.seq c f.st).micro.active && f.pc = (s.seq c f.st).pc
  ((s.ctx c).flight.filter own).foldl (fun s f => f.effs.foldl (fun s e => s.land c f.ord e) s) s

/-- What a kill leaves of an index-engine command: a gather, or SCATTER.ROWS, with a batch in progress completes that batch (R256). -/
def IeRun.killed (r : IeRun) : Option IeRun :=
  if fieldN r.blk 16 1 ≠ 4 && !r.fin && r.idx ≠ [] then some { r with last := true } else none

/-- One placed iteration is killed (R310): queues, engines, ports and routines are abandoned, a product leaves the slabs that are done (R280),
journal entries are cancelled, and the context survives without an iteration. -/
def State.killCtx (s : State) (c : Nat) : State :=
  let s := ((s.abandonColl c).dropBundles c).endSteps c
  let k := s.ctx c
  let tiles := k.flight.filterMap (·.tile)
  let core := k.coreNo
  let s := (k.flight.filter fun f => f.unit = .matrix && f.between s.tide).foldl (fun s f => match f.tile, f.slabs with
    | some t, some r => s.upTile core t fun x => { r.tileAt (r.ended s.tide) with chkerr := x.chkerr }
    | _, _ => s) s
  let s := if !k.saved then s else (List.range k.acount).foldl (fun s i =>
    let x := s.savedTile k i
    if x.wmHold then s.putSavedTile k i x.abandon else s) s
  let s := if k.core.isNone then s else s.upCore core fun h =>
    let own (i : Nat) : Bool := decide (k.abase ≤ i) && decide (i < k.abase + k.acount)
    { h with tiles := (List.range 32).foldl (fun v i =>
        vmod v i fun t => if tiles.contains i || (own i && t.wmHold) then t.abandon else t) h.tiles }
  let started := k.journal.filter fun e => e.state = jStarted
  let s := started.foldl (fun s e => (s.reportStarted c e.seq).jnlMark c e.seq jCancelled) s
  let s := (k.journal.filter fun e => e.state = jQueued).foldl (fun s e => s.jnlMark c e.seq jCancelled) s
  let s := s.upCtx c fun k =>
    let q0 (q : Seq) : Seq := { q with micro := {}, stall := none, xfer := none, marks := [], loopBuf := [] }
    let k := (((k.upSeq .x q0).upSeq .l q0).upSeq .c q0).upSeq .s q0
    let k := k.clearBoost
    { k with
      run := if k.saved then .saved else .idle, iter := none, tok := Vector.replicate 13 0, region := none, fq := [], sq0 := [], sq1 := [], collq := [],
      yq := [], heldCap := none, sp := Vector.replicate 4 Port.off, eqM := [], eqV := [], eqS := [], flight := [], copies := [],
      ie := k.ie.bind IeRun.killed, mu := none, posts := [], pend := [], hold := none, was := none, deadSince := none,
      csr := { k.csr with regmode := k.csr.regmode &&& ~~~2 } }
  s.setStatus c 4

/-- KILL_LAUNCH (R310): every placed, faulted or halted iteration ends, no further one is placed, and the launch has its
status. -/
def State.killLaunch (s : State) (l status cause : Nat) : State :=
  let s := (List.range s.ctxs.length).foldl (fun s c =>
    match (s.ctx c).iter with
    | some it => if it.launch = l && (s.ctx c).run ≠ .gone then s.killCtx c else s
    | none => s) s
  s.upLaunch l fun x => { x with ended := true, status := x.status.orElse fun _ => some (status, cause) }

/-- The launch of a context ends with a fault's code as its error status: STATUS FAULT (R310, R389). -/
def State.endFault (s : State) (c : Nat) : State :=
  let code := ((s.ctx c).frame.cause.toNat) % 256
  match (s.ctx c).iter with
  | some it => s.killLaunch it.launch 0x0A code
  | none => s.killCtx c

/-! ## Resumption (R309) -/

/-- The instruction of a word; a word that does not decode cannot have issued. -/
def instrOf (w : Word) : Option Instr := (decode w).toOption

/-- HALT of FAULTCAUSE (R301). -/
def haltBit : Word := 0x40000

/-- RESUME_CONTEXT (R309): engine instructions and EQUEUE first, then copies, then the streams; an open region is re-based, and an
input port fetches again from its first poisoned byte (R243); the bodies of active loops are captured again (R129); a routine
samples the directory again (R279); each stream that stood
at a breakpoint match issues that word once without testing it (R322). -/
def State.resume (s : State) (c : Nat) : State :=
  let k := s.ctx c
  let inRegion := k.region.isSome
  let back (src : Nat) (u : EUnit) : List EqEntry :=
    (((k.pend.filter fun p => p.source = src).filterMap (·.entry)).filter fun e => e.left || !inRegion) ++
      (k.frame.equeue.filter fun e => e.1 = u).map (·.2)
  let late (e : EqEntry) : EqEntry := { e with past := e.stamp.isSome }
  let on (y : Copy) : Copy := { y with fault := none }
  let s := if inRegion then
      (List.range k.acount).foldl (fun s i => s.upTile k.coreNo (k.abase + i) fun x => { x with wmHold := false }) s
    else s
  let s := s.upCtx c fun k =>
    let k := { k with
      run := .running, eqM := (back 4 .matrix).map late, eqV := (back 5 .vector).map late, eqS := (back 6 .sfu).map late,
      copies := k.copies.map on, pend := [], hold := none, deadSince := none,
      csr := { k.csr with faultcause := k.csr.faultcause &&& ~~~haltBit } }
    let k := match k.region with
      | some r =>
        { k with csr := { k.csr with tidebase := BitVec.ofNat 64 (s.tide + r.lead) }, region := some { r with opened := s.tide } }
      | none => k
    let calm (k : Ctx) (st : Stream) : Ctx := k.upSeq st fun q => { q with stall := none, micro := { q.micro with elide := none } }
    let k := calm (calm (calm (calm k .x) .l) .c) .s
    ((k.refetch 0).refetch 1 |>.refetch 2).refetch 3
  let hits := k.pend.filter fun p => p.cause.code = causeBkptMatch
  let s := hits.foldl (fun s p => s.upSeq c (streamNo p.source) fun q => { q with bkptSkip := some p.pc }) s
  (s.recapture c).setStatus c 3

/-! ## The actions (R302, R308) -/

/-- The action of a cause in service mode. -/
inductive Action
  | auto | hold | debug | finish
deriving DecidableEq, Repr

/-- The table of R302. -/
def actionOf (code : Nat) : Action :=
  if code = causeXlateFault then .auto
  else if code = causeFetchDenied || code = causeAccessDenied then .hold
  else if code = causeSchedMiss || code = causeSwTrap || code = causeBkptHit || code = causeBkptMatch then .debug
  else .finish

/-- How a context stands: a saved one as it stopped. -/
def Ctx.stand (k : Ctx) : Run := k.was.getD k.run

/-- A stopped context, which may have been saved since, stands another way. -/
def Ctx.setStand (k : Ctx) (r : Run) : Ctx := if k.run = .saved then { k with was := some r } else { k with run := r }

/-- A stopped context goes on: at once, or, if it has been saved since, when it is restored (R309, R319). -/
def State.comeBack (s : State) (c : Nat) : State := if (s.ctx c).run = .saved then s.upCtx c fun k => { k with was := none } else s.resume c

/-- HOLD (R308): reported to the function's log and to the physical function's, then waiting for the driver. -/
def State.holdFault (s : State) (c : Nat) : State :=
  let k := s.ctx c
  let h := k.frameHeader c
  ((s.logVf k.vf (.raw h)).logPf (.raw h)).upCtx c fun k => { k.setStand .faulted with hold := some s.tide }

/-- FC2's answer is applied to a stopped context (R308, R313). -/
def State.answerPaging (s : State) (c : Nat) (mapped : Bool) : State := if mapped then s.comeBack c else s.holdFault c

/-- The action for the fault in FAULTCAUSE (R308, R311). -/
def State.takeAction (s : State) (c : Nat) : State :=
  let k := s.ctx c
  match firstFault k.pend with
  | none => s
  | some f =>
    let halt (s : State) : State :=
      (s.upCtx c fun k =>
        { k with run := .halted, csr := { k.csr with faultcause := k.csr.faultcause ||| haltBit },
                 frame := { k.frame with cause := k.frame.cause ||| haltBit } }).setStatus c 2
    let bkpt := f.cause.code = causeBkptHit || f.cause.code = causeBkptMatch
    if s.strict c && !(bkpt && k.dbg) then s.endFault c
    else match actionOf f.cause.code with
      | .auto =>
        match s.serveFault c k.vf f.cause.addr f.cause.wr with
        | (s, .mapped) => s.resume c
        | (s, .declined) => s.holdFault c
        | (s, .record n) => s.upCtx c fun k => { k with run := .paging n }
      | .hold => s.holdFault c
      | .debug => if k.dbg then halt s else s.endFault c
      | .finish => s.endFault c

/-! ## Checkpoints and saves (R316 to R318) -/

/-- What puts a stopped instruction back at the head of its queue: one between slabs or bytes goes on with its tokens and its word
(R189, R244), any other issues again (R180). One of a region that has ended issues when it can. -/
def Inflight.entry (f : Inflight) (midop : Bool) (progress : Nat) : EqEntry :=
  { ord := f.ord, instr := f.instr, pc := f.pc, word := f.word, mid := if midop then some progress else none,
    fword := if midop then f.fword else none, taken := midop, stamp := if f.timed then some (0, 0) else none, left := f.timed && f.owns,
    past := f.timed, full := f.mask.getLsbD 1, win := if midop then some f.win else none, bytes := if midop then f.bytes.drop (progress - f.wrote) else [],
    slabs := if midop then f.slabs else none, effs := if midop && f.slabs.isSome then f.effs else [] }

/-- Words go back to the head of an engine queue, or of what EQUEUE keeps of it once the context has stopped. -/
def Ctx.requeue (k : Ctx) (u : EUnit) (es : List EqEntry) : Ctx :=
  if k.run = .running then k.setEq u (es ++ k.eq u)
  else { k with frame := { k.frame with equeue := es.map (fun e => (u, e)) ++ k.frame.equeue } }

/-- The VSTs, or VLDs, behind a stopped one at its port stop with it, since a port works in stream order (R243, R244): none of their bytes
is written, or elements popped, and they begin again at resumption; those of an open region run again with it (R312). -/
def Ctx.stopPort (k : Ctx) (f : Inflight) : Ctx :=
  match f.port with
  | none => k
  | some p =>
    let behind (g : Inflight) : Bool :=
      g.unit = .vector && g.port = some p && g.pushes p = f.pushes p && g.st = f.st && decide (f.ord < g.ord)
    let more := (k.flight.filter behind).filter (·.owns)
    let k := { k with flight := k.flight.filter fun g => !behind g }
    let k := if f.pushes p then { k with sp := vmod k.sp p fun q => { q with outQ := q.outQ.filter fun b => b.owner < f.ord } } else k
    k.requeue .vector (more.map fun g => g.entry true g.wrote)

/-- A product at the boundary that a stop finds next: the slab under way is completed (R280, R316). -/
def Inflight.atSlab (f : Inflight) (now : Nat) : Inflight :=
  match f.slabs with
  | none => f
  | some r => { f with mid := some (r.done + min r.ends.length (r.ended now + 1)), slabs := some (r.left (min r.ends.length (r.ended now + 1))) }

/-- The tile of a product that stops: its slabs so far, held at WM 0 and BUSY 1 as R189 holds it. -/
def Inflight.stopTile (f : Inflight) (now : Nat) (x : Tile) : Tile :=
  match f.slabs with
  | none => { x with wmHold := true }
  | some r => { r.tileAt (min r.ends.length (r.ended now + 1)) with wmHold := true, chkerr := x.chkerr }

/-- The bytes that a VST has written to its port, if it is one whose port has bytes to write. -/
def Ctx.written (k : Ctx) (f : Inflight) : Nat :=
  match f.port with
  | none => 0
  | some p => f.wrote + (f.bytes.length - ((k.port p).outQ.filter fun b => b.owner = f.ord).length)

/-- The record of an instruction that a checkpoint stops between two steps of its routine: MIDOP, and no cause (R316). -/
def Inflight.stopped (f : Inflight) (progress : Nat) : Pending :=
  { source := EUnit.source f.unit, precise := false, cause := mkCause 0 0, tide := 0, pc := f.pc, word := f.word, fword := f.fword,
    progress := progress, unissued := false, midop := true, ord := f.ord, entry := some (f.entry true progress) }

/-- An instruction between two steps of its routine stops there at a checkpoint (R316), but for one of an open region, of which nothing is
kept (R312). A later writer of a stopped product's tile, and what stands behind a stopped VST at its port, begin again after it. -/
def Ctx.stopMid (k : Ctx) (now : Nat) : Ctx :=
  let later : List Inflight := k.flight.filter (k.behindTile now)
  let products : List Inflight := (k.flight.filter fun f => f.unit = .matrix && f.between now).map (·.atSlab now)
  let k : Ctx := { k with
    pend := k.pend ++ (products.filter (·.owns)).map (fun f => f.stopped (f.mid.getD 0))
    flight := k.flight.filter fun f => !(f.unit = .matrix && f.between now) && !k.behindTile now f }
  let k := k.requeue .matrix ((later.filter (·.owns)).map fun g => { g.entry true 0 with mid := none })
  let stores : List Inflight := k.flight.filter fun f => f.unit = .vector && f.between now
  let first (f : Inflight) : Bool := stores.all fun g => g.port ≠ f.port || decide (f.ord ≤ g.ord)
  (stores.filter first).foldl (fun k f =>
    (({ k with pend := k.pend ++ (if f.owns then [f.stopped (k.written f)] else []), flight := k.flight.filter fun g => !g.same f } : Ctx).stopPort f)) k

/-- CHECKPOINT (R316): the streams of a running context stop without a fault. A context that has already taken one stops for that fault. -/
def State.beginCheckpoint (s : State) (c : Nat) : State :=
  if (s.ctx c).run ≠ .running then s
  else if (firstFault (s.ctx c).pend).isSome then s.faultStop c
  else
    let k := s.ctx c
    let now := s.tide
    let s := (k.flight.filter fun f => f.unit = .matrix && f.between now).foldl (fun s f => match f.tile with
      | some t => s.upTile k.coreNo t (f.stopTile now)
      | none => s) s
    let s := (s.stopStreams c).upCtx c fun k =>
      { k with run := .saving, csr := { k.csr with faultcause := 0, faultaddr := 0 }, frame := { k.frame with tide := s.tide } }
    s.upCtx c fun k => k.stopMid now

/-- An input port empties for a save (R317): its generators stand at its first unconsumed element. -/
def Ctx.rewindPort (k : Ctx) (n : Nat) : Ctx :=
  let p := k.port n
  if p.dir ≠ 1 then k
  else
    let back (k : Ctx) (a off m : Nat) : Ctx × Nat :=
      let g := k.agN a
      let c := max g.prog.chunk 1
      let o := g.pos * c + off - m
      ({ k with ag := vmod k.ag a fun g => { g with pos := o / c } }, o % c)
    let (k, off) := back k p.agd p.chunkOff p.fifo.length
    let (k, soff) := match p.ags with
      | none => (k, 0)
      | some a => back k a p.schunkOff p.sfifo.length
    { k with sp := vmod k.sp n fun p => { p with fifo := [], chunkOff := off, sfifo := [], schunkOff := soff } }

/-- ACC_CHECK of element `e` of logical tile `i` (R67, R467). -/
def accCheck (i e : Nat) : Cause := mkCause causeAccCheck (kindAddr 2 (i * 2 ^ 14 + e))

/-- CHKERR of a tile, and the core's score (R67, R446). -/
def State.noteAcc (s : State) (c i : Nat) : State :=
  let k := s.ctx c
  (s.upTile k.coreNo (k.abase + i) fun t => { t with chkerr := true }).addScore .core k.coreNo 256

/-- A tile of the context that fails the comparison of R67, with its first failing element. -/
def State.badTile (s : State) (c : Nat) : Option (Nat × Nat) :=
  let k := s.ctx c
  (List.range k.acount).findSome? fun i =>
    ((vgetD (s.core k.coreNo).tiles (k.abase + i) Tile.zero).badElem 0 128 128).map fun e => (i, e)

/-- Every tile that a save compares and finds wrong: CHKERR and the core's score (R67, R446). -/
def State.checkTiles (s : State) (c : Nat) : State :=
  let k := s.ctx c
  (List.range k.acount).foldl (fun s i =>
    match (vgetD (s.core k.coreNo).tiles (k.abase + i) Tile.zero).badElem 0 128 128 with
    | some _ => s.noteAcc c i
    | none => s) s

/-- A save (R316, R317): the implicit release, and the items go out. -/
def State.saveOut (s : State) (c : Nat) : State :=
  let s := (s.releaseAll c).saveItems c
  s.upCtx c fun k =>
    let k := (List.range 4).foldl (fun k i => k.rewindPort i) k
    { k with core := none, run := .saved, fq := [], sq0 := [], sq1 := [], collq := [] }

/-! ## The close -/

/-- Whether the stop has settled (R307): the queues are empty, no step of a routine is under way (R280), and nothing is in flight but what has faulted and what only waits for
room to post, which the stop, moving no token, leaves waiting (log 68). -/
def Ctx.settled (k : Ctx) (now : Nat) : Bool :=
  ([Stream.x, .l, .c, .s].all fun st => (k.seq st).loadQ = [] && (k.seq st).storeQ = [] && !((k.seq st).micro.active && decide (now < (k.seq st).micro.due))) &&
    k.flight.all (k.posting now) &&
    k.copies.all (fun y => y.fault.isSome || (y.landed && !k.canPost y.post)) && k.ie.all (fun r => r.ended) && k.mu.all (fun r => r.ended)

/-- What only waits for room to post leaves its engine: its post stays owed, and its format word is done with. -/
def State.owePosts (s : State) (c : Nat) : State :=
  let fs := (s.ctx c).flight
  let s := (fs.filter (·.owns)).foldl (fun s f => s.fqDone c f.fword true) s
  s.upCtx c fun k =>
    { k with posts := k.posts ++ fs.map (fun f => (f.post, 0)) ++ (k.copies.filter (·.landed)).map fun y => (y.post, 0)
             flight := [], copies := k.copies.filter fun y => !y.landed }

/-- FRAME_CLOSE (R307, R308, R316): the frame closes; FC3 takes its action, or FC1 saves the context. -/
def tryFrameClose (c : Nat) (s : State) : Option State :=
  let k := s.ctx c
  if !k.settled s.tide then none
  else
  let s := s.owePosts c
  match k.run with
    | .stopping =>
      let s := (s.closeFrame c 1).upCtx c fun k => { k with run := .faulted }
      some (((s.writeFrame c).takeAction c))
    | .saving =>
      if (firstFault k.pend).isSome then some (s.upCtx c fun k => { k with run := .stopping, frame := { k.frame with tide := k.faultTide } })
      else match s.badTile c with
        | some (i, e) =>
          some ((looseFault (s.checkTiles c) c 4 (accCheck i e)).upCtx c fun k =>
            { k with run := .stopping, frame := { k.frame with tide := k.faultTide } })
        | none =>
          let s := s.closeFrame c 5
          some ((s.writeFrame c).saveOut c)
    | _ => none

def execFrameClose (ctx : Nat) (s : State) : Out := .next ((tryFrameClose ctx s).getD s)

/-- HOLD_ABORT_TIMEOUT (R308): 2^34 cycles without the driver's answer. -/
def tryHoldAbortTimeout (c : Nat) (s : State) : Option State :=
  match (s.ctx c).hold with
  | some t => if (s.ctx c).stand = .faulted && t + 2 ^ 34 ≤ s.tide then some (s.endFault c) else none
  | none => none

def execHoldAbortTimeout (ctx : Nat) (s : State) : Out := .next ((tryHoldAbortTimeout ctx s).getD s)

/-- HOLD_ANSWER (R308): the driver answers RESUME or ABORT. -/
def execHoldAnswer (ctx : Nat) (resume : Bool) (s : State) : Out :=
  if (s.ctx ctx).stand = .faulted && (s.ctx ctx).hold.isSome then .next (if resume then s.comeBack ctx else s.endFault ctx)
  else .next s

/-- A declined page is noted for the commands of a context that run (R254, R437). -/
def Ctx.refuse (k : Ctx) (page : Nat) : Ctx :=
  let f (r : IeRun) : IeRun := { r with refused := some page }
  let g (r : CollRun) : CollRun := { r with refused := some page }
  { k with ie := k.ie.map f, coll := k.coll.map g }

/-- FC2's answer to a record reaches every context that waits for it (R314, R359). -/
def State.answerRecord (s : State) (n : Nat) (mapped : Bool) : State :=
  let page := ((s.faults.find? fun r => r.num = n).map fun r => (r.vf, r.va.toNat / 65536)).getD (0, 0)
  let s := { s with faults := s.faults.filter fun r => r.num ≠ n }
  let s := if mapped then s else { s with ctxs := s.ctxs.map fun k => if k.vf = page.1 then k.refuse page.2 else k }
  (List.range s.ctxs.length).foldl (fun s c => if (s.ctx c).stand = .paging n then s.answerPaging c mapped else s) s

/-- FAULT_RECORD_TIMEOUT (R359): a record with no answer after 2^34 cycles is DECLINED. -/
def tryFaultRecordTimeout (n : Nat) (s : State) : Option State :=
  if s.faults.any fun r => r.num = n && decide (r.tide + 2 ^ 34 ≤ s.tide) then some (s.answerRecord n false) else none

def execFaultRecordTimeout (recno : Nat) (s : State) : Out := .next ((tryFaultRecordTimeout recno s).getD s)

/-- A checkpoint of one cohort member checkpoints every member (R396). -/
def State.checkpoint (s : State) (c : Nat) : State :=
  match (s.ctx c).iter.bind fun it => (s.launch? it.launch).map fun l => (it, l) with
  | some (it, l) =>
    if l.lrec.cohort = 0 then s.beginCheckpoint c
    else
      let g := it.ordinal / l.lrec.cohort
      let s := s.upLaunch it.launch fun x => { x with group := x.group.filter fun e => e.2.1 ≠ g }
      (List.range s.ctxs.length).foldl (fun s i => match (s.ctx i).iter with
      | some j => if j.launch = it.launch && j.ordinal / l.lrec.cohort = it.ordinal / l.lrec.cohort then s.beginCheckpoint i else s
      | none => s) s
  | none => s.beginCheckpoint c

/-- A context that has stopped and waits for FC2, the driver or a debugger is saved as it stands, and is restored once it may go on (R316, R401; log 84). -/
def State.saveStopped (s : State) (c : Nat) : State :=
  match (s.ctx c).run with
  | .faulted => (s.saveOut c).upCtx c fun k => { k with was := some .faulted }
  | .halted => (s.saveOut c).upCtx c fun k => { k with was := some .halted }
  | .paging n => (s.saveOut c).upCtx c fun k => { k with was := some (.paging n) }
  | _ => s

/-- FC1 checkpoints what holds an iteration, whatever state it is in (R316, R401). -/
def State.forceOut (s : State) (c : Nat) : State := if (s.ctx c).run = .running then s.checkpoint c else s.saveStopped c

/-! ## Restoration (R319, R320) -/

/-- Contexts resident on a core. -/
def State.residents (s : State) (core : Nat) : List Ctx := s.ctxs.filter fun k => k.core = some core && k.run ≠ .gone

/-- The lowest base at which `n` units fit among ranges in use below a limit. -/
def firstFit (used : List (Nat × Nat)) (limit n : Nat) : Option Nat :=
  (List.range (limit + 1)).find? fun b => decide (b + n ≤ limit) && used.all fun u => b + n ≤ u.1 || u.1 + u.2 ≤ b || n = 0

/-- Room on a core for an allotment of blocks, tiles and barriers beside its residents (R25, R319). -/
def State.room (s : State) (core blocks tiles bars : Nat) : Option (Nat × Nat × Nat) :=
  let rs := s.residents core
  if 4 ≤ rs.length then none
  else
    match firstFit (rs.map fun k => (k.baseBlk, k.endBlk - k.baseBlk)) 1024 blocks,
          firstFit (rs.map fun k => (k.abase, k.acount)) 32 tiles,
          firstFit (rs.map fun k => (k.bbase, k.bcount)) 128 bars with
    | some b, some a, some r => some (b, a, r)
    | _, _, _ => none

/-- SPBASE, SPLIMIT and ACCMAP of an allotment (R20, R24). -/
def allotWords (b blocks a tiles r bars : Nat) : Word × Word × Word :=
  (BitVec.ofNat 64 b, BitVec.ofNat 64 (b + blocks), BitVec.ofNat 64 (bars * 2 ^ 32 + r * 2 ^ 24 + tiles * 2 ^ 16 + a))

/-- JOURNAL_REPLAY (R320): the decoupled queues are rebuilt from the QUEUED entries. -/
def Ctx.replay (k : Ctx) : Ctx :=
  let q := k.journal.filter fun e => e.state = jQueued
  let sq (n : Nat) : List SqEntry := (q.filter fun e => e.queue = n).map fun e => { seq := e.seq, blk := e.bytes }
  { k with
    fq := (q.filter fun e => e.queue = 1).map fun e => { word := fieldW e.body 0, seq := e.seq }
    sq0 := sq 2
    sq1 := sq 3
    collq := (q.filter fun e => e.queue = 4).map fun e =>
      { seq := e.seq, prog := fieldW e.body 0, arg := fieldW e.body 8, comm := fieldN e.body 16 2, reply := fieldN e.body 18 1 % 2 = 1 } }

/-- Whether a core refuses FC1's write of a context's SPBASE, SPLIMIT and ACCMAP (R25): it would overlap another resident context's
allotment, or run past the core's tiles, barriers or blocks. -/
def State.allotConflict (s : State) (c core : Nat) (w : Word × Word × Word) : Bool :=
  let n : Ctx := { Ctx.blank with csr := { Csrs.zero with spbase := w.1, splimit := w.2.1, accmap := w.2.2 } }
  let meet (a n b m : Nat) : Bool := decide (a < b + m) && decide (b < a + n)
  decide (32 < n.abase + n.acount) || decide (128 < n.bbase + n.bcount) || decide (n.endBlk < n.baseBlk) ||
    (List.range s.ctxs.length).any fun d =>
      let k := s.ctx d
      d ≠ c && k.core = some core && k.run ≠ .gone &&
        (meet n.baseBlk n.blocks k.baseBlk k.blocks || meet n.abase n.acount k.abase k.acount || meet n.bbase n.bcount k.bbase k.bcount)

/-- FC1 writes an allotment; none is ALLOT_CONFLICT, and the context keeps the old one (R25). -/
def State.writeAllot (s : State) (c core : Nat) (w : Word × Word × Word) : Option State :=
  if s.allotConflict c core w then none
  else some (s.upCtx c fun k => { k with csr := { k.csr with spbase := w.1, splimit := w.2.1, accmap := w.2.2 } })

/-- One saved context is made resident on a core with room for its allotment (R319), in the order of R319. An uncorrectable sector that FC1
meets in its save area is MEM_UNCORR of the context as a whole (R145, R350; log 82). -/
def State.restoreOne (s : State) (c core : Nat) : Option State :=
  let k := s.ctx c
  match k.run, k.saved with
  | .saved, true =>
    match s.room core k.blocks k.acount k.bcount with
      | none => none
      | some (b, a, r) =>
        (((s.restoreItems c core b a r).writeAllot c core (allotWords b k.blocks a k.acount r k.bcount))).map fun s =>
          let s := s.upCtx c fun k =>
            { k.replay with core := some core, quantum := s.tide, spent := false, run := if k.iter.isSome then .stopping else .idle }
          let s := s.acquire c 3
          let s := s.upCtx c fun k =>
            k.bindNew.foldl (fun k e => { k with binding := vmod k.binding e.1 fun _ => e.2 }) { k with bindNew := [] }
          let s := if (s.ctx c).iter.isSome then s.resume c else s
          match s.areaError k with
          | some x => looseFault (s.chargeUncorr (x * 128)) c 8 (mkCause causeMemUncorr (BitVec.ofNat 64 (x * 128)))
          | none => s
  | _, _ => none

end Sys2Proof.Machine
end

