-- ==== Sys2Proof/Machine/System.lean ====
section
/-! DEFINITION. System instructions (R35, R36, R172 to R175) and the binding of tenant opcodes (R89, R90, R264). -/

namespace Sys2Proof.Machine

/-! ## CSRs -/

/-- The words that a CSRR reads from a set of CSRs (R35). -/
def csrWord (k : Ctx) (c : Nat) (r : Csrs) (n : Nat) : Word :=
  match n with
  | 0x000 => BitVec.ofNat 64 (ctxid c)
  | 0x001 => BitVec.ofNat 64 k.vf
  | 0x002 => r.codebase
  | 0x003 => r.codebound
  | 0x004 => r.spbase
  | 0x005 => r.splimit
  | 0x006 => r.accmap
  | 0x007 => r.tidebase
  | 0x008 => r.regmode
  | 0x009 => r.schedmiss
  | 0x00A => r.vshape
  | 0x00B => r.vctl
  | 0x00C => r.vstat
  | 0x00D => r.faultcause
  | 0x00E => r.faultaddr
  | 0x010 => r.faultpc[0]
  | 0x011 => r.faultpc[1]
  | 0x012 => r.faultpc[2]
  | 0x013 => r.faultpc[3]
  | 0x014 => r.jnlbase
  | 0x015 => r.jnlhead
  | 0x016 => BitVec.ofNat 64 k.jnlLow
  | 0x017 => r.capword
  | 0x018 => r.tdstat
  | 0x019 => r.scopelimit
  | 0x01A => r.scopeclamp
  | 0x01B => r.featmask
  | 0x01C => r.prio
  | 0x01D => r.est
  | _ => 0

/-- The value a CSRR reads: in the cycle of a CSRW, the value before any of them (R36). -/
def State.readCsr (s : State) (c n : Nat) : Word :=
  let k := s.ctx c
  if 0x020 ≤ n then
    let now := s.accOf k (n - 0x020)
    match k.oldNow s.tide with
    | some o => ((o.acc.find? fun e => e.1 = n - 0x020).map (·.2)).getD now
    | none => now
  else csrWord k c (((k.oldNow s.tide).map (·.csrs)).getD k.csr) n

/-- CSRR (R172). -/
def execCsrr (g : Guard) (d : BitVec 5) (csr : BitVec 12) (s : State) : Out :=
  runSeq (.csrr g d csr) g false false [] [d]
    (fun c st s =>
      let k := s.ctx c
      let n := csr.toNat
      if 0x020 ≤ n && k.acount ≤ n - 0x020 then .trap (mkCause causeAllotRange (kindAddr 2 (n - 0x020))) s
      else .done (s.upSeq c st fun q => q.wx d (s.readCsr c n))) s

/-- Whether a value is one that VSHAPE refuses (R17). -/
def vshapeBad (w : Word) : Bool := !shapeOk (w.extractLsb' 0 24)

/-- The effect of a CSRW on the CSRs held as words: read-only registers and fields keep their value (R4, R35). -/
def Csrs.write (r : Csrs) (n : Nat) (w : Word) : Csrs :=
  match n with
  | 0x008 => { r with regmode := (r.regmode &&& ~~~1) ||| (w &&& 1) }
  | 0x009 => { r with schedmiss := w }
  | 0x00A => { r with vshape := w &&& 0xFFFFFF }
  | 0x00B => { r with vctl := w &&& 1 }
  | 0x00C => { r with vstat := r.vstat &&& ~~~w }
  | 0x018 => { r with tdstat := w }
  | 0x01A => { r with scopeclamp := w }
  | 0x01D => { r with est := w }
  | _ => r

/-- CSRW of an ACCSTAT: the write-one-to-clear flags (R21). -/
def Tile.clearFlags (t : Tile) (w : Word) : Tile :=
  { t with chkerr := t.chkerr && !bitN w 9, depth := t.depth && !bitN w 2, inx := t.inx && !bitN w 1, wovf := t.wovf && !bitN w 0 }

/-- CSRW (R172). The stream waits at a valid write to JNLBASE until JNLLOW = JNLHEAD (R33). -/
def execCsrw (g : Guard) (a : BitVec 5) (csr : BitVec 12) (s : State) : Out :=
  runSeq (.csrw g a csr) g false false [a] []
    (fun c st s =>
      let k := s.ctx c
      let n := csr.toNat
      let w := (k.seq st).rx a
      let bad : Cause := { code := causeReservedField, detail := 0xFD, addr := wordOf (.csrw g a csr) }
      if 0x020 ≤ n then
        (if k.acount ≤ n - 0x020 then .trap (mkCause causeAllotRange (kindAddr 2 (n - 0x020))) s
         else .done ((s.snapCsr c).upTile k.coreNo (k.abase + (n - 0x020)) fun t => t.clearFlags w))
      else if n = 0x00A && vshapeBad w then .trap bad s
      else if n = 0x014 then
        (if 7 ≤ bitsN w 3 0 then .trap bad s
         else if k.jnlLow ≠ k.csr.jnlhead.toNat then .stall .other (s.upCtx c fun k => { k with jnlPending := k.jnlPending.or (some (st, w)) })
         else .done ((s.snapCsr c).upCtx c fun k => k.setJnlbase w))
      else .done ((s.snapCsr c).upCtx c fun k => { k with csr := k.csr.write n w })) s

/-! ## Services (R173) -/

/-- Issue a SYSC: it waits for the stream's accesses at TENANT scope. -/
def runSysc (i : Instr) (g : Guard) (body : Nat → Stream → State → Res) (s : State) : Out :=
  runSeq i g false false [10, 11, 12, 13] [10, 11]
    (fun c st s =>
      let q := s.seq c st
      if q.loadQ ≠ [] || q.storeQ ≠ [] || !s.ownHome c st 2 then .stall .other s
      else body c st (s.sendHome c st 2)) s

/-- INFO, and a number that names no service. -/
def execSyscInfo (g : Guard) (n : BitVec 32) (s : State) : Out :=
  runSysc (.syscInfo g n) g
    (fun c st s =>
      let core := (s.ctx c).coreNo
      .done (s.upSeq c st fun q =>
        if n = 0 then (q.wx 10 1).wx 11 (BitVec.ofNat 64 (core / 16 * 256 + core % 16)) else q.wx 10 (BitVec.allOnes 64))) s

/-- LOG: the message, or the code of the first cause. -/
def execSyscLog (g : Guard) (s : State) : Out :=
  runSysc (.syscLog g) g
    (fun c st s =>
      let k := s.ctx c
      let va := (k.seq st).rx 10
      let done (s : State) (code : Nat) : Res := .done (s.upSeq c st fun q => q.wx 10 (BitVec.ofNat 64 code))
      match s.checkVa k.core k.vf .rd va 64 with
      | (s, .error e) => done s e.code
      | (s, .ok (pa, key)) =>
        if s.pinnedElsewhere 128 pa then .stall .other (s.notePin 128 128 pa)
        else if s.channelHeld key pa 64 false then .stall .other s
        else if s.peerWaits k.vf pa 64 then .stall .other (s.askPeers [(k.vf, pa, 64)])
        else
          let (s, bs, bad) := (s.served 128 (pa / 1024)).dieLoad 0 k.vf false key pa 64
          if bad then done s causeMemUncorr else done (s.logVf k.vf (.raw bs)) 0) s

/-- PREFAULT. -/
def execSyscPrefault (g : Guard) (s : State) : Out :=
  runSysc (.syscPrefault g) g
    (fun c st s =>
      let k := s.ctx c
      let q := k.seq st
      let (s, n) := s.prefaultRange k.vf (q.rx 10).toNat (q.rx 11).toNat
      .done (s.upSeq c st fun q => q.wx 10 (BitVec.ofNat 64 n))) s

/-- Whether the context's launch drains it (R315). -/
def State.draining (s : State) (c : Nat) : Bool :=
  match (s.ctx c).iter.bind fun it => s.launch? it.launch with
  | some l => (s.ctx c).spent || l.drain.any fun e => e.ctx = c && e.soft
  | none => false

/-- YIELD: a pre-emption point. A context under DRAIN is checkpointed here, with its cohort (R396). -/
def execSyscYield (g : Guard) (s : State) : Out :=
  runSysc (.syscYield g) g
    (fun c st s =>
      let drain := s.draining c
      let s := s.upSeq c st fun q => (q.wx 10 0).advance
      .jump (if drain then s.checkpoint c else s)) s

/-! ## Traps by instruction -/

/-- The word completes, and the context stops precisely at it: resumption goes on at the next word (R174, R304). -/
def stopAfter (i : Instr) (cause : Cause) (c : Nat) (st : Stream) (s : State) : Res :=
  let pc := (s.seq c st).pc
  .jump (preciseFault (s.upSeq c st Seq.advance) c st pc (wordOf i) cause)

/-- TRAP (R174). -/
def execTrap (g : Guard) (imm : BitVec 32) (s : State) : Out :=
  runSeq (.trap g imm) g false false [] []
    (fun c st s => stopAfter (.trap g imm) (mkCause causeSwTrap (zext32 imm)) c st s) s

/-- Whether an address lies in a range that FC2 placed as SHARED (R102). -/
def State.isShared (s : State) (a : Nat) : Bool := s.sharedCode.any fun r => decide (r.1 ≤ a) && decide (a < r.2)

/-- BKPT (R175). -/
def execBkpt (g : Guard) (imm : BitVec 32) (s : State) : Out :=
  runSeq (.bkpt g imm) g false false [] []
    (fun c st s =>
      let tag : Word := (imm.extractLsb' 0 16).zeroExtend 64
      if s.isShared (s.seq c st).pc.toNat then .trap (mkCause causeBkptShared tag) s
      else if (s.ctx c).dbg then stopAfter (.bkpt g imm) (mkCause causeBkptHit tag) c st s
      else .done s) s

/-! ## Binding (R264) -/

/-- The bindings that FC5 refuses (R90). -/
def bindingRefused (k : Ctx) (w : Word) : Bool :=
  bitN w 63 &&
    (bitsN w 62 59 = 0 || bitsN w 55 40 = 0 || bitsN w 58 56 ≠ 0 || bitsN w 39 38 ≠ 0 || bitsN w 31 13 ≠ 0 ||
     (match k.image with | none => true | some m => decide (m.words.length ≤ bitsN w 12 0)))

/-- OPBIND (R264): the entry is in force from the target's next iteration start or switch-in. -/
def execOpbind (g : Guard) (d a b : BitVec 5) (idx : BitVec 6) (s : State) : Out :=
  runSeq (.opbind g d a b idx) g false false [a, b] [d]
    (fun c st s =>
      let q := s.seq c st
      let t := (q.rx a).toNat
      let w := q.rx b
      let known := t < 65536 && decide (t < s.ctxs.length) && (s.ctx t).run ≠ .gone
      if !known then .done (s.upSeq c st fun q => q.wx d 2)
      else if bindingRefused (s.ctx t) w then .done (s.upSeq c st fun q => q.wx d 1)
      else
        let s := s.upCtx t fun k => { k with bindNew := k.bindNew ++ [(idx.toNat, if bitN w 63 then w else 0)] }
        .done (s.upSeq c st fun q => q.wx d 0)) s

end Sys2Proof.Machine
end

