-- ==== Sys2Proof/Machine/Engine.lean ====
section
/-! DEFINITION. The engines: how the C stream sends an engine word (R168, R306), how an engine issues it (R179, R180, R182, R183,
R233), and how it lands or completes (R181, R230). What each instruction does is in Matrix, Vector and Sfu. -/

namespace Sys2Proof.Machine

/-! ## Queues and resources -/

/-- What an instruction occupies (R181, R230). -/
inductive Resource
  | none
  | array
  | path
  | arrayPath
  | vec
  | sfu
deriving DecidableEq, Repr

/-- Whether throttling withholds issue in this cycle (R457). -/
def State.gated (s : State) : Bool := 64 ≤ s.tide % 64 + bitsN s.pwrstat 2 0 * 8

/-- Whether an engine of a core stands still on a post, or an unfinished product from a port holds it. -/
def State.unitHeld (s : State) (core : Nat) (u : EUnit) (arr : Bool) : Bool :=
  s.ctxs.any fun k => k.core = some core && k.flight.any fun f =>
    f.unit = u && (if f.mid.isSome then arr else decide (f.due < s.tide))

/-- Whether a resource of a core is free in this cycle. -/
def State.resFree (s : State) (core : Nat) (u : EUnit) (r : Resource) : Bool :=
  let h := s.core core
  match r with
  | .none => h.stageFree ≤ s.tide && !s.unitHeld core u false
  | .array => h.stageFree ≤ s.tide && h.arrayFree ≤ s.tide && !s.unitHeld core u true
  | .path => h.stageFree ≤ s.tide && h.pathFree ≤ s.tide && !s.unitHeld core u false
  | .arrayPath => h.stageFree ≤ s.tide && h.arrayFree ≤ s.tide && h.pathFree ≤ s.tide && !s.unitHeld core u true
  | .vec => h.vecFree ≤ s.tide && !s.unitHeld core u false
  | .sfu => h.sfuFree ≤ s.tide && !s.unitHeld core u false

/-- Occupy a resource until issue + O; the matrix engine's issue stage takes one instruction a cycle. MMA.C holds the transfer
path for its first 32 cycles. -/
def Core.occupy (h : Core) (r : Resource) (now o : Nat) : Core :=
  match r with
  | .none => { h with stageFree := now + 1 }
  | .array => { h with stageFree := now + 1, arrayFree := now + o }
  | .path => { h with stageFree := now + 1, pathFree := now + o }
  | .arrayPath => { h with stageFree := now + 1, arrayFree := now + o, pathFree := now + 32 }
  | .vec => { h with vecFree := now + o }
  | .sfu => { h with sfuFree := now + o }

/-! ## What an instruction uses -/

/-- Vector registers, vector predicates and scratchpad ranges that an engine word reads and writes. -/
structure Uses where
  vr : List Nat := []
  vw : List Nat := []
  pr : List Nat := []
  pw : List Nat := []
  sr : List (Nat × Nat) := []
  sw : List (Nat × Nat) := []

/-- The governing predicate of a masked operation. -/
def maskOf (mken : Bool) (mm : BitVec 3) : List Nat := if mken then [mm.toNat] else []

/-- The scratchpad ranges of whole rows of a window; X128 spreads rows over 4 KiB groups (R238). -/
def Win.ranges (w : Win) (r0 nr : Nat) : List (Nat × Nat) :=
  let lo := r0 * w.rowSize
  let hi := (r0 + nr) * w.rowSize
  let d := if w.swz = 2 then (w.data + lo / 4096 * 4096, cdiv hi 4096 * 4096 - lo / 4096 * 4096) else (w.data + lo, hi - lo)
  if w.layout = 0 then [d] else [d, (w.scale, w.scaleSize)]

/-- The whole of a window by number. -/
def Ctx.winRange (k : Ctx) (n : Nat) : List (Nat × Nat) := let w := k.winN n; w.ranges 0 w.rows

/-- The rows of a window that a vector instruction covers. -/
def Ctx.vecRange (k : Ctx) (win : BitVec 6) (xo : BitVec 5) : List (Nat × Nat) :=
  (k.winN win.toNat).ranges (bitsN ((k.seq .c).rx xo) 31 0) k.rows

/-- Sources VA, and VB, of the common layout. -/
def useA (o : VOp) : Uses := { vr := [o.va.toNat], vw := [o.vd.toNat], pr := maskOf o.mken o.mm }
def useAB (o : VOp) : Uses := { vr := [o.va.toNat, o.vb.toNat], vw := [o.vd.toNat], pr := maskOf o.mken o.mm }

/-- What an engine word uses; what it uses of the scratchpad depends on the windows. -/
def usesOf (k : Ctx) (i : Instr) : Uses :=
  match i with
  | .vld _ vr port win xo _ mken mm =>
    { vw := [vr.toNat], pr := maskOf mken mm, sr := if port then [] else k.vecRange win xo }
  | .vst _ vr port win xo _ mken mm =>
    { vr := [vr.toNat], pr := maskOf mken mm, sw := if port then [] else k.vecRange win xo }
  | .vmov _ o => useA o
  | .vbcast _ o => { vw := [o.vd.toNat], pr := maskOf o.mken o.mm }
  | .vadd _ o => useAB o
  | .vsub _ o => useAB o
  | .vmul _ o => useAB o
  | .vfma _ o => { vr := [o.va.toNat, o.vb.toNat, o.vd.toNat], vw := [o.vd.toNat], pr := maskOf o.mken o.mm }
  | .vmin _ o => useAB o
  | .vmax _ o => useAB o
  | .vabs _ o => useA o
  | .vneg _ o => useA o
  | .vand _ o => useAB o
  | .vor _ o => useAB o
  | .vxor _ o => useAB o
  | .vshl _ o => useAB o
  | .vshr _ o => useAB o
  | .viadd _ o => useAB o
  | .vimul _ o => useAB o
  | .vcmp _ o => { vr := [o.va.toNat, o.vb.toNat], pr := maskOf o.mken o.mm, pw := [o.vd.toNat % 8] }
  | .vsel _ o => useAB o
  | .vcvt _ towin dst va _ _ _ _ _ =>
    if towin then { vr := [va.toNat], sw := (k.winN dst.toNat).ranges 0 k.rows } else { vr := [va.toNat], vw := [dst.toNat % 32] }
  | .vred _ o => useA o
  | .vscan _ o => useA o
  | .vtrn _ o => useA o
  | .vperm _ o => useAB o
  | .vext _ vd va vb _ _ => { vr := [va.toNat, vb.toNat], vw := [vd.toNat] }
  | .vrcp _ o => useA o
  | .vrsq _ o => useA o
  | .vrcps _ o => useAB o
  | .vrsqs _ o => useAB o
  | .vexp2 _ o => useA o
  | .vlog2 _ o => useA o
  | .mma _ aw bw _ _ => { sr := k.winRange aw.toNat ++ k.winRange bw.toNat }
  | .mmaS _ aw _ _ _ => { sr := k.winRange aw.toNat }
  | .mmaC _ bw _ _ _ => { sr := k.winRange bw.toNat }
  | .accLd _ w _ _ => { sr := k.winRange w.toNat }
  | .accRd _ w _ _ _ _ => { sw := k.winRange w.toNat }
  | .accRdx _ w _ _ => { sw := k.winRange w.toNat }
  | .tfillZero _ blk n => { sw := [(blk.toNat * 16384, (n.toNat + 1) * 16384)] }
  | .tfillConst _ _ blk _ n => { sw := [(blk.toNat * 16384, (n.toNat + 1) * 16384)] }
  | .tfillIdent _ _ blk n => { sw := [(blk.toNat * 16384, (n.toNat + 1) * 16384)] }
  | _ => {}

/-- Whether two lists of ranges meet. -/
def rangesMeet (a b : List (Nat × Nat)) : Bool := a.any fun x => b.any fun y => overlaps x.1 x.2 y.1 y.2

/-- Whether two lists share an element. -/
def meets {α : Type} [BEq α] (a b : List α) : Bool := a.any b.contains

/-- The interlocks of a locked region (R233): whether the word of an entry must wait for an earlier one. -/
def Ctx.interlocked (k : Ctx) (now : Nat) (e : EqEntry) (lands : Nat) : Bool :=
  let u := usesOf k e.instr
  let xr := (xReads e.instr).filter (· ≠ 0)
  let isVec := match e.instr with
    | .vld _ _ _ _ _ _ _ _ => true
    | .vst _ _ _ _ _ _ _ _ => true
    | .vcvt _ true _ _ _ _ _ _ _ => true
    | _ => false
  let older := (k.eqM ++ k.eqV ++ k.eqS).filter fun o => o.ord < e.ord
  let inQueue := older.any fun o =>
    let w := usesOf k o.instr
    meets w.vw (u.vr ++ u.vw) || meets w.vr u.vw || meets w.pw (u.pr ++ u.pw) || meets w.pr u.pw ||
      (xWrites o.instr).any (xr.contains ·) || (xWrites e.instr).any (fun r => r ≠ 0 && (xReads o.instr).contains r) ||
      (isVec && (rangesMeet w.sw (u.sr ++ u.sw) || rangesMeet w.sr u.sw))
  let inFlight := k.flight.any fun f =>
    f.ord < e.ord &&
      (meets f.vw u.vr || meets f.pw u.pr || (meets f.vw u.vw && (f.mid.isSome || now + lands < f.due)) || (meets f.pw u.pw && now + lands < f.due) ||
        (f.effs.any fun x => match x with | .xreg .c r _ => xr.contains r | _ => false) ||
        (isVec && (rangesMeet f.sw (u.sr ++ u.sw) || rangesMeet f.sr u.sw)))
  let hit (x : QEntry) (rs : List (Nat × Nat)) : Bool :=
    isVec && x.ord < e.ord && rs.any fun r => overlaps x.pa x.len (k.baseBlk * 16384 + r.1) r.2
  let q := k.seq .c
  inQueue || inFlight || (q.storeQ.any fun x => x.kind = .sts && hit x (u.sr ++ u.sw)) ||
    (q.loadQ.any fun x => x.kind = .lds && hit x u.sw)

/-! ## Issue -/

/-- An engine instruction: its unit, its annotations, what it occupies, whether it pops a format word, what else it waits for, the
cycles from issue to landing when the scoreboard must know them, and its issue (`ready` is told whether the word is stamped): the checks of R180 from step 2 on and the effect,
as the new state, the occupancy and the record in flight made from the one given. `reads` gives the scratchpad offsets of its operands,
among which an uncorrectable error is the last check of its issue (R348; log 80). -/
structure EngOp where
  unit : EUnit
  y : Sync
  res : Resource
  pops : Bool := false
  lands : Ctx → Nat := fun _ => 0
  ready : State → Nat → Bool → Bool := fun _ _ _ => true
  reads : Ctx → Inflight → List Nat := fun _ _ => []
  start : State → Nat → Inflight → Except Cause (State × Nat × Inflight)

/-- The record of an instruction at its issue, before its own fields are filled in. -/
def Inflight.base (e : EqEntry) (u : EUnit) (post now : Nat) (fw : Option FqEntry) : Inflight :=
  { ord := e.ord, st := .c, unit := u, instr := e.instr, pc := e.pc, word := e.word, issue := now, due := now, effs := e.effs,
    post := if e.stamp.isSome then 0 else post, timed := e.stamp.isSome, tile := none, rows := 8, rowFirst := 0, rowCount := 0,
    rowBase := now, rtile := none, readTo := 0, fword := fw, mid := e.mid, n := 0, mask := if e.full then 2 else 0,
    win := e.win.getD Win.undef, snap := [], vw := [], pw := [], sr := [], sw := [], port := none, bytes := e.bytes,
    wrote := e.mid.getD 0, owns := e.stamp.isNone || e.left, slabs := e.slabs }

/-- The issue of a word: its checks, then what its operands hold. -/
def EngOp.begin (op : EngOp) (s : State) (c : Nat) (f : Inflight) : Except Cause (State × Nat × Inflight) :=
  match op.start s c f, s.readBad (s.ctx c) (op.reads (s.ctx c) f) with
  | .ok _, some cause => .error cause
  | r, _ => r

/-- The wait queues of an E-format word. -/
def syncWaits (y : Sync) : List Nat := codes [y.w0, y.w1, y.w2]

/-- ACC_CHECK sets CHKERR of the tile that its address names, and FC3 charges the core (R67, R446). -/
def State.noteCheck (s : State) (c : Nat) (cause : Cause) : State :=
  let k := s.ctx c
  if cause.code = causeAccCheck then
    (s.upTile k.coreNo (k.abase + bitsN cause.addr 59 14) fun t => { t with chkerr := true }).addScore .core k.coreNo 256
  else s

/-- An instruction that fails a check at its issue is recorded as unissued (R180, R234); the record names the format word it was to
pop, which FQ keeps (R467). -/
def State.unissued (s : State) (c : Nat) (u : EUnit) (e : EqEntry) (fw : Option FqEntry) (cause : Cause) : State :=
  takeFault (s.noteCheck c cause) c
    { source := EUnit.source u, precise := false, cause := cause, tide := s.tide, pc := e.pc, word := e.word, fword := fw,
      progress := 0, unissued := true, midop := false, ord := e.ord, entry := some e }

/-- Whether an engine of a context may issue: the context runs, or faulted in this very cycle, and this engine has not. -/
def Ctx.engineLive (k : Ctx) (now : Nat) (u : EUnit) : Bool :=
  k.run = .running && k.core.isSome && k.pend.all fun p => p.tide = now && p.source ≠ EUnit.source u

/-- Whether the stamp lets a word issue in this cycle: in a timed region in cycle TIDEBASE + STAMP alone (R168). -/
def EqEntry.due (e : EqEntry) (now : Nat) : Bool := match e.stamp with
  | none => true
  | some (d, _) => e.past || BitVec.ofNat 64 now = d

/-- Try to issue one word in this cycle (R180): none when it waits; else the state after it issued, or after it failed a check.
The entry itself is not in the queue of the state returned. -/
def State.issueWord (s : State) (c : Nat) (op : EngOp) (e : EqEntry) : Option State :=
  let k := s.ctx c
  let core := k.coreNo
  let timed := e.stamp.isSome
  let waits := if e.taken then [] else syncWaits op.y
  if !(k.engineLive s.tide op.unit) || (!timed && s.gated) || !(e.due s.tide) || !(s.resFree core op.unit op.res) ||
      !(op.ready s c timed) || (!timed && k.interlocked s.tide e (op.lands k)) || !(k.canTake waits) then none
  else
    let pop := op.pops && !e.taken
    let (s', fw) := if pop then s.fqPop c 64 else (s, e.fword)
    if pop && fw.isNone then
      if timed then none else some (s'.unissued c op.unit e none (mkCause causeFqUnderflow 0))
    else
      match op.begin s' c (Inflight.base e op.unit op.y.pq.toNat s.tide fw) with
      | .error cause => some (s.unissued c op.unit e fw cause)
      | .ok (s'', o, f) =>
        let held := match fw with
          | some w => [w]
          | none => []
        let keep (r : Region) : Region :=
          if f.owns then r else { r.hold e.ord waits with heldFq := r.heldFq ++ if pop then held else [] }
        let s'' := s''.upCtx c fun k => { k.take waits with flight := k.flight ++ [f], region := k.region.map keep }
        let s'' := (s''.upCtx c Ctx.settle).enterClass c f.effs
        some (s''.upCore core fun h =>
          { h.occupy op.res s.tide o with lastIssue := vmod h.lastIssue (EUnit.source op.unit) fun _ => c + 1 })

/-- Whether the order of stamps within the region admits a word (R168). -/
def Region.stampOk (r : Region) (u : EUnit) (n : Nat) : Bool := r.stamps.all fun e => e.1 ≤ n && (e.1 ≠ n || e.2 ≠ u)

/-- The C stream sends one engine word (R168, R306): at once to its engine when the engine's queue is empty and the word can issue,
else to the queue. -/
def sendWord (i : Instr) (op : EngOp) (s : State) : Out :=
  match s.turn with
  | .agents => .next s
  | .issue c st _ =>
    let k := s.ctx c
    let q := k.seq st
    let xs := xReads i ++ xWrites i
    let n := op.y.stamp.toNat
    finishRes i c st <|
      if xs.any (owed q) then .stall .other s
      else match markOf q (xReads i) with
        | some m => .trap (mkCause causeMemUncorr m.addr) s
        | none =>
          if k.region.any fun r => !r.stampOk op.unit n then .trap (mkCause causeStampOrder (wordOf i)) s
          else if 16 ≤ (k.eq op.unit).length then .stall .other s
          else
            let e : EqEntry :=
              { ord := q.ord + 1, instr := i, pc := q.pc, word := wordOf i, mid := none, fword := none, taken := false,
                stamp := k.region.map fun r => (k.csr.tidebase + op.y.stamp.zeroExtend 64, r.opened) }
            let note (r : Region) : Region :=
              { r with stamps := r.stamps ++ [(n, op.unit)], sent := true,
                       posts := if op.y.pq = 0 then r.posts else r.posts ++ [(op.y.pq.toNat, e.ord)] }
            let s := s.upCtx c fun k => { k with region := k.region.map note }
            match (if k.eq op.unit = [] then s.issueWord c op e else none) with
            | some s' => .done s'
            | none => .done (s.upCtx c fun k => k.setEq op.unit (k.eq op.unit ++ [e]))

/-! ## Landing -/

/-- The C stream's record in flight with an order. -/
def Ctx.flightOf (k : Ctx) (ord : Nat) : Option Inflight := k.flight.find? fun f => f.st = .c && f.ord = ord

/-- Change one record in flight. -/
def State.upFlight (s : State) (c : Nat) (g : Inflight) (f : Inflight → Inflight) : State :=
  s.upCtx c fun k => { k with flight := k.flight.map fun x => if x.same g then f x else x }

/-- An instruction completes: its effects land, its format word is consumed, its post is made, and it leaves the engine (R179,
R181, R230). -/
def State.complete (s : State) (c : Nat) (f : Inflight) : State :=
  let s := f.effs.foldl (fun s e => s.land c f.ord e) s
  let s := if f.owns then s.fqDone c f.fword true else s
  s.upCtx c fun k => (({ k with flight := k.flight.filter fun x => !x.same f } : Ctx).post f.post).settle

/-- An instruction in flight faults (R189, R234, R244): its record leaves the engine and the fault holds it. An instruction of an open
timed region leaves no state between slabs or bytes, since the region runs again (R312). -/
def State.flightFault (s : State) (c : Nat) (f : Inflight) (cause : Cause) (midop : Bool) (progress : Nat) : State :=
  let waits := if midop || !f.owns then [] else
    match f.instr with
    | .vld y _ _ _ _ _ _ _ => syncWaits y
    | .vst y _ _ _ _ _ _ _ => syncWaits y
    | _ => []
  let s := s.upCtx c fun k => (({ k with flight := k.flight.filter fun x => !x.same f } : Ctx).stopPort f).giveBack waits
  takeFault s c
    { source := EUnit.source f.unit, precise := false, cause := cause, tide := s.tide, pc := f.pc, word := f.word, fword := f.fword,
      progress := if f.owns then progress else 0, unissued := !midop, midop := midop && f.owns, ord := f.ord,
      entry := if f.owns then some (f.entry midop progress) else none }

/-- The record among those of a list that are due and lands first: by landing cycle, then stream (R281), then program order (R231). -/
def firstDue (now : Nat) : List Inflight → Option Inflight
  | [] => none
  | f :: t =>
    let r := firstDue now t
    if f.mid.isSome || now < f.due then r
    else match r with
      | some g => if g.due < f.due || (g.due = f.due && (g.st.code < f.st.code || (g.st = f.st && g.ord < f.ord))) then some g else some f
      | none => some f

/-- An instruction that is due lands (R181, R230): it completes, or, while its post queue is full, its effects land, no later word waits
for them, and it stays with its engine. -/
def State.landDue (s : State) (c : Nat) (f : Inflight) : Option State :=
  if (s.ctx c).canPost f.post then some (s.complete c f)
  else if f.effs = [] then none
  else some ((f.effs.foldl (fun s e => s.land c f.ord e) s).upFlight c f fun x =>
    { x with effs := [], port := none, vw := [], pw := [], sr := [], sw := [] })

end Sys2Proof.Machine
end

