-- ==== Sys2Proof/Machine/Matrix.lean ====
section
/-! DEFINITION. Matrix, accumulator and tile-directory instructions (R177 to R202): what each one checks and does when the matrix
engine issues it, and how the slabs of a product fed by a port proceed. -/

namespace Sys2Proof.Machine

/-! ## Format words (R71, R72, R178) -/

/-- A format word by fields (R71). -/
structure Fw where
  afmt : Nat
  atag : Nat
  bfmt : Nat
  btag : Nat
  anchor : BitVec 12
  accum : Bool
  klen : Nat
  dfmt : Nat
  unit : Bool
  dpol : Nat
  low : Nat
deriving DecidableEq, Repr

def fwOf (w : Word) : Fw :=
  { afmt := bitsN w 63 60, atag := bitsN w 59 58, bfmt := bitsN w 57 54, btag := bitsN w 53 52, anchor := w.extractLsb' 40 12,
    accum := bitN w 39, klen := bitsN w 38 20, dfmt := bitsN w 19 16, unit := bitN w 15, dpol := bitsN w 14 13, low := bitsN w 12 0 }

/-- The formats that a format word may name: BF16, FP16 and the narrow formats. -/
def narrowFmt (f : Nat) : Bool := 1 ≤ f && f ≤ 8

/-- Whether one side of a format word agrees with the operand's layout, format and family (R72). -/
def sideOk (fmt tag layout ofmt : Nat) (fam : Bool) : Bool :=
  if tag = 0 then layout ≠ 2 && narrowFmt fmt && fmt = ofmt
  else tag ≠ 3 && layout = 2 && fmt = 0 && fam = decide (tag = 2)

/-- KLEN against a layout (R72). -/
def klenOk (klen layout : Nat) : Bool := klen ≠ 0 && (layout = 0 || klen % 32 = 0)

/-- The word popped for an instruction. -/
def Inflight.fwWord (f : Inflight) : Word := (f.fword.map (·.word)).getD 0

/-- FMT_INVALID for a field of the format word, for a window, and for a port (R467). -/
def badFw (w : Word) : Cause := mkCause causeFmtInvalid w
def badWin (n : Nat) : Cause := mkCause causeFmtInvalid (kindAddr 4 n)
def badPort (n : Nat) : Cause := mkCause causeFmtInvalid (kindAddr 5 n)

/-! ## Checks (R180) -/

/-- The physical tile of a logical one, or ALLOT_RANGE. -/
def Ctx.tileE (k : Ctx) (i : Nat) : Except Cause Nat :=
  match k.tileNo i with
  | some t => .ok t
  | none => .error (mkCause causeAllotRange (kindAddr 2 i))

/-- The blocks of a range against the allotment. -/
def Ctx.rangeE (k : Ctx) (o n : Nat) : Except Cause Unit :=
  if (k.spPhys o n).isSome then .ok () else .error (mkCause causeAllotRange (kindAddr 1 o))

/-- Step 2 for the named windows that are VALID, then step 3 for all of them. -/
def Ctx.winsE (k : Ctx) (ns : List Nat) : Except Cause Unit := do
  for n in ns do
    let w := k.winN n
    if w.valid then
      k.rangeE w.data w.dataSize
      if w.layout ≠ 0 then k.rangeE w.scale w.scaleSize
  for n in ns do
    if !(k.winN n).valid then throw (mkCause causeUndefAgent (kindAddr 4 n))

/-- Refuse with a cause when a condition fails. -/
def need (b : Bool) (c : Cause) : Except Cause Unit := if b then .ok () else .error c

/-- Step 6 for a writer (R73). -/
def anchorE (fw : Fw) (t : Tile) : Except Cause Unit :=
  need (!fw.accum || fw.anchor = t.anchor) (mkCause causeAnchorMismatch 0)

/-- Step 7 for a window operand. -/
def tagsE (w : Win) (rd : Nat → Byte) (nr k0 nk : Nat) : Except Cause Unit :=
  match w.badTag rd nr k0 nk with
  | some o => .error (mkCause causeFmtInvalid (kindAddr 1 o))
  | none => .ok ()

/-- Step 8 for rows and columns of logical tile `i` (R67, R467). -/
def checkE (i : Nat) (t : Tile) (row0 rows cols : Nat) : Except Cause Unit :=
  match t.badElem row0 rows cols with
  | some e => .error (mkCause causeAccCheck (kindAddr 2 (i * 2 ^ 14 + e)))
  | none => .ok ()

/-- MMA_SHAPE. -/
def shapeE (b : Bool) : Except Cause Unit := need b (mkCause causeMmaShape 0)

/-- A tile of the context's core by physical number. -/
def State.tile (s : State) (k : Ctx) (t : Nat) : Tile := vgetD (s.core k.coreNo).tiles t Tile.zero

/-! ## Readiness (R182, R183) -/

/-- A writer of a tile waits while an earlier reader still has rows to read, and while a product from a port is unfinished. -/
def State.tileFree (s : State) (c i : Nat) : Bool :=
  let k := s.ctx c
  match k.tileNo i with
  | none => true
  | some t =>
    s.ctxs.all fun x => x.core ≠ k.core ||
      x.flight.all fun f => !(f.rtile = some t && decide (s.tide < f.readTo)) && !(f.tile = some t && f.mid.isSome)

/-- A reader of rows [row0, row0 + rows) of a tile: every row that the tile has of them final in a timed region, the first in a locked one
(R183). -/
def State.rowsReady (s : State) (c i row0 rows : Nat) (timed : Bool) : Bool :=
  let k := s.ctx c
  match k.tileNo i with
  | none => true
  | some t =>
    let w := s.wm k.coreNo t
    rows = 0 || (if timed then decide (min 128 (row0 + rows) ≤ w) else decide (row0 < w))

/-! ## Products (R185, R186) -/

/-- The values of a row of a window from K index `k0` on. -/
def Win.rowValues (w : Win) (rd : Nat → Byte) (r k0 n : Nat) : List Num := (List.range n).map fun i => w.value rd r (k0 + i)

/-- The least kstep of a window operand in slab `j` (R186). The rule speaks of one element format in a slab; of rows with different tags the least
kstep holds: DESIGN CHOICE (log 93). -/
def Win.kstepAt (w : Win) (rd : Nat → Byte) (nr k0 j : Nat) : Nat :=
  if w.layout ≠ 2 then kstep (w.blk rd 0 0)
  else (List.range nr).foldl (fun m r => min m (kstep (w.blk rd r (k0 / 32 + j)))) 16

/-- ΣS of a product of `klen` elements whose slab `j` has the kstep given (R186). -/
def slabSum (klen : Nat) (ks : Nat → Nat) : Nat :=
  ((List.range (cdiv klen 32)).map fun j => cdiv (min 32 (klen - 32 * j)) (max 1 (ks j))).sum

/-! ## Elision (R199, R200) -/

/-- The blocks of the allotment that hold the element data of rows [0, nr) and K range [k0, k0 + nk). -/
def Win.footprint (w : Win) (nr k0 nk : Nat) : List Nat :=
  ((List.range nr).flatMap fun r =>
    let (a, _) := w.elemOff r k0
    let (b, n) := w.elemOff r (k0 + nk - 1)
    (List.range ((w.data + b + n - 1) / 16384 - (w.data + a) / 16384 + 1)).map fun i => (w.data + a) / 16384 + i).eraseDups

/-- What the directory says of an operand: its footprint entries and its scale bytes. -/
structure Screen where
  entries : List Word
  scales : List Byte
deriving DecidableEq, Repr

def State.screen (s : State) (k : Ctx) (w : Win) (nr k0 nk : Nat) : Screen :=
  { entries := (w.footprint nr k0 nk).map fun b => sget 0 (s.core k.coreNo).dir (k.baseBlk + b)
    scales := if w.layout = 0 then [] else
      (List.range nr).flatMap fun r => (List.range ((k0 + nk + 31) / 32 - k0 / 32)).map fun b =>
        s.spByte k (w.scaleOff r (k0 / 32 + b)).1 }

def Screen.noNan (x : Screen) : Bool := x.scales.all (· ≠ 0xFF)
def Screen.clean (x : Screen) : Bool := x.entries.all (fun e => !bitN e 3) && x.noNan
def Screen.allZero (x : Screen) : Bool := x.entries.all (fun e => bitsN e 1 0 = 0) && x.noNan

/-- Rule I for one operand: the 128 × 128 identity. -/
def identOperand (w : Win) (klen koff : Nat) (x : Screen) : Bool :=
  w.layout = 0 && w.swz = 0 && w.rows = 128 && w.kext = 128 && klen = 128 && koff = 0 &&
    x.entries.length = fmtWidth w.fmt / 8 &&
    x.entries.zipIdx.all fun e => bitsN e.1 1 0 = 2 && bitsN e.1 63 32 = e.2 && bitsN e.1 31 28 = w.fmt

/-- log2 of the weight of the lowest set bit of a value that is not 0. -/
def lsbLog (m e : Int) : Int :=
  let rec go : Nat → Nat → Nat → Nat
    | 0, _, i => i
    | f + 1, n, i => if n % 2 = 1 then i else go f (n / 2) (i + 1)
  (go (Nat.log2 m.natAbs + 1) m.natAbs 0 : Int) + e

/-- log2 of the least weight of a format, and its largest magnitude as a value (rule C). -/
def fmtLsb (f : Nat) : Int := if isFloat f then (floatFmt f).emin - (floatFmt f).m else 0
def fmtMax (f : Nat) : Int × Int :=
  if isFloat f then ((floatFmt f).sigmax, (floatFmt f).emax - (floatFmt f).m) else ((2 ^ (fmtWidth f - 1) : Nat), 0)

/-- The formats and scales of a window operand's blocks. -/
def Win.blocksOf (w : Win) (rd : Nat → Byte) (nr k0 nk : Nat) : List Blk :=
  if w.layout = 0 then [w.blk rd 0 0]
  else (List.range nr).flatMap fun r => (List.range ((k0 + nk + 31) / 32 - k0 / 32)).map fun b => w.blk rd r (k0 / 32 + b)

/-- Rule C for a constant operand `w` with screen `x` and the other operand's blocks. -/
def constOperand (w : Win) (x : Screen) (other : List Blk) (anchor : Int) : Bool :=
  match x.entries with
  | [] => false
  | e :: _ =>
    w.layout = 0 && bitsN e 1 0 = 1 && bitsN e 31 28 = w.fmt && x.entries.all (fun y => bitsN y 1 0 = 1 && y = e) &&
      match decodeNum w.fmt (bitsN e 63 32) with
      | .fin m g =>
        other.all fun b =>
          let sc : Int := b.scale - 127
          let (mx, mg) := fmtMax b.fmt
          decide (anchor ≤ lsbLog m g + fmtLsb b.fmt + sc) &&
            (let (p, q, _) := alignTwo ((m.natAbs : Int) * mx) (g + mg + sc) 1 (anchor + 43); decide (p < q))
      | _ => false

/-- Which rule the engine takes. The spec lets it take none; this model takes the first that applies (log 30). -/
inductive Elide
  | no | zero | ident | const
deriving DecidableEq, Repr

/-- Elision of an MMA with two window operands. -/
def elideMma (s : State) (k : Ctx) (aw bw : Win) (klen koff : Nat) (anchor : Int) : Elide :=
  let rd := s.spByte k
  let x := s.screen k aw aw.rows koff klen
  let y := s.screen k bw bw.rows koff klen
  if (x.allZero && y.clean) || (y.allZero && x.clean) then .zero
  else if (identOperand aw klen koff x && y.clean) || (identOperand bw klen koff y && x.clean) then .ident
  else if (y.clean && constOperand aw x (bw.blocksOf rd bw.rows koff klen) anchor) ||
      (x.clean && constOperand bw y (aw.blocksOf rd aw.rows koff klen) anchor) then .const
  else .no

/-- Elision of an MMA.C, whose A operand is the physical tile `src`. -/
def elideMmaC (s : State) (k : Ctx) (bw : Win) (src klen : Nat) : Elide :=
  let x := s.screen k bw bw.rows 0 klen
  let st := s.tile k src
  let az := !st.general && !st.special && !s.tileBusy k.coreNo src
  if (az && x.clean) || (x.allZero && az) then .zero else .no

/-- Array cycles of an elided product in a locked region (R200). -/
def Elide.cycles (e : Elide) (timed : Bool) (full klen : Nat) : Nat :=
  if timed then full else match e with
    | .no => full
    | .zero => 1
    | .ident => 16
    | .const => cdiv klen 32

/-- TDSTAT rises for an elided product. -/
def Ctx.addTdstat (k : Ctx) (n : Nat) : Ctx := { k with csr := { k.csr with tdstat := k.csr.tdstat + BitVec.ofNat 64 n } }

/-- The record of a product's tile: rows 8 at a time from issue + 16 + O on, complete at issue + 32 + O (R181). -/
def Inflight.asProduct (f : Inflight) (t o : Nat) : Inflight :=
  { f with tile := some t, rows := 8, rowCount := 128, rowBase := f.issue + 16 + o, due := f.issue + 32 + o }

/-- What a product does once its checks have passed: reset on overwrite, the terms, and TDSTAT. -/
def State.applyProduct (s : State) (c t : Nat) (fw : Fw) (A B : List (List Num)) (e : Elide) : State :=
  let s := s.upTile (s.ctx c).coreNo t fun x =>
    let x := if fw.accum then x else x.resetTo fw.anchor
    ({ x with wmHold := false } : Tile).product A B
  if e = .no then s else s.upCtx c fun k => k.addTdstat (A.length * B.length * fw.klen)

/-- The tile entry after a product (R195): only rule Z leaves a ZERO entry. -/
def entryAfter (t : Nat) (e : Elide) : Effect := .tileEntry t (if e = .zero then none else some false)

/-- What a checkpoint must know of a product that goes through its slabs one after another (R316): `o` is the array's occupancy, which an
elided product of a locked region divides among them (R200). -/
def State.slabsOf (s : State) (c t : Nat) (fw : Fw) (A B : List (List Num)) (short : Bool) (issue from' o : Nat) (ks : Nat → Nat) : Option Slabs :=
  let x := s.tile (s.ctx c) t
  let n := cdiv fw.klen 32
  some { done := 0, tile := { (if fw.accum then x else x.resetTo fw.anchor) with wmHold := false }, a := A, b := B,
         ends := (List.range n).map fun j =>
           if short then issue + cdiv (o * (j + 1)) n else from' + slabSum (min fw.klen (32 * (j + 1))) ks }

/-- A product that a checkpoint stopped goes on at the slab after those done (R279, R309). -/
def State.goOn (s : State) (c t : Nat) (f : Inflight) (r : Slabs) : State × Nat × Inflight :=
  let ends := r.ends.map (f.issue + ·)
  let o := ends.getLastD f.issue - f.issue
  let old : Tile := { s.tile (s.ctx c) t with wmHold := false }
  (s.upTile (s.ctx c).coreNo t fun _ => old.product r.a r.b, o,
    { f.asProduct t o with mid := none, slabs := some { r with tile := old, ends := ends } })

/-- MMA (R185). -/
def opMma (y : Sync) (aw bw : BitVec 6) (acc : BitVec 5) (koff : BitVec 9) : EngOp :=
  { unit := .matrix, y := y, res := .array, pops := true
    ready := fun s c _ => s.tileFree c acc.toNat
    reads := fun k f => if f.slabs.isSome then [] else
      let a := k.winN aw.toNat
      let b := k.winN bw.toNat
      let n := (fwOf f.fwWord).klen
      a.touch 0 a.rows (koff.toNat * 32) n ++ b.touch 0 b.rows (koff.toNat * 32) n
    start := fun s c f => match f.slabs with
    | some r => (s.ctx c).tileE acc.toNat |>.map fun t => s.goOn c t f r
    | none => do
      let k := s.ctx c
      let t ← k.tileE acc.toNat
      k.winsE [aw.toNat, bw.toNat]
      let a := k.winN aw.toNat
      let b := k.winN bw.toNat
      let fw := fwOf f.fwWord
      let k0 := koff.toNat * 32
      need (fw.low = 0 && sideOk fw.afmt fw.atag a.layout a.fmt a.fam && sideOk fw.bfmt fw.btag b.layout b.fmt b.fam &&
        klenOk fw.klen a.layout && klenOk fw.klen b.layout) (badFw f.fwWord)
      shapeE (a.rows ≤ 128 && b.rows ≤ 128 && k0 + fw.klen ≤ a.kext && k0 + fw.klen ≤ b.kext)
      anchorE fw (s.tile k t)
      let rd := s.spByte k
      tagsE a rd a.rows k0 fw.klen
      tagsE b rd b.rows k0 fw.klen
      let A := (List.range a.rows).map fun r => a.rowValues rd r k0 fw.klen
      let B := (List.range b.rows).map fun r => b.rowValues rd r k0 fw.klen
      let e := elideMma s k a b fw.klen k0 fw.anchor.toInt
      let ks (j : Nat) : Nat := min (a.kstepAt rd a.rows k0 j) (b.kstepAt rd b.rows k0 j)
      let o := e.cycles f.timed (slabSum fw.klen ks) fw.klen
      return (s.applyProduct c t fw A B e, o,
        { f.asProduct t o with effs := [entryAfter t e], slabs := s.slabsOf c t fw A B (e ≠ .no && !f.timed) f.issue f.issue o ks }) }

/-- The values of A for MMA.C (R188): each block of 32 columns of a row of the source tile, converted; or the trap. -/
def convertRows (t : Tile) (rows klen f : Nat) (unit : Bool) (pol : Nat) : Option (List (List Num) × Word) :=
  (List.range rows).foldl (fun acc r =>
    let xs := (List.range klen).map fun j => (t.elem r j).value t.anchorInt
    (groups32 xs).foldl (fun acc g =>
      match acc, blockConvert g.2 f unit 0 pol with
      | some (out, fl), some (sc, es, fl') =>
        let vs := es.map fun b => blockValue sc (decodeNum f b)
        some (out.modify r (· ++ vs), fl ||| fl')
      | _, _ => none) acc) (some (List.replicate rows [], 0))

/-- MMA.C (R185, R188). -/
def opMmaC (y : Sync) (bw : BitVec 6) (asrc acc : BitVec 5) (mm1 : BitVec 7) : EngOp :=
  { unit := .matrix, y := y, res := .arrayPath, pops := true
    ready := fun s c _ =>
      let k := s.ctx c
      s.tileFree c acc.toNat && match k.tileNo asrc.toNat with
        | none => true
        | some t => decide (mm1.toNat + 1 ≤ s.wm k.coreNo t)
    reads := fun k f => let b := k.winN bw.toNat
      if f.slabs.isSome then [] else b.touch 0 b.rows 0 (fwOf f.fwWord).klen
    start := fun s c f => match f.slabs with
    | some r => (s.ctx c).tileE acc.toNat |>.map fun t => s.goOn c t f r
    | none => do
      let k := s.ctx c
      let t ← k.tileE acc.toNat
      let src ← k.tileE asrc.toNat
      k.winsE [bw.toNat]
      let b := k.winN bw.toNat
      let fw := fwOf f.fwWord
      need (fw.low = 0 && narrowFmt fw.dfmt && fw.afmt = fw.dfmt && fw.atag = 0 &&
        sideOk fw.bfmt fw.btag b.layout b.fmt b.fam && klenOk fw.klen b.layout) (badFw f.fwWord)
      shapeE (b.rows ≤ 128 && fw.klen ≤ b.kext && fw.klen ≤ 128 && fw.klen % 32 = 0 && asrc ≠ acc)
      anchorE fw (s.tile k t)
      let rd := s.spByte k
      tagsE b rd b.rows 0 fw.klen
      let m := mm1.toNat + 1
      checkE asrc.toNat (s.tile k src) 0 m fw.klen
      match convertRows (s.tile k src) m fw.klen fw.dfmt fw.unit fw.dpol with
      | none => throw (mkCause causeCvtOverflow 0)
      | some (A, fl) =>
        let B := (List.range b.rows).map fun r => b.rowValues rd r 0 fw.klen
        let e := elideMmaC s k b src fw.klen
        let ka := kstep { fmt := fw.dfmt, scale := 127, zero := false, bad := false }
        let ks (j : Nat) : Nat := min ka (b.kstepAt rd b.rows 0 j)
        let o := e.cycles f.timed (32 + slabSum fw.klen ks) fw.klen
        return (s.applyProduct c t fw A B e, o,
          { f.asProduct t o with effs := [entryAfter t e, .flags fl], rtile := some src, readTo := f.issue + 32,
                                 slabs := s.slabsOf c t fw A B (e ≠ .no && !f.timed) f.issue (f.issue + 32) o ks }) }

/-- MMA.S at issue (R185, R187): the A operand is sampled; the slabs follow as the port delivers B. Bit 0 of `mask` says that A
is all ZERO, bit 1 that some slab was computed in full (R199). One that continues after a stop keeps its window (R235) and bit 1, and
samples the directory again (R279). -/
def opMmaS (y : Sync) (aw : BitVec 6) (sp : BitVec 2) (nm1 : BitVec 7) (acc : BitVec 5) : EngOp :=
  { unit := .matrix, y := y, res := .array, pops := true
    ready := fun s c _ => s.tileFree c acc.toNat
    reads := fun k f =>
      let a := if f.mid.isSome then f.win else k.winN aw.toNat
      let done := 32 * f.mid.getD 0
      a.touch 0 a.rows done ((fwOf f.fwWord).klen - done)
    start := fun s c f => do
      let k := s.ctx c
      let t ← k.tileE acc.toNat
      if f.mid.isNone then k.winsE [aw.toNat]
      let a := if f.mid.isSome then f.win else k.winN aw.toNat
      let p := k.port sp.toNat
      need (p.dir = 1) (mkCause causeUndefAgent (kindAddr 5 sp.toNat))
      let fw := fwOf f.fwWord
      need (fw.low = 0 && sideOk fw.afmt fw.atag a.layout a.fmt a.fam && sideOk fw.bfmt fw.btag p.layout p.fmt p.fam &&
        klenOk fw.klen a.layout && klenOk fw.klen p.layout) (badFw f.fwWord)
      shapeE (a.rows ≤ 128 && fw.klen % 32 = 0 && fw.klen ≤ a.kext)
      if f.mid.isNone then anchorE fw (s.tile k t)
      tagsE a (s.spByte k) a.rows 0 fw.klen
      let snap := sslice (s.core k.coreNo).spad (k.baseBlk * 16384) (k.endBlk * 16384)
      let ranges := a.ranges 0 a.rows
      let inA (o : Nat) : Bool := ranges.any fun r => r.1 ≤ o && o < r.1 + r.2
      let x := s.screen k a a.rows 0 fw.klen
      let s := s.upTile k.coreNo t fun u =>
        { (if fw.accum || f.mid.isSome then u else u.resetTo fw.anchor) with wmHold := false }
      return (s, 0, { f with tile := some t, mid := some (f.mid.getD 0), n := nm1.toNat + 1, win := a, port := some sp.toNat,
                             snap := snap.filter fun b => inA b.1, sr := ranges, rowCount := 128,
                             mask := (f.mask &&& 2) ||| (if x.allZero then 1 else 0) }) }

/-- What a consumer of a port meets in the next `n` elements: the cause it faults with, the elements, or nothing yet. -/
inductive PortRead
  | fault (c : Cause)
  | some' (es : List (Blk × Nat))
  | wait

/-- Read `n` elements of port `i` for a consumer (R187, R243), those that `pick` names and no others (R216): the first poisoned or
reserved block it reaches, or PORT_END. -/
def Ctx.portRead (k : Ctx) (i n : Nat) (pick : Nat → Bool) : PortRead :=
  let p := k.port i
  let es := (List.range (min n p.avail)).map p.elem
  match es.zipIdx.findSome? fun e =>
      if pick e.2 then e.1.2.2.orElse fun _ => if e.1.1.bad then some (badPort i) else none else none with
  | some c => .fault c
  | none =>
    if n ≤ p.avail then .some' (es.map fun e => (e.1, e.2.1))
    else if k.portDry p then
      .fault (match p.fifo.findSome? PByte.poison with
        | some c => c
        | none => match p.sfifo.findSome? PByte.poison with
          | some c => c
          | none => mkCause causePortEnd (kindAddr 5 i))
    else .wait

/-- The screen of R196 over what the next `n` elements of a port came in: no byte of their data that a NaN or an infinity may have, and no
NaN scale (R199). -/
def Port.screened (p : Port) (n : Nat) : Bool :=
  let nb := cdiv (p.taken + n) p.perBlock
  ((p.fifo.take (nb * p.blockBytes)).all fun x => !special x.b) &&
    (p.layout = 0 || (List.range nb).all fun b => ((p.sfifo.drop (b * p.scaleBytes)).head?.map (·.b)) ≠ some 0xFF)

/-- One slab of a product from a port (R185 to R189): applied whole, or a fault that leaves the slabs before it. -/
def State.slabStep (s : State) (c : Nat) (f : Inflight) (j : Nat) : Option State :=
  let k := s.ctx c
  let i := f.port.getD 0
  let core := k.coreNo
  let t := f.tile.getD 0
  let fw := fwOf f.fwWord
  match k.portRead i (32 * f.n) fun _ => true with
  | .wait => none
  | .fault cause =>
    let s := (s.upTile core t fun x => { x with wmHold := true }).upCtx c fun k => k.refetch i
    some (s.flightFault c f cause true j)
  | .some' es =>
    let rd (o : Nat) : Byte := sget 0 f.snap o
    let A := (List.range f.win.rows).map fun r => f.win.rowValues rd r (32 * j) 32
    let B := (List.range f.n).map fun r => ((es.drop (32 * r)).take 32).map fun e => elemValue e.1 e.2
    let elided := f.mask.getLsbD 0 && (k.port i).screened (32 * f.n)
    let kb := es.foldl (fun m e => min m (kstep e.1)) 16
    let cyc := if elided && !f.timed then 1 else cdiv 32 (max 1 (min kb (f.win.kstepAt rd f.win.rows 0 j)))
    let s := (s.upTile core t fun x => x.product A B).upCtx c fun k =>
      let k := { k with sp := vmod k.sp i fun p => p.drop (32 * f.n) }
      if elided then k.addTdstat (f.win.rows * f.n * 32) else k
    let g : Inflight := { f with mask := if elided then f.mask else f.mask ||| 2 }
    let ended := s.tide + cyc
    some (if (j + 1) * 32 < fw.klen then s.upFlight c f fun _ => { g with mid := some (j + 1), due := ended }
      else
        let entry := [entryAfter t (if g.mask = 1 then Elide.zero else .no)]
        ((s.upFlight c f fun _ => { (g.asProduct t (ended - f.issue)) with mid := none, sr := [], effs := entry }).enterClass c entry).upCore
          core fun h => { h with arrayFree := ended })

/-! ## Accumulator instructions -/

/-- ACC.ZERO (R190). -/
def opAccZero (y : Sync) (acc : BitVec 5) (anchor : BitVec 12) : EngOp :=
  { unit := .matrix, y := y, res := .path
    ready := fun s c _ => s.tileFree c acc.toNat
    start := fun s c f => do
      let k := s.ctx c
      let t ← k.tileE acc.toNat
      return (s.upTile k.coreNo t fun x => x.resetTo anchor, 4,
        { f with tile := some t, rows := 128, rowCount := 128, rowBase := f.issue + 4, due := f.issue + 8,
                 effs := [.tileEntry t (some true)] }) }

/-- One element of ACC.LD enters a tile (R191). -/
def Tile.load (t : Tile) (w : Win) (rd : Nat → Byte) (row0 i j : Nat) : Tile :=
  if w.fmt = 11 then
    let (tag, z) := imageDecode (BitVec.ofNat 64 (w.bits rd i j))
    t.enterAt (row0 + i) j (weightOf z) tag z TileFlags.none'
  else
    let (tag, v, f) := termOf (w.value rd i j) t.anchorInt
    t.enterAt (row0 + i) j 1 tag v f

/-- ACC.LD (R191). -/
def opAccLd (y : Sync) (w : BitVec 6) (acc : BitVec 5) (row0 : BitVec 7) : EngOp :=
  { unit := .matrix, y := y, res := .path, pops := true
    ready := fun s c _ => s.tileFree c acc.toNat
    reads := fun k _ => let a := k.winN w.toNat; a.touch 0 a.rows 0 a.kext
    start := fun s c f => do
      let k := s.ctx c
      let t ← k.tileE acc.toNat
      k.winsE [w.toNat]
      let a := k.winN w.toNat
      let fw := fwOf f.fwWord
      need (fw.low = 0 && (a.fmt = 11 || sideOk fw.afmt fw.atag a.layout a.fmt a.fam)) (badFw f.fwWord)
      shapeE (row0.toNat + a.rows ≤ 128 && a.kext ≤ 128)
      anchorE fw (s.tile k t)
      let rd := s.spByte k
      tagsE a rd a.rows 0 a.kext
      let s := s.upTile k.coreNo t fun x =>
        let x := if fw.accum then x else x.resetTo fw.anchor
        (List.range a.rows).foldl (fun x i => (List.range a.kext).foldl (fun x j => x.load a rd row0.toNat i j) x) x
      return (s, a.rows,
        { f with tile := some t, rows := 1, rowFirst := row0.toNat, rowCount := a.rows, rowBase := f.issue + 8,
                 due := f.issue + 16 + a.rows, effs := [.tileEntry t (some false)] }) }

/-- Values of rows of a tile. -/
def Tile.rowValues (t : Tile) (row0 rows cols : Nat) : List (List Num) :=
  (List.range rows).map fun i => (List.range cols).map fun j => (t.elem (row0 + i) j).value t.anchorInt

/-- Whether DFMT suits a destination window in the layout it has (R47, R178). -/
def destOk (w : Win) (dfmt : Nat) (unit : Bool) : Bool :=
  match w.layout with
  | 0 => w.fmt = dfmt && unit
  | 1 => w.fmt = dfmt
  | _ => if w.fam then dfmt = 7 || dfmt = 8 else 3 ≤ dfmt && dfmt ≤ 6

/-- ACC.RD (R192). -/
def opAccRd (y : Sync) (w : BitVec 6) (acc : BitVec 5) (row0 : BitVec 7) (rm : BitVec 2) (wide : Bool) : EngOp :=
  { unit := .matrix, y := y, res := .path, pops := !wide
    ready := fun s c timed => s.rowsReady c acc.toNat row0.toNat ((s.ctx c).winN w.toNat).rows timed
    start := fun s c f => do
      let k := s.ctx c
      let t ← k.tileE acc.toNat
      k.winsE [w.toNat]
      let d := k.winN w.toNat
      let fw := fwOf f.fwWord
      if wide then need (d.layout = 0 && d.fmt = 0) (badWin w.toNat)
      else need (fw.low = 0 && narrowFmt fw.dfmt && destOk d fw.dfmt fw.unit) (badFw f.fwWord)
      shapeE (row0.toNat + d.rows ≤ 128 && d.kext ≤ 128 && (d.layout = 0 || d.kext % 32 = 0))
      checkE acc.toNat (s.tile k t) row0.toNat d.rows d.kext
      let vs := (s.tile k t).rowValues row0.toNat d.rows d.kext
      match (if wide then d.putRows 0 true rm.toNat 0 false vs else d.putRows fw.dfmt fw.unit rm.toNat fw.dpol false vs) with
      | none => throw (mkCause causeCvtOverflow 0)
      | some (bs, fl) =>
        return (s, d.rows,
          { f with due := f.issue + 16 + d.rows, rtile := some t, readTo := f.issue + d.rows, effs := [.sp (k.phys bs), .flags fl],
                   sw := d.ranges 0 d.rows }) }

/-- ACC.RDX (R193). -/
def opAccRdx (y : Sync) (w : BitVec 6) (acc : BitVec 5) (row0 : BitVec 7) : EngOp :=
  { unit := .matrix, y := y, res := .path
    ready := fun s c timed => s.rowsReady c acc.toNat row0.toNat ((s.ctx c).winN w.toNat).rows timed
    start := fun s c f => do
      let k := s.ctx c
      let t ← k.tileE acc.toNat
      k.winsE [w.toNat]
      let d := k.winN w.toNat
      need (d.layout = 0 && d.fmt = 11) (badWin w.toNat)
      shapeE (row0.toNat + d.rows ≤ 128 && d.kext ≤ 128)
      let x := s.tile k t
      checkE acc.toNat x row0.toNat d.rows d.kext
      let bs := (List.range d.rows).flatMap fun i => (List.range d.kext).flatMap fun j =>
        d.putElem i j 8 (x.elem (row0.toNat + i) j).image.toNat
      return (s, 2 * d.rows,
        { f with due := f.issue + 16 + 2 * d.rows, rtile := some t, readTo := f.issue + 2 * d.rows, effs := [.sp (k.phys bs)],
                 sw := d.ranges 0 d.rows }) }

/-- Rebase of a whole tile (R69). -/
def Tile.rebase (t : Tile) (n : Nat) : Tile :=
  let t' := t.elems.foldl (fun (u : Tile) e =>
    let (x, inx) := e.2.rebase n
    { u with elems := sset Elem.zero u.elems e.1 x, inx := u.inx || inx }) t
  { t' with anchor := t.anchor + BitVec.ofNat 12 n }

/-- ACC.REBASE (R69, R194). -/
def opAccRebase (y : Sync) (acc : BitVec 5) (n : BitVec 6) : EngOp :=
  { unit := .matrix, y := y, res := .path
    ready := fun s c timed => s.tileFree c acc.toNat && s.rowsReady c acc.toNat 0 128 timed
    start := fun s c f => do
      let k := s.ctx c
      let t ← k.tileE acc.toNat
      let x := s.tile k t
      need (x.anchorInt + (n.toNat : Int) ≤ 2047) (mkCause causeAccAnchor 0)
      checkE acc.toNat x 0 128 128
      return (s.upTile k.coreNo t fun x => x.rebase n.toNat, 128,
        { f with tile := some t, rows := 1, rowFirst := 0, rowCount := 128, rowBase := f.issue + 8, due := f.issue + 144,
                 rtile := some t, readTo := f.issue + 128, effs := [.tileEntry t (some false)] }) }

/-- ACC.WM (R184). -/
def opAccWm (y : Sync) (d acc : BitVec 5) (row : BitVec 8) : EngOp :=
  { unit := .matrix, y := y, res := .none
    ready := fun s c _ =>
      let k := s.ctx c
      match k.tileNo acc.toNat with
      | none => true
      | some t => decide (row.toNat ≤ s.wm k.coreNo t)
    start := fun s c f => do
      let k := s.ctx c
      let t ← k.tileE acc.toNat
      return (s, 0, { f with due := f.issue + 4, effs := [.xreg .c d (BitVec.ofNat 64 (s.wm k.coreNo t))] }) }

/-- The flags that CLR names clear (R194). -/
def Tile.clr (t : Tile) (m : BitVec 3) : Tile :=
  { t with wovf := t.wovf && !m.getLsbD 0, inx := t.inx && !m.getLsbD 1, depth := t.depth && !m.getLsbD 2 }

/-- ACC.STAT (R194). -/
def opAccStat (y : Sync) (d acc : BitVec 5) (clr : BitVec 3) : EngOp :=
  { unit := .matrix, y := y, res := .none
    ready := fun s c _ =>
      let k := s.ctx c
      match k.tileNo acc.toNat with
      | none => true
      | some t => !s.tileBusy k.coreNo t
    start := fun s c f => do
      let k := s.ctx c
      let t ← k.tileE acc.toNat
      return (s.upTile k.coreNo t fun x => x.clr clr, 0,
        { f with due := f.issue + 4, effs := [.xreg .c d (s.accstat k.coreNo t)] }) }

/-! ## The tile directory -/

/-- The entry of a tile as TD.RD returns it (R195). -/
def Tile.entry (t : Tile) : Word := BitVec.ofNat 64 (4 + (if t.general then 3 else 0) + b2n t.special * 8)

/-- TD.RD (R197). -/
def opTdRd (y : Sync) (d : BitVec 5) (kind : Bool) (index : BitVec 10) : EngOp :=
  { unit := .matrix, y := y, res := .none
    start := fun s c f => do
      let k := s.ctx c
      let n := index.toNat
      let v ← if kind then do
          let t ← k.tileE n
          pure (s.tile k t).entry
        else do
          need (n < k.endBlk - k.baseBlk) (mkCause causeAllotRange (kindAddr 1 (n * 16384)))
          pure (sget (0 : Word) (s.core k.coreNo).dir (k.baseBlk + n))
      return (s, 0, { f with due := f.issue + 4, effs := [.xreg .c d v] }) }

/-- TFILL of one form (R198): `pat` is the pattern as the register gives it at issue. -/
def opTfill (y : Sync) (kind fmt : Nat) (pat : Ctx → Word) (blk : BitVec 10) (nm1 : BitVec 5) : EngOp :=
  { unit := .matrix, y := y, res := .path
    start := fun s c f => do
      let k := s.ctx c
      let n := nm1.toNat + 1
      let b := blk.toNat
      k.rangeE (b * 16384) (n * 16384)
      return (s, 4 * n, { f with due := f.issue + 8 + 4 * n, effs := [.fill kind fmt (pat k) (k.baseBlk + b) n],
                                 sw := [(b * 16384, n * 16384)] }) }

/-- The low bits of a register in a format. -/
def lowBits (w : Word) (f : Nat) : Word := BitVec.ofNat 64 (w.toNat % 2 ^ fmtWidth f)

def opTfillZero (y : Sync) (blk : BitVec 10) (nm1 : BitVec 5) : EngOp := opTfill y 0 0 (fun _ => 0) blk nm1
def opTfillConst (y : Sync) (fmt : BitVec 4) (blk : BitVec 10) (a nm1 : BitVec 5) : EngOp :=
  opTfill y 1 fmt.toNat (fun k => lowBits ((k.seq .c).rx a) fmt.toNat) blk nm1
def opTfillIdent (y : Sync) (fmt : BitVec 4) (blk : BitVec 10) (nm1 : BitVec 5) : EngOp :=
  opTfill y 2 fmt.toNat (fun _ => 0) blk nm1

/-! ## The C stream sends them -/

def execMma (y : Sync) (aw bw : BitVec 6) (acc : BitVec 5) (koff : BitVec 9) (s : State) : Out :=
  sendWord (.mma y aw bw acc koff) (opMma y aw bw acc koff) s
def execMmaS (y : Sync) (aw : BitVec 6) (sp : BitVec 2) (nm1 : BitVec 7) (acc : BitVec 5) (s : State) : Out :=
  sendWord (.mmaS y aw sp nm1 acc) (opMmaS y aw sp nm1 acc) s
def execMmaC (y : Sync) (bw : BitVec 6) (asrc acc : BitVec 5) (mm1 : BitVec 7) (s : State) : Out :=
  sendWord (.mmaC y bw asrc acc mm1) (opMmaC y bw asrc acc mm1) s
def execAccZero (y : Sync) (acc : BitVec 5) (anchor : BitVec 12) (s : State) : Out :=
  sendWord (.accZero y acc anchor) (opAccZero y acc anchor) s
def execAccLd (y : Sync) (w : BitVec 6) (acc : BitVec 5) (row0 : BitVec 7) (s : State) : Out :=
  sendWord (.accLd y w acc row0) (opAccLd y w acc row0) s
def execAccRd (y : Sync) (w : BitVec 6) (acc : BitVec 5) (row0 : BitVec 7) (rm : BitVec 2) (wide : Bool) (s : State) : Out :=
  sendWord (.accRd y w acc row0 rm wide) (opAccRd y w acc row0 rm wide) s
def execAccRdx (y : Sync) (w : BitVec 6) (acc : BitVec 5) (row0 : BitVec 7) (s : State) : Out :=
  sendWord (.accRdx y w acc row0) (opAccRdx y w acc row0) s
def execAccRebase (y : Sync) (acc : BitVec 5) (n : BitVec 6) (s : State) : Out :=
  sendWord (.accRebase y acc n) (opAccRebase y acc n) s
def execAccWm (y : Sync) (d acc : BitVec 5) (row : BitVec 8) (s : State) : Out :=
  sendWord (.accWm y d acc row) (opAccWm y d acc row) s
def execAccStat (y : Sync) (d acc : BitVec 5) (clr : BitVec 3) (s : State) : Out :=
  sendWord (.accStat y d acc clr) (opAccStat y d acc clr) s
def execTdRd (y : Sync) (d : BitVec 5) (kind : Bool) (index : BitVec 10) (s : State) : Out :=
  sendWord (.tdRd y d kind index) (opTdRd y d kind index) s
def execTfillZero (y : Sync) (blk : BitVec 10) (nm1 : BitVec 5) (s : State) : Out :=
  sendWord (.tfillZero y blk nm1) (opTfillZero y blk nm1) s
def execTfillConst (y : Sync) (fmt : BitVec 4) (blk : BitVec 10) (a nm1 : BitVec 5) (s : State) : Out :=
  sendWord (.tfillConst y fmt blk a nm1) (opTfillConst y fmt blk a nm1) s
def execTfillIdent (y : Sync) (fmt : BitVec 4) (blk : BitVec 10) (nm1 : BitVec 5) (s : State) : Out :=
  sendWord (.tfillIdent y fmt blk nm1) (opTfillIdent y fmt blk nm1) s

end Sys2Proof.Machine
end

