-- ==== Sys2Proof/Machine/Vector.lean ====
section
/-! DEFINITION. Vector instructions (R203 to R223): what each one checks and computes at its issue, and how it lands (R230). -/

namespace Sys2Proof.Machine

/-! ## Elements -/

/-- O_V (R230) for an element size. -/
def Ctx.ov (k : Ctx) (size : Nat) : Nat := cdiv (k.velems * size) 2048

/-- VEC_FORMAT unless the size of a format is that of VSHAPE.ESIZE (R203). -/
def formatE (k : Ctx) (f : Nat) : Except Cause Unit := need (esizeOf f = k.esize) (mkCause causeVecFormat 0)

/-- The elements that an operation's mask selects (R205). -/
def Ctx.picked (k : Ctx) (mken : Bool) (mm : BitVec 3) : List Nat := (List.range k.velems).filter (k.selected mken mm)

/-- Results of elements as the effects of a landing: bytes of a register, and flags. -/
def elemEffects (r size : Nat) (out : List (Nat × Nat × Word)) : List Effect :=
  [.vbytes r (out.flatMap fun e => elemBytes size e.1 e.2.1), .flags (out.foldl (fun a e => a ||| e.2.2) 0)]

/-- An element-wise instruction of the common layout (R204, R205): `g` gives the result and flags from the elements of VA, VB and
the old VD. It lands `lat` cycles after its occupancy of `mul` × O. -/
def opElem (unit : EUnit) (y : Sync) (o : VOp) (lat mul : Nat) (g : Ctx → Nat → Nat → Nat → Nat × Word) : EngOp :=
  let size := vecSize o.vf.toNat
  let occ (k : Ctx) : Nat := mul * (if unit = .sfu then cdiv k.velems 128 else k.ov size)
  { unit := unit, y := y, res := if unit = .sfu then .sfu else .vec
    lands := fun k => lat + occ k
    start := fun s c f => do
      let k := s.ctx c
      formatE k o.vf.toNat
      let out := (k.picked o.mken o.mm).map fun i =>
        (i, g k (k.velem o.va.toNat size i) (k.velem o.vb.toNat size i) (k.velem o.vd.toNat size i))
      return (s, occ k,
        { f with due := f.issue + lat + occ k, effs := elemEffects o.vd.toNat size out, vw := [o.vd.toNat] }) }

/-- Results without flags. -/
def plain (f : Nat → Nat → Nat) : Ctx → Nat → Nat → Nat → Nat × Word := fun _ a b _ => (f a b, 0)

/-! ## Moves and bitwise instructions (R212) -/

def opVmov (y : Sync) (o : VOp) : EngOp := opElem .vector y o 2 1 (plain fun a _ => a)
def opVbcast (y : Sync) (o : VOp) : EngOp :=
  opElem .vector y o 2 1 fun k _ _ _ => (((k.seq .c).rx o.va).toNat % 2 ^ fmtWidth o.vf.toNat, 0)
def opVand (y : Sync) (o : VOp) : EngOp := opElem .vector y o 2 1 (plain Nat.land)
def opVor (y : Sync) (o : VOp) : EngOp := opElem .vector y o 2 1 (plain Nat.lor)
def opVxor (y : Sync) (o : VOp) : EngOp := opElem .vector y o 2 1 (plain Nat.xor)

/-! ## Floating-point arithmetic (R209) -/

def opVadd (y : Sync) (o : VOp) : EngOp := opElem .vector y o 4 1 fun k a b _ => fAdd o.vf.toNat o.md.toNat k.ftz a b
def opVsub (y : Sync) (o : VOp) : EngOp := opElem .vector y o 4 1 fun k a b _ => fSub o.vf.toNat o.md.toNat k.ftz a b
def opVmul (y : Sync) (o : VOp) : EngOp := opElem .vector y o 4 1 fun k a b _ => fMul o.vf.toNat o.md.toNat k.ftz a b
def opVfma (y : Sync) (o : VOp) : EngOp := opElem .vector y o 6 1 fun k a b d => fFma o.vf.toNat o.md.toNat k.ftz a b d

/-! ## Minimum, maximum, sign (R210) -/

/-- VMIN and VMAX of one element. -/
def minMax (isMax : Bool) (o : VOp) (k : Ctx) (a b : Nat) : Nat × Word :=
  if isFloat o.vf.toNat then fMinMax isMax o.vf.toNat k.ftz a b else (iMinMax isMax (o.md = 1) o.vf.toNat a b, 0)

def opVmin (y : Sync) (o : VOp) : EngOp := opElem .vector y o 4 1 fun k a b _ => minMax false o k a b
def opVmax (y : Sync) (o : VOp) : EngOp := opElem .vector y o 4 1 fun k a b _ => minMax true o k a b

/-- VABS (`neg` false) and VNEG of one element. -/
def absNeg (neg : Bool) (o : VOp) (a : Nat) : Nat :=
  let w := fmtWidth o.vf.toNat
  if isFloat o.vf.toNat then (if neg then Nat.xor a (2 ^ (w - 1)) else a % 2 ^ (w - 1))
  else
    let v := sInt w a
    let r : Int := if neg then -v else (v.natAbs : Int)
    if o.md = 1 then satS w r else intBits w r

def opVabs (y : Sync) (o : VOp) : EngOp := opElem .vector y o 2 1 (plain fun a _ => absNeg false o a)
def opVneg (y : Sync) (o : VOp) : EngOp := opElem .vector y o 2 1 (plain fun a _ => absNeg true o a)

/-! ## Integer instructions (R211) -/

/-- VSHL and VSHR of one element. -/
def shiftL (w a c : Nat) : Nat := if w ≤ c then 0 else a * 2 ^ c % 2 ^ w
def shiftR (arith : Bool) (w a c : Nat) : Nat :=
  if arith then intBits w (sInt w a / ((2 ^ min c w : Nat) : Int)) else if w ≤ c then 0 else a / 2 ^ c

/-- VIADD and VIMUL of one element. -/
def intAdd (w m a b : Nat) : Nat :=
  match m with
  | 1 => satS w (sInt w a + sInt w b)
  | 2 => satU w (a + b)
  | _ => (a + b) % 2 ^ w
def intMul (w m a b : Nat) : Nat :=
  match m with
  | 1 => satS w (sInt w a * sInt w b)
  | 2 => satU w (a * b)
  | 3 => intBits w (sInt w a * sInt w b / ((2 ^ w : Nat) : Int))
  | _ => a * b % 2 ^ w

def opVshl (y : Sync) (o : VOp) : EngOp := opElem .vector y o 4 1 (plain (shiftL (fmtWidth o.vf.toNat)))
def opVshr (y : Sync) (o : VOp) : EngOp := opElem .vector y o 4 1 (plain (shiftR (o.md = 1) (fmtWidth o.vf.toNat)))
def opViadd (y : Sync) (o : VOp) : EngOp := opElem .vector y o 4 1 (plain (intAdd (fmtWidth o.vf.toNat) o.md.toNat))
def opVimul (y : Sync) (o : VOp) : EngOp := opElem .vector y o 6 1 (plain (intMul (fmtWidth o.vf.toNat) o.md.toNat))

/-! ## Compare and select (R213, R214) -/

/-- A vector predicate from the indices of its bits. -/
def bitsOf (is : List Nat) : BitVec 1024 := BitVec.ofNat 1024 ((is.map fun i => 2 ^ i).sum)

/-- One comparison: condition 0 eq, 1 ne, 2 lt, 3 le; the flags are IV for a signalling NaN. -/
def compareElem (cond : Nat) (unsigned : Bool) (f : Nat) (ftz : Bool) (a b : Nat) : Bool × Word :=
  if isFloat f then
    let x := readFtz ftz f a
    let y := readFtz ftz f b
    let fl : Word := if x.sNan || y.sNan then flagIV else 0
    if x.isNan || y.isNan then (cond = 1, fl)
    else
      let lt := numLt false x y
      let gt := numLt false y x
      (match cond with | 0 => !lt && !gt | 1 => lt || gt | 2 => lt | _ => !gt, 0)
  else
    let w := fmtWidth f
    let p : Int := if unsigned then a else sInt w a
    let q : Int := if unsigned then b else sInt w b
    (match cond with | 0 => a = b | 1 => a ≠ b | 2 => p < q | _ => p ≤ q, 0)

def opVcmp (y : Sync) (o : VOp) : EngOp :=
  let f := o.vf.toNat
  let size := vecSize f
  { unit := .vector, y := y, res := .vec
    lands := fun k => 4 + k.ov size
    start := fun s c r => do
      let k := s.ctx c
      formatE k f
      let sel := k.picked o.mken o.mm
      let out := sel.map fun i =>
        (i, compareElem (o.vd.toNat / 8) (o.md = 1) f k.ftz (k.velem o.va.toNat size i) (k.velem o.vb.toNat size i))
      let m := o.vd.toNat % 8
      return (s, k.ov size,
        { r with due := r.issue + 4 + k.ov size, pw := [m],
                 effs := [.pred m (bitsOf sel) (bitsOf ((out.filter fun e => e.2.1).map (·.1))),
                          .flags (out.foldl (fun a e => a ||| e.2.2) 0)] }) }

def opVsel (y : Sync) (o : VOp) : EngOp :=
  let size := vecSize o.vf.toNat
  { unit := .vector, y := y, res := .vec
    lands := fun k => 2 + k.ov size
    start := fun s c f => do
      let k := s.ctx c
      formatE k o.vf.toNat
      let out := (List.range k.velems).map fun i =>
        (i, k.velem (if k.mbit o.mm.toNat i then o.va.toNat else o.vb.toNat) size i, (0 : Word))
      return (s, k.ov size,
        { f with due := f.issue + 2 + k.ov size, effs := elemEffects o.vd.toNat size out, vw := [o.vd.toNat] }) }

/-! ## Reductions and scans (R220 to R222) -/

/-- The combining operation, with flags, and its identity. -/
structure Combine where
  op : Nat → Nat → Nat × Word
  read : Nat → Nat × Word
  ident : Nat
  exclFirst : Nat

/-- What an arithmetic instruction writes of one element that it combines with nothing: the canonical NaN, IV for a signalling one
(R42), a subnormal flushed under FTZ (R55), and every other value as it is. -/
def readElem (f : Nat) (ftz : Bool) (a : Nat) : Nat × Word :=
  if isFloat f then
    match readFtz ftz f a with
    | .nan true => (canonNan f, flagIV)
    | .nan false => (canonNan f, 0)
    | .zero neg => (zeroBits f neg, 0)
    | _ => (a, 0)
  else (a, 0)

/-- OP 0 add, 1 max, 2 min, in a format under MOD. -/
def combineOf (op f md : Nat) (ftz : Bool) : Combine :=
  let w := fmtWidth f
  let rd := readElem f ftz
  let u := md = 1
  if isFloat f then
    match op with
    | 0 => { read := rd, op := fun a b => fAdd f md ftz a b, ident := zeroBits f true, exclFirst := 0 }
    | 1 => { read := rd, op := fun a b => fMinMax true f ftz a b, ident := infBits f true, exclFirst := infBits f true }
    | _ => { read := rd, op := fun a b => fMinMax false f ftz a b, ident := infBits f false, exclFirst := infBits f false }
  else
    match op with
    | 0 => { read := rd, op := fun a b => ((a + b) % 2 ^ w, 0), ident := 0, exclFirst := 0 }
    | 1 => let i := if u then 0 else 2 ^ (w - 1)
           { read := rd, op := fun a b => (iMinMax true u f a b, 0), ident := i, exclFirst := i }
    | _ => let i := if u then 2 ^ w - 1 else 2 ^ (w - 1) - 1
           { read := rd, op := fun a b => (iMinMax false u f a b, 0), ident := i, exclFirst := i }

/-- Tree of R220 over the first 2^n values of a list; missing ones are the identity. -/
def Combine.tree (m : Combine) : Nat → List Nat → Nat × Word
  | 0, xs => m.read (xs.headD m.ident)
  | n + 1, xs =>
    let a := m.tree n xs
    let b := m.tree n (xs.drop (2 ^ n))
    let r := m.op a.1 b.1
    (r.1, a.2 ||| b.2 ||| r.2)

/-- The least n with 2^n at or above k, for k from 1. -/
def log2Up (k : Nat) : Nat := if k ≤ 1 then 0 else Nat.log2 (k - 1) + 1

/-- Reduce of R220. -/
def Combine.reduce (m : Combine) (xs : List Nat) : Nat × Word := m.tree (log2Up xs.length) xs

/-- P(j) of R222, over the first j + 1 elements: aligned groups of falling powers of two. -/
def Combine.prefix (m : Combine) (xs : List Nat) (n : Nat) : Nat × Word :=
  let step (acc : Option (Nat × Word) × Nat) (b : Nat) : Option (Nat × Word) × Nat :=
    if n / 2 ^ b % 2 = 1 then
      let t := m.tree b (xs.drop acc.2)
      (match acc.1 with
        | none => some t
        | some a => let r := m.op a.1 t.1; some (r.1, a.2 ||| t.2 ||| r.2), acc.2 + 2 ^ b)
    else acc
  (([10, 9, 8, 7, 6, 5, 4, 3, 2, 1, 0].foldl step (none, 0)).1).getD (m.ident, 0)

/-- The scan of a line. -/
def Combine.scan (m : Combine) (excl : Bool) (xs : List Nat) : List (Nat × Word) :=
  (List.range xs.length).map fun j =>
    if excl then (if j = 0 then (m.exclFirst, 0) else m.prefix xs j) else m.prefix xs (j + 1)

/-- The lines of the shape, as flat indices. -/
def Ctx.lines (k : Ctx) (col : Bool) : List (List Nat) :=
  if col then (List.range k.cols).map fun c => (List.range k.rows).map fun r => r * k.cols + c
  else (List.range k.rows).map fun r => (List.range k.cols).map fun c => r * k.cols + c

/-- VRED and VSCAN. -/
def opLines (y : Sync) (o : VOp) (g : Combine → List Nat → List Nat → List (Nat × Nat × Word)) : EngOp :=
  let f := o.vf.toNat
  let size := vecSize f
  { unit := .vector, y := y, res := .vec
    lands := fun k => 16 + k.ov size
    start := fun s c r => do
      let k := s.ctx c
      formatE k f
      let m := combineOf (o.vb.toNat / 8) f o.md.toNat k.ftz
      let val (i : Nat) : Nat := if k.selected o.mken o.mm i then k.velem o.va.toNat size i else m.ident
      let out := (k.lines (o.vb.getLsbD 2)).flatMap fun line => g m line (line.map val)
      return (s, k.ov size,
        { r with due := r.issue + 16 + k.ov size, effs := elemEffects o.vd.toNat size out, vw := [o.vd.toNat] }) }

/-- VRED (R221). -/
def opVred (y : Sync) (o : VOp) : EngOp := opLines y o fun m line xs => [(line.headD 0, m.reduce xs)]

/-- VSCAN (R222). -/
def opVscan (y : Sync) (o : VOp) : EngOp := opLines y o fun m line xs => line.zip (m.scan (o.vb.getLsbD 1) xs)

/-! ## Rearrangement (R223) -/

/-- An instruction that moves elements: `g` gives the value of each destination element from the context. -/
def opMove (y : Sync) (vf : BitVec 4) (vd : BitVec 5) (g : Ctx → Except Cause (List (Nat × Nat))) : EngOp :=
  let size := vecSize vf.toNat
  { unit := .vector, y := y, res := .vec
    lands := fun k => 4 + 2 * k.ov size
    start := fun s c f => do
      let k := s.ctx c
      formatE k vf.toNat
      let out ← g k
      return (s, 2 * k.ov size,
        { f with due := f.issue + 4 + 2 * k.ov size, vw := [vd.toNat],
                 effs := [.vbytes vd.toNat (out.flatMap fun e => elemBytes size e.1 e.2)] }) }

def opVtrn (y : Sync) (o : VOp) : EngOp :=
  opMove y o.vf o.vd fun k => .ok ((List.range k.rows).flatMap fun r => (List.range k.cols).map fun c =>
    (c * k.rows + r, k.velem o.va.toNat (vecSize o.vf.toNat) (r * k.cols + c)))

def opVperm (y : Sync) (o : VOp) : EngOp :=
  opMove y o.vf o.vd fun k => .ok ((k.picked o.mken o.mm).map fun i =>
    let g := k.velem o.vb.toNat 2 i
    (i, if g < k.velems then k.velem o.va.toNat (vecSize o.vf.toNat) g else 0))

def opVext (y : Sync) (vd va vb : BitVec 5) (vf : BitVec 4) (xo : BitVec 5) : EngOp :=
  opMove y vf vd fun k =>
    let off := (k.seq .c).rx xo
    let n := k.velems
    let size := vecSize vf.toNat
    if n < off.toNat then .error (mkCause causeVecRange off)
    else .ok ((List.range n).map fun i =>
      (i, if i + off.toNat < n then k.velem va.toNat size (i + off.toNat) else k.velem vb.toNat size (i + off.toNat - n)))

/-! ## VSHAPE (R206) -/

def opVshape (y : Sync) (shape : BitVec 24) : EngOp :=
  { unit := .vector, y := y, res := .vec
    lands := fun _ => 1
    start := fun s c f =>
      .ok (s.upCtx c fun k => { k with csr := { k.csr with vshape := shape.zeroExtend 64 } }, 1, { f with due := f.issue + 1 }) }

/-! ## Loads (R215, R216) -/

/-- How a source format and layout pair with VF. -/
inductive Pairing
  | copy | widen | toF32
deriving DecidableEq, Repr

def pairing (vf fmt layout : Nat) : Option Pairing :=
  if layout = 0 && fmt = vf then some .copy
  else if vf = 0 && (layout ≠ 0 || (1 ≤ fmt && fmt ≤ 4)) then some .toF32
  else if layout = 0 && ((vf = 9 && fmt = 7) || (vf = 10 && (fmt = 7 || fmt = 9))) then some .widen
  else none

/-- One element as the register receives it. -/
def Pairing.elem (p : Pairing) (vf : Nat) (b : Blk) (bits : Nat) : Nat × Word :=
  match p with
  | .copy => (bits, 0)
  | .widen => (intBits (fmtWidth vf) (sInt (fmtWidth b.fmt) bits), 0)
  | .toF32 =>
    let x := elemValue b bits
    let (c, fl) := roundTo x 0 0 0 false
    (c.val, if x.sNan then fl ||| flagIV else fl)

/-- A window that a vector instruction names: VALID, or UNDEF_AGENT. -/
def Ctx.winE (k : Ctx) (n : Nat) : Except Cause Win :=
  if (k.winN n).valid then .ok (k.winN n) else .error (mkCause causeUndefAgent (kindAddr 4 n))

/-- VEC_RANGE of a window. -/
def rangeW (b : Bool) (n : Nat) : Except Cause Unit := need b (mkCause causeVecRange (kindAddr 4 n))

/-- Every byte touched lies in the allotment (R24). -/
def bytesE (k : Ctx) (os : List Nat) : Except Cause Unit :=
  match k.firstOut os with
  | some o => .error (mkCause causeAllotRange (kindAddr 1 o))
  | none => .ok ()

/-- row0 and col0 of a register (R215). -/
def Ctx.origin (k : Ctx) (xo : BitVec 5) : Nat × Nat := let w := (k.seq .c).rx xo; (bitsN w 31 0, bitsN w 63 32)

/-- The elements of port `p` that earlier loads in flight will pop. -/
def Ctx.claimed (k : Ctx) (p ord : Nat) : Nat :=
  ((k.flight.filter fun f => f.port = some p && f.unit = .vector && f.vw ≠ [] && f.ord < ord).map (·.n)).sum

/-- Whether an unfinished product from the port stands before a load. -/
def Ctx.portTaken (k : Ctx) (p : Nat) : Bool := k.flight.any fun f => f.port = some p && f.unit = .matrix && f.mid.isSome

/-- VLD (R216). A port form issues when its first element is present, or, in a timed region, when all are; it pops them when it
lands. Which cause several failing checks give, and UNDEF_AGENT for a port bound for output, are DESIGN CHOICE (log 93). -/
def opVld (y : Sync) (vr : BitVec 5) (port : Bool) (win : BitVec 6) (xo : BitVec 5) (vf : BitVec 4) (mken : Bool) (mm : BitVec 3) :
    EngOp :=
  let f := vf.toNat
  let size := vecSize f
  { unit := .vector, y := y, res := .vec
    lands := fun k => 12 + k.ov size
    ready := fun s c timed =>
      let k := s.ctx c
      let p := k.port (win.toNat % 4)
      let used := k.claimed (win.toNat % 4) (2 ^ 64)
      !port || p.dir ≠ 1 || (!k.portTaken (win.toNat % 4) &&
        ((!timed && k.portDry p) || decide (used + (if timed then k.velems else 1) ≤ p.avail)))
    reads := fun k _ => if port then [] else
      let (r0, c0) := k.origin xo
      (k.picked mken mm).flatMap fun i => (k.winN win.toNat).touch (r0 + i / k.cols) 1 (c0 + i % k.cols) 1
    start := fun s c r => do
      let k := s.ctx c
      formatE k f
      if port then
        let i := win.toNat % 4
        let p := k.port i
        need (p.dir = 1) (mkCause causeUndefAgent (kindAddr 5 i))
        need (pairing f p.fmt p.layout).isSome (badPort i)
        return (s, k.ov size,
          { r with due := r.issue + 12 + k.ov size, mid := some 0, n := k.velems, port := some i, vw := [vr.toNat],
                   mask := if mken then vgetD k.m mm.toNat 0 else BitVec.allOnes 1024 })
      else
        let w ← k.winE win.toNat
        match pairing f w.fmt w.layout with
        | none => throw (badWin win.toNat)
        | some p =>
          let (r0, c0) := k.origin xo
          rangeW (r0 + k.rows ≤ w.rows && c0 + k.cols ≤ w.kext) win.toNat
          let sel := k.picked mken mm
          let at' (i : Nat) : Nat × Nat := (r0 + i / k.cols, c0 + i % k.cols)
          bytesE k (sel.flatMap fun i => w.touch (at' i).1 1 (at' i).2 1)
          let rd := s.spByte k
          match (sel.find? fun i => (w.blk rd (at' i).1 ((at' i).2 / 32)).bad) with
          | some i => throw (mkCause causeFmtInvalid (kindAddr 1 (w.scaleOff (at' i).1 ((at' i).2 / 32)).1))
          | none =>
            let out := sel.map fun i =>
              (i, p.elem f (w.blk rd (at' i).1 ((at' i).2 / 32)) (w.bits rd (at' i).1 (at' i).2))
            return (s, k.ov size,
              { r with due := r.issue + 12 + k.ov size, effs := elemEffects vr.toNat size out, vw := [vr.toNat] }) }

/-! ## Stores (R217) -/

/-- VST. A port form pushes its bytes when it lands and completes when the port has written them (R244); one that goes on after a stop
pushes those that were not written. Which cause several failing checks give is DESIGN CHOICE (log 93). -/
def opVst (y : Sync) (vr : BitVec 5) (port : Bool) (win : BitVec 6) (xo : BitVec 5) (vf : BitVec 4) (mken : Bool) (mm : BitVec 3) :
    EngOp :=
  let f := vf.toNat
  let size := vecSize f
  { unit := .vector, y := y, res := .vec
    lands := fun k => 12 + k.ov size
    start := fun s c r => do
      let k := s.ctx c
      let sel := k.picked mken mm
      let i := win.toNat % 4
      if port && r.mid.isSome then
        return (s, 0, { r with port := some i, mid := none, effs := [.portOut i r.bytes] })
      else
        formatE k f
        if port then
          need ((k.port i).dir = 2) (mkCause causeUndefAgent (kindAddr 5 i))
          need ((k.port i).fmt = f) (badPort i)
          let bs := sel.flatMap fun j => natBytes (k.velem vr.toNat size j) size
          return (s, k.ov size, { r with due := r.issue + 12 + k.ov size, port := some i, bytes := bs, effs := [.portOut i bs] })
        else
          let w ← k.winE win.toNat
          need (w.layout = 0 && w.fmt = f) (badWin win.toNat)
          let (r0, c0) := k.origin xo
          rangeW (r0 + k.rows ≤ w.rows && c0 + k.cols ≤ w.kext) win.toNat
          let bs := sel.flatMap fun j => w.putElem (r0 + j / k.cols) (c0 + j % k.cols) size (k.velem vr.toNat size j)
          bytesE k (bs.map (·.1))
          return (s, k.ov size,
            { r with due := r.issue + 12 + k.ov size, effs := [.sp (k.phys bs)], sw := w.ranges r0 k.rows }) }

/-! ## Conversion (R218, R219) -/

/-- VCVT. Which cause several failing checks give is DESIGN CHOICE (log 93). -/
def opVcvt (y : Sync) (towin : Bool) (dst : BitVec 6) (va : BitVec 5) (dfmt vf : BitVec 4) (rm pol : BitVec 2) (dsmode : Bool) :
    EngOp :=
  let f := vf.toNat
  let d := dfmt.toNat
  let size := vecSize f
  let ds := fmtWidth d / 8
  let lat := if towin then 12 else 6
  { unit := .vector, y := y, res := .vec
    lands := fun k => lat + k.ov (max size ds)
    start := fun s c r => do
      let k := s.ctx c
      formatE k f
      let o := k.ov (max size ds)
      let xs := (List.range k.velems).map fun i => readFtz k.ftz f (k.velem va.toNat size i)
      let iv : Word := if xs.any Num.sNan then flagIV else 0
      if towin then
        let w ← k.winE dst.toNat
        need (destOk w d dsmode) (badWin dst.toNat)
        rangeW (k.rows ≤ w.rows && k.cols ≤ w.kext && (w.layout = 0 || k.cols % 32 = 0)) dst.toNat
        match w.putRows d dsmode rm.toNat pol.toNat k.ftz
            ((List.range k.rows).map fun i => (xs.drop (i * k.cols)).take k.cols) with
        | none => throw (mkCause causeCvtOverflow 0)
        | some (bs, fl) =>
          bytesE k (bs.map (·.1))
          return (s, o,
            { r with due := r.issue + lat + o, effs := [.sp (k.phys bs), .flags (fl ||| iv)], sw := w.ranges 0 k.rows })
      else
        let cs := xs.map fun x => convert x d rm.toNat pol.toNat false (k.ftz && d ≤ 2)
        need (cs.all fun x => x.1 ≠ .trap) (mkCause causeCvtOverflow 0)
        let v := dst.toNat % 32
        return (s, o,
          { r with due := r.issue + lat + o, vw := [v],
                   effs := [.vbytes v (cs.zipIdx.flatMap fun x => elemBytes ds x.2 x.1.1.val),
                            .flags (cs.foldl (fun a x => a ||| x.2) iv)] }) }

/-! ## The C stream sends them -/

def execVshape (y : Sync) (shape : BitVec 24) (s : State) : Out := sendWord (.vshape y shape) (opVshape y shape) s
def execVld (y : Sync) (vr : BitVec 5) (port : Bool) (win : BitVec 6) (xo : BitVec 5) (vf : BitVec 4) (mken : Bool) (mm : BitVec 3)
    (s : State) : Out := sendWord (.vld y vr port win xo vf mken mm) (opVld y vr port win xo vf mken mm) s
def execVst (y : Sync) (vr : BitVec 5) (port : Bool) (win : BitVec 6) (xo : BitVec 5) (vf : BitVec 4) (mken : Bool) (mm : BitVec 3)
    (s : State) : Out := sendWord (.vst y vr port win xo vf mken mm) (opVst y vr port win xo vf mken mm) s
def execVmov (y : Sync) (o : VOp) (s : State) : Out := sendWord (.vmov y o) (opVmov y o) s
def execVbcast (y : Sync) (o : VOp) (s : State) : Out := sendWord (.vbcast y o) (opVbcast y o) s
def execVadd (y : Sync) (o : VOp) (s : State) : Out := sendWord (.vadd y o) (opVadd y o) s
def execVsub (y : Sync) (o : VOp) (s : State) : Out := sendWord (.vsub y o) (opVsub y o) s
def execVmul (y : Sync) (o : VOp) (s : State) : Out := sendWord (.vmul y o) (opVmul y o) s
def execVfma (y : Sync) (o : VOp) (s : State) : Out := sendWord (.vfma y o) (opVfma y o) s
def execVmin (y : Sync) (o : VOp) (s : State) : Out := sendWord (.vmin y o) (opVmin y o) s
def execVmax (y : Sync) (o : VOp) (s : State) : Out := sendWord (.vmax y o) (opVmax y o) s
def execVabs (y : Sync) (o : VOp) (s : State) : Out := sendWord (.vabs y o) (opVabs y o) s
def execVneg (y : Sync) (o : VOp) (s : State) : Out := sendWord (.vneg y o) (opVneg y o) s
def execVand (y : Sync) (o : VOp) (s : State) : Out := sendWord (.vand y o) (opVand y o) s
def execVor (y : Sync) (o : VOp) (s : State) : Out := sendWord (.vor y o) (opVor y o) s
def execVxor (y : Sync) (o : VOp) (s : State) : Out := sendWord (.vxor y o) (opVxor y o) s
def execVshl (y : Sync) (o : VOp) (s : State) : Out := sendWord (.vshl y o) (opVshl y o) s
def execVshr (y : Sync) (o : VOp) (s : State) : Out := sendWord (.vshr y o) (opVshr y o) s
def execViadd (y : Sync) (o : VOp) (s : State) : Out := sendWord (.viadd y o) (opViadd y o) s
def execVimul (y : Sync) (o : VOp) (s : State) : Out := sendWord (.vimul y o) (opVimul y o) s
def execVcmp (y : Sync) (o : VOp) (s : State) : Out := sendWord (.vcmp y o) (opVcmp y o) s
def execVsel (y : Sync) (o : VOp) (s : State) : Out := sendWord (.vsel y o) (opVsel y o) s
def execVcvt (y : Sync) (towin : Bool) (dst : BitVec 6) (va : BitVec 5) (dfmt vf : BitVec 4) (rm pol : BitVec 2) (dsmode : Bool)
    (s : State) : Out := sendWord (.vcvt y towin dst va dfmt vf rm pol dsmode) (opVcvt y towin dst va dfmt vf rm pol dsmode) s
def execVred (y : Sync) (o : VOp) (s : State) : Out := sendWord (.vred y o) (opVred y o) s
def execVscan (y : Sync) (o : VOp) (s : State) : Out := sendWord (.vscan y o) (opVscan y o) s
def execVtrn (y : Sync) (o : VOp) (s : State) : Out := sendWord (.vtrn y o) (opVtrn y o) s
def execVperm (y : Sync) (o : VOp) (s : State) : Out := sendWord (.vperm y o) (opVperm y o) s
def execVext (y : Sync) (vd va vb : BitVec 5) (vf : BitVec 4) (xo : BitVec 5) (s : State) : Out :=
  sendWord (.vext y vd va vb vf xo) (opVext y vd va vb vf xo) s

/-! ## Landing (R181, R230) -/

/-- A load from a port in flight: it waits for its last element and then for 12 cycles. In a locked region R230's text gives the last arrival + 12, its
table issue + 12 + O_V: the load lands at the later of the two, DESIGN CHOICE (log 93). -/
def State.portLoadStep (s : State) (c : Nat) (f : Inflight) : Option State :=
  let k := s.ctx c
  let i := f.port.getD 0
  let p := k.port i
  if k.claimed i f.ord + f.n ≤ p.avail then
    some (s.upFlight c f fun x => { x with mid := none, due := max x.due (if s.tide = x.issue then 0 else s.tide + 12) })
  else if k.portDry p then
    match k.portRead i (k.claimed i f.ord + f.n) fun j => k.claimed i f.ord ≤ j && f.mask.getLsbD (j - k.claimed i f.ord) with
    | .fault cause => some ((s.upCtx c fun k => k.refetch i).flightFault c f cause false 0)
    | _ => none
  else none

/-- A load from a port lands: it pops its elements, or faults and pops none (R216, R243). -/
def State.portLoadLand (s : State) (c : Nat) (f : Inflight) (vr : BitVec 5) (vf : Nat) : Option State :=
  let k := s.ctx c
  let i := f.port.getD 0
  if k.claimed i f.ord ≠ 0 then none
  else
    match k.portRead i f.n f.mask.getLsbD with
    | .wait => none
    | .fault cause => some ((s.upCtx c fun k => k.refetch i).flightFault c f cause false 0)
    | .some' es =>
      let p := k.port i
      let out := match pairing vf p.fmt p.layout with
        | none => []
        | some pr => es.zipIdx.filterMap fun e =>
            if f.mask.getLsbD e.2 then some (e.2, pr.elem vf e.1.1 e.1.2) else none
      let s := s.upCtx c fun k => { k with sp := vmod k.sp i fun p => p.drop f.n }
      s.landDue c { f with effs := elemEffects vr.toNat (vecSize vf) out }

/-- Bytes that an output port's generator can still take. -/
def Ctx.portSpace (k : Ctx) (i : Nat) : Nat :=
  let p := k.port i
  let a := k.agN p.agd
  a.prog.bytes - (a.pos * a.prog.chunk + p.chunkOff + p.outQ.length)

/-- A store to a port lands: PORT_END when the generator cannot take its bytes, else they enter the port (R244). -/
def State.portStoreLand (s : State) (c : Nat) (f : Inflight) : Option State :=
  let i := f.port.getD 0
  if (s.ctx c).portSpace i < f.bytes.length then some (s.flightFault c f (mkCause causePortEnd (kindAddr 5 i)) false 0)
  else
    some ((f.effs.foldl (fun s e => s.land c f.ord e) s).upFlight c f fun x => { x with effs := [], mid := some f.wrote })

/-- The step of an instruction that works through a port, if it has one to make. -/
def State.portStep (s : State) (c : Nat) (f : Inflight) : Option State :=
  let k := s.ctx c
  match f.port, f.mid with
  | some i, some _ =>
    if f.vw ≠ [] then s.portLoadStep c f
    else if ((k.port i).outQ.any fun b => b.owner = f.ord) || !k.canPost f.post then none
    else some (s.complete c f)
  | _, _ => none

/-- What an instruction that is due does, if it can: it pops its port, pushes to it, or lands. -/
def State.landStep (s : State) (c : Nat) (f : Inflight) : Option State :=
  match f.port, f.instr with
  | some _, .vld _ vr _ _ _ vf _ _ => s.portLoadLand c f vr vf.toNat
  | some _, .vst _ _ _ _ _ _ _ _ => s.portStoreLand c f
  | _, _ => s.landDue c f

/-- VECTOR_LAND (R230): of the instructions in flight that are due, the first to land does, if it is of this unit. -/
def tryVectorLand (c : Nat) (u : EUnit) (s : State) : Option State :=
  let k := s.ctx c
  let ports := (k.flight.filter fun f => f.unit = u && u = .vector).findSome? fun f => s.portStep c f
  match ports with
  | some s' => some s'
  | none =>
    match firstDue s.tide (k.flight.filter fun f => (s.landStep c f).isSome) with
    | some f => if f.unit ≠ u || u = .matrix then none else s.landStep c f
    | none => none

def execVectorLand (ctx : Nat) (u : EUnit) (s : State) : Out := .next ((tryVectorLand ctx u s).getD s)

/-- MATRIX_COMPLETE (R181): the next slab of a product fed by a port, or the completion of the instruction that is due first. -/
def tryMatrixComplete (c : Nat) (s : State) : Option State :=
  let k := s.ctx c
  let fs := k.flight.filter fun f => f.unit = .matrix
  let slab := fs.findSome? fun f => match f.mid with
    | some j => if f.due ≤ s.tide && k.claimed (f.port.getD 0) f.ord = 0 then s.slabStep c f j else none
    | none => none
  match slab with
  | some s' => some s'
  | none =>
    match firstDue s.tide (k.flight.filter fun f => (s.landStep c f).isSome) with
    | some f => if f.unit = .matrix then s.landStep c f else none
    | none => none

def execMatrixComplete (ctx : Nat) (s : State) : Out := .next ((tryMatrixComplete ctx s).getD s)

end Sys2Proof.Machine
end

