-- ==== Sys2Proof/Machine/Sfu.lean ====
section
/-! DEFINITION. The special-function unit (R224 to R229): reciprocal and reciprocal square root estimates, their Newton steps, and
2^x and log2(x) correctly rounded. The last two are computed to 320 fraction bits, far beyond what the rounding of any FP32 operand
can need (log 31). -/

namespace Sys2Proof.Machine

/-! ## Estimates (R225, R226) -/

/-- Normalise: e and f of |m × 2^e| = 2^e × (1 + f / 2^23), for a significand of at most 24 bits. -/
def normalise (m e : Int) : Int × Nat :=
  let n := Nat.log2 m.natAbs
  (e + (n : Int), m.natAbs * 2 ^ (23 - n) - 2 ^ 23)

/-- Q(k) = floor(2^31 / k + 1/2). -/
def rcpQ (k : Nat) : Nat := (2 ^ 32 + k) / (2 * k)

/-- RcpCore, before its rounding: the exact value it rounds. -/
def rcpCore (m e : Int) : Num :=
  let (e, f) := normalise m e
  let a := 256 + f / 2 ^ 15
  let t := f % 2 ^ 15
  let y : Int := (rcpQ a : Int) - (((rcpQ a - rcpQ (a + 1)) * t + 2 ^ 14) / 2 ^ 15 : Nat)
  .fin (if m < 0 then -y else y) (-e - 23)

/-- Integer square root by bits, from bit `i` down. -/
def isqrtFrom (n : Nat) : Nat → Nat → Nat
  | 0, r => r
  | i + 1, r => let c := r + 2 ^ i; isqrtFrom n i (if c * c ≤ n then c else r)

/-- G(k): the integer nearest √(2^54 / k), halves rounded up: the largest y with (2y − 1)² × k ≤ 2^56. -/
def rsqG (k : Nat) : Nat := (isqrtFrom (2 ^ 56 / k) 29 0 + 1) / 2

/-- RsqCore, before its rounding. -/
def rsqCore (m e : Int) : Num :=
  let (e, f) := normalise m e
  let j := f / 2 ^ 15
  let t := f % 2 ^ 15
  let (b, step, h) : Nat × Nat × Int := if e % 2 = 0 then (256 + j, 1, e / 2) else (512 + 2 * j, 2, (e - 1) / 2)
  let y : Int := (rsqG b : Int) - (((rsqG b - rsqG (b + step)) * t + 2 ^ 14) / 2 ^ 15 : Nat)
  .fin y (-h - 23)

/-- Round a result to FP32 under FTZ. -/
def toF32 (rm : Nat) (ftz : Bool) (x : Num) : Nat × Word := let (c, fl) := roundTo x 0 rm 0 ftz; (c.val, fl)

/-- Canonical NaN, with IV when asked. -/
def nanF32 (iv : Bool) : Nat × Word := (canonNan 0, if iv then flagIV else 0)

/-- VRCP of one element (R227). -/
def rcpElem (ftz : Bool) (a : Nat) : Nat × Word :=
  match readFtz ftz 0 a with
  | .nan s => nanF32 s
  | .zero n => (infBits 0 n, flagDZ)
  | .inf n => (zeroBits 0 n, 0)
  | .fin m e => toF32 0 ftz (rcpCore m e)

/-- VRSQ of one element (R227). -/
def rsqElem (ftz : Bool) (a : Nat) : Nat × Word :=
  match readFtz ftz 0 a with
  | .nan s => nanF32 s
  | .zero n => (infBits 0 n, flagDZ)
  | .inf n => if n then nanF32 true else (0, 0)
  | .fin m e => if m < 0 then nanF32 true else toF32 0 ftz (rsqCore m e)

/-! ## Newton steps (R228) -/

/-- The special cases that both steps share, then c − p scaled by 2^h, for the exact product p. -/
def newton (c h : Int) (special : Nat) (rm : Nat) (ftz : Bool) (x y : Num) (p : Num) : Nat × Word :=
  let zi : Bool := match x, y with
    | .zero _, .inf _ => true
    | .inf _, .zero _ => true
    | _, _ => false
  if x.isNan || y.isNan then nanF32 (x.sNan || y.sNan)
  else if zi then (special, 0)
  else
    let r := (addNum rm (.fin c 0) p.negate).1
    toF32 rm ftz (match r with | .fin m e => .fin m (e + h) | z => z)

/-- VRCPS of one element. -/
def rcpsElem (rm : Nat) (ftz : Bool) (a b : Nat) : Nat × Word :=
  let x := readFtz ftz 0 a
  let y := readFtz ftz 0 b
  newton 2 0 0x40000000 rm ftz x y (mulNum x y).1

/-- VRSQS of one element. -/
def rsqsElem (rm : Nat) (ftz : Bool) (a b : Nat) : Nat × Word :=
  let x := readFtz ftz 0 a
  let y := readFtz ftz 0 b
  newton 3 (-1) 0x3FC00000 rm ftz x y (mulNum (mulNum x y).1 y).1

/-! ## 2^x and log2(x) (R229) -/

/-- Fraction bits of the fixed-point values. -/
def fxBits : Nat := 320
def fxOne : Nat := 2 ^ fxBits

/-- Σ z^(2i + 1) / (2i + 1) over `n` terms, z² given: atanh z in fixed point. `p` is the current power. -/
def atanhFrom (z2 : Nat) : Nat → Nat → Nat → Nat
  | 0, _, _ => 0
  | n + 1, i, p => p / (2 * i + 1) + atanhFrom z2 n (i + 1) (p * z2 / fxOne)

def atanhFx (z : Nat) : Nat := atanhFrom (z * z / fxOne) 110 0 z

/-- ln 2 = 2 atanh(1/3). -/
def ln2Fx : Nat := 2 * atanhFx (fxOne / 3)

/-- Σ t^i / i! over `n` terms, from term `p` of index `i`. -/
def expFrom (t : Nat) : Nat → Nat → Nat → Nat
  | 0, _, _ => 0
  | n + 1, i, p => p + expFrom t n (i + 1) (p * t / fxOne / (i + 1))

/-- 2^x for finite x that is not 0, as a value to round: exact for an integer; far outside the range of FP32, a value that rounds
the same way. -/
def exp2Num (m e : Int) : Num :=
  if 9 ≤ floorLog2 m e then (if m < 0 then .fin 1 (-400) else .fin 1 400)
  else
    let d := (-e).toNat
    let v : Int := if 0 ≤ e then ishl m e.toNat else m
    let q : Int := if 0 ≤ e then v else v / ((2 ^ d : Nat) : Int)
    let r : Int := if 0 ≤ e then 0 else v % ((2 ^ d : Nat) : Int)
    if r = 0 then .fin 1 q
    else
      let t := (r.toNat * 2 ^ fxBits / 2 ^ d) * ln2Fx / fxOne
      .fin ((expFrom t 90 0 fxOne : Nat) : Int) (q - fxBits)

/-- log2(x) for finite positive x, as a value to round: exact for a power of two. -/
def log2Num (m e : Int) : Num :=
  let n := Nat.log2 m.natAbs
  let x := e + (n : Int)
  let g := m.natAbs - 2 ^ n
  if g = 0 then Num.ofSig false x 0
  else
    let z := g * fxOne / (2 ^ (n + 1) + g)
    let y := 2 * atanhFx z * fxOne / ln2Fx
    Num.ofSig false (x * (fxOne : Int) + (y : Int)) (-(fxBits : Int))

/-- VEXP2 of one element. -/
def exp2Elem (rm : Nat) (ftz : Bool) (a : Nat) : Nat × Word :=
  match readFtz ftz 0 a with
  | .nan s => nanF32 s
  | .zero _ => (0x3F800000, 0)
  | .inf n => (if n then 0 else infBits 0 false, 0)
  | .fin m e => toF32 rm ftz (exp2Num m e)

/-- VLOG2 of one element. -/
def log2Elem (rm : Nat) (ftz : Bool) (a : Nat) : Nat × Word :=
  match readFtz ftz 0 a with
  | .nan s => nanF32 s
  | .zero _ => (infBits 0 true, flagDZ)
  | .inf n => if n then nanF32 true else (infBits 0 false, 0)
  | .fin m e => if m < 0 then nanF32 true else toF32 rm ftz (log2Num m e)

/-! ## The instructions (R224, R230) -/

def opVrcp (y : Sync) (o : VOp) : EngOp := opElem .sfu y o 10 1 fun k a _ _ => rcpElem k.ftz a
def opVrsq (y : Sync) (o : VOp) : EngOp := opElem .sfu y o 10 1 fun k a _ _ => rsqElem k.ftz a
def opVrcps (y : Sync) (o : VOp) : EngOp := opElem .sfu y o 10 1 fun k a b _ => rcpsElem o.md.toNat k.ftz a b
def opVrsqs (y : Sync) (o : VOp) : EngOp := opElem .sfu y o 10 1 fun k a b _ => rsqsElem o.md.toNat k.ftz a b
def opVexp2 (y : Sync) (o : VOp) : EngOp := opElem .sfu y o 18 2 fun k a _ _ => exp2Elem o.md.toNat k.ftz a
def opVlog2 (y : Sync) (o : VOp) : EngOp := opElem .sfu y o 18 2 fun k a _ _ => log2Elem o.md.toNat k.ftz a

def execVrcp (y : Sync) (o : VOp) (s : State) : Out := sendWord (.vrcp y o) (opVrcp y o) s
def execVrsq (y : Sync) (o : VOp) (s : State) : Out := sendWord (.vrsq y o) (opVrsq y o) s
def execVrcps (y : Sync) (o : VOp) (s : State) : Out := sendWord (.vrcps y o) (opVrcps y o) s
def execVrsqs (y : Sync) (o : VOp) (s : State) : Out := sendWord (.vrsqs y o) (opVrsqs y o) s
def execVexp2 (y : Sync) (o : VOp) (s : State) : Out := sendWord (.vexp2 y o) (opVexp2 y o) s
def execVlog2 (y : Sync) (o : VOp) (s : State) : Out := sendWord (.vlog2 y o) (opVlog2 y o) s

end Sys2Proof.Machine
end

