-- ==== Sys2Proof/Machine/Region.lean ====
section
/-! DEFINITION. Engine queues and timed regions: the issue from an engine queue (R180, R306, R398), the region words (R165 to R167),
and schedule misses and restarts (R169, R232). -/

namespace Sys2Proof.Machine

/-! ## Engine queues -/

/-- The engine instruction of a word. -/
def engineOp (i : Instr) : Option EngOp :=
  match i with
  | .mma y aw bw acc koff => some (opMma y aw bw acc koff)
  | .mmaS y aw sp nm1 acc => some (opMmaS y aw sp nm1 acc)
  | .mmaC y bw asrc acc mm1 => some (opMmaC y bw asrc acc mm1)
  | .accZero y acc anchor => some (opAccZero y acc anchor)
  | .accLd y w acc row0 => some (opAccLd y w acc row0)
  | .accRd y w acc row0 rm wide => some (opAccRd y w acc row0 rm wide)
  | .accRdx y w acc row0 => some (opAccRdx y w acc row0)
  | .accRebase y acc n => some (opAccRebase y acc n)
  | .accWm y d acc row => some (opAccWm y d acc row)
  | .accStat y d acc clr => some (opAccStat y d acc clr)
  | .tdRd y d kind index => some (opTdRd y d kind index)
  | .tfillZero y blk nm1 => some (opTfillZero y blk nm1)
  | .tfillConst y fmt blk a nm1 => some (opTfillConst y fmt blk a nm1)
  | .tfillIdent y fmt blk nm1 => some (opTfillIdent y fmt blk nm1)
  | .vshape y shape => some (opVshape y shape)
  | .vld y vr port win xo vf mken mm => some (opVld y vr port win xo vf mken mm)
  | .vst y vr port win xo vf mken mm => some (opVst y vr port win xo vf mken mm)
  | .vmov y o => some (opVmov y o)
  | .vbcast y o => some (opVbcast y o)
  | .vadd y o => some (opVadd y o)
  | .vsub y o => some (opVsub y o)
  | .vmul y o => some (opVmul y o)
  | .vfma y o => some (opVfma y o)
  | .vmin y o => some (opVmin y o)
  | .vmax y o => some (opVmax y o)
  | .vabs y o => some (opVabs y o)
  | .vneg y o => some (opVneg y o)
  | .vand y o => some (opVand y o)
  | .vor y o => some (opVor y o)
  | .vxor y o => some (opVxor y o)
  | .vshl y o => some (opVshl y o)
  | .vshr y o => some (opVshr y o)
  | .viadd y o => some (opViadd y o)
  | .vimul y o => some (opVimul y o)
  | .vcmp y o => some (opVcmp y o)
  | .vsel y o => some (opVsel y o)
  | .vcvt y towin dst va dfmt vf rm pol dsmode => some (opVcvt y towin dst va dfmt vf rm pol dsmode)
  | .vred y o => some (opVred y o)
  | .vscan y o => some (opVscan y o)
  | .vtrn y o => some (opVtrn y o)
  | .vperm y o => some (opVperm y o)
  | .vext y vd va vb vf xo => some (opVext y vd va vb vf xo)
  | .vrcp y o => some (opVrcp y o)
  | .vrsq y o => some (opVrsq y o)
  | .vrcps y o => some (opVrcps y o)
  | .vrsqs y o => some (opVrsqs y o)
  | .vexp2 y o => some (opVexp2 y o)
  | .vlog2 y o => some (opVlog2 y o)
  | _ => none

/-- The head of an engine queue issues, if it can in this cycle. -/
def State.issueHead (s : State) (c : Nat) (u : EUnit) : Option State :=
  match (s.ctx c).eq u with
  | [] => none
  | e :: rest => match engineOp e.instr with
    | none => none
    | some op => (s.upCtx c fun k => k.setEq u rest).issueWord c op e

/-- The context of a core whose head an engine takes in this cycle (R398): a stamped one first, by the opening of its region and
then its number; else the next in round-robin order after the one that issued last. -/
def State.engineTurn (s : State) (core : Nat) (u : EUnit) : Option Nat :=
  let cs := (List.range s.ctxs.length).filter fun c => (s.ctx c).core = some core && (s.issueHead c u).isSome
  let stamp (c : Nat) : Option (Word × Nat) := ((s.ctx c).eq u).head?.bind (·.stamp)
  let opened (c : Nat) : Nat := ((stamp c).map (·.2)).getD 0
  let timed := cs.filter fun c => (stamp c).isSome
  match timed with
  | c :: t => some (t.foldl (fun m x => if opened x < opened m then x else m) c)
  | [] =>
    let last := vgetD (s.core core).lastIssue (EUnit.source u) 0
    match cs.find? fun c => decide (last ≤ c) with
    | some c => some c
    | none => cs.head?

/-- ENGINE_ISSUE (R180): the engine takes the head of a context's queue. -/
def tryEngineIssue (c : Nat) (u : EUnit) (s : State) : Option State :=
  match (s.ctx c).core with
  | none => none
  | some core => if s.engineTurn core u = some c then s.issueHead c u else none

def execEngineIssue (ctx : Nat) (u : EUnit) (s : State) : Out := .next ((tryEngineIssue ctx u s).getD s)

/-! ## Region words -/

/-- Whether every instruction in the matrix, vector and special-function queues of a context's core has completed: DrainComputeEngines
(R167). -/
def State.drained (s : State) (c : Nat) : Bool :=
  s.ctxs.all fun k => k.core ≠ (s.ctx c).core || (!k.engQueued && k.flight = [])

/-- A new region at the next word (R165). -/
def Ctx.openRegion (k : Ctx) (head : Word) (lead now : Nat) (base : Word) : Ctx :=
  { k with region := some { head := head, lead := lead, held := [], heldFq := [], posts := [], stamps := [], sent := false,
                            missed := none, opened := now, again := false }
           csr := { k.csr with tidebase := base, regmode := k.csr.regmode ||| 2 } }

/-- REGION.timed (R165, R167): from locked mode it waits for the engines and for an ungated cycle (R457); from a timed region it
ends that region without a drain, and the words of it that have yet to issue keep their cycles. -/
def execRegionTimed (g : Guard) (lead : BitVec 16) (chain : Bool) (s : State) : Out :=
  runSeq (.regionTimed g lead chain) g false false [] []
    (fun c st s =>
      let k := s.ctx c
      let fresh := BitVec.ofNat 64 (s.tide + lead.toNat)
      let head := (k.seq st).pc + 8
      if !k.timed then
        if !s.drained c || s.gated then .stall .other s
        else .done (s.upCtx c fun k => k.openRegion head lead.toNat s.tide fresh)
      else if !chain && s.gated then .stall .other s
      else
        let base := if chain then k.csr.tidebase + BitVec.ofNat 64 lead.toNat else fresh
        .done ((s.endRegion c).upCtx c fun k => k.openRegion head lead.toNat s.tide base)) s

/-- TIDE.BASE (R166): in a region that runs again its value is ignored. -/
def execTideBase (g : Guard) (a : BitVec 5) (s : State) : Out :=
  runSeq (.tideBase g a) g false false [a] []
    (fun c st s =>
      let k := s.ctx c
      match k.region with
      | some r =>
        if r.sent then .trap (mkCause causeRegionState (wordOf (.tideBase g a))) s
        else if r.again then .done s
        else .done (s.upCtx c fun k => { k with csr := { k.csr with tidebase := (k.seq st).rx a } })
      | none => .trap (mkCause causeRegionState (wordOf (.tideBase g a))) s) s

/-- REGION.locked (R167). -/
def execRegionLocked (g : Guard) (s : State) : Out :=
  runSeq (.regionLocked g) g false false [] []
    (fun c _ s =>
      let k := s.ctx c
      if !k.timed then .done s
      else if !s.drained c then .stall .other s
      else .done (s.endRegion c)) s

/-! ## Schedule misses (R169) -/

/-- The stamped words of a context that are past their cycle, in program order of the queues. -/
def Ctx.late (k : Ctx) (now : Nat) : List EqEntry :=
  (k.eqM ++ k.eqV ++ k.eqS).filter fun e => match e.stamp with
    | some (d, _) => !e.past && decide (d.toNat < now)
    | none => false

/-- The entry that stands first in program order. -/
def firstOrd : List EqEntry → Option EqEntry
  | [] => none
  | e :: t => match firstOrd t with
    | some g => if g.ord < e.ord then some g else some e
    | none => some e

/-- The region waits for what a missed word lacked, beyond what `old`, the region as it ran, has taken before that word and takes again. -/
def Ctx.miss (e : EqEntry) (old : Option Region) (k : Ctx) : Ctx :=
  let before (r : Region) : List Nat := ((r.held.zip r.ords).filter fun x => x.2 < e.ord).map (·.1)
  let f (r : Region) : Region :=
    { r with missed := some e.word, need := (old.map before).getD [], needFq := (old.map fun o => o.heldFq.length).getD 0 }
  { k with region := k.region.map f }

/-- A word of a queue has missed its cycle and issues when it can. -/
def Ctx.overdue (k : Ctx) (e : EqEntry) : Ctx :=
  let f (x : EqEntry) : EqEntry := if x.ord = e.ord then { x with past := true } else x
  { k with eqM := k.eqM.map f, eqV := k.eqV.map f, eqS := k.eqS.map f }

/-- The queues without the words of the open region. -/
def Ctx.clearRegion (k : Ctx) : Ctx :=
  { k with eqM := k.eqM.filter (·.left), eqV := k.eqV.filter (·.left), eqS := k.eqS.filter (·.left) }

/-- SCHEDULE_MISS (R169): a fault under MISSFAULT; else the miss is counted, the region unwinds, and the C stream waits at Head. A word
whose region has ended (R165) has no region to restart: it is counted, or faults, in the same way and then issues when it can, DESIGN
CHOICE (log 68). -/
def tryScheduleMiss (c : Nat) (s : State) : Option State :=
  let k := s.ctx c
  let count (k : Ctx) : Ctx := { k with csr := { k.csr with schedmiss := k.csr.schedmiss + 1 } }
  if k.run ≠ .running || k.pend ≠ [] then none
  else match firstOrd (k.late s.tide) with
    | none => none
    | some e =>
      if e.left then
        let s := s.upCtx c fun k => k.overdue e
        some (if k.missfault then preciseFault s c .c e.pc e.word (mkCause causeSchedMiss e.word) else s.upCtx c count)
      else if k.region.any fun r => r.missed.isSome then none
      else if k.missfault then
        some (preciseFault (s.upCtx c (Ctx.miss e k.region)) c .c e.pc e.word (mkCause causeSchedMiss e.word))
      else
        let old := k.region
        some ((s.unwindRegion c).upCtx c fun k =>
          (count (Ctx.miss e old k)).clearRegion.upSeq .c fun q => { q with stall := some (e.word, .missed) })

def execScheduleMiss (ctx : Nat) (s : State) : Out := .next ((tryScheduleMiss ctx s).getD s)

/-- Whether what a missed word lacked is there, after what its region takes before it: tokens, a format word, port data, rows, and its
engine free. -/
def State.supplied (s : State) (c : Nat) (w : Word) : Bool :=
  let k := s.ctx c
  match (instrOf w).bind engineOp with
  | none => true
  | some op =>
    let (need, n) := match k.region with
      | some r => (r.need, r.needFq)
      | none => ([], 0)
    k.canTake (need ++ syncWaits op.y) && (!op.pops || decide (n < k.fq.length)) && op.ready s c true && s.resFree k.coreNo op.unit op.res

/-- REGION_RESTART (R169, R232): once the abandoned pass has landed and what was lacking is there, the region runs again. -/
def tryRegionRestart (c : Nat) (s : State) : Option State :=
  let k := s.ctx c
  match k.region with
  | none => none
  | some r => match r.missed with
    | none => none
    | some w =>
      if k.run ≠ .running || k.pend ≠ [] || k.flight.any (fun f => f.unit ≠ .matrix) || !s.supplied c w then none
      else
        some (s.upCtx c fun k =>
          let k := { k with region := some { r with missed := none },
                            csr := { k.csr with tidebase := BitVec.ofNat 64 (s.tide + r.lead) } }
          k.upSeq .c fun q => { q with stall := none })

def execRegionRestart (ctx : Nat) (s : State) : Out := .next ((tryRegionRestart ctx s).getD s)

end Sys2Proof.Machine
end

