-- ==== Sys2Proof/Machine/Agents.lean ====
section
/-! DEFINITION. Tile windows, address generators, stream ports, copies, and the push to the collective queue (R235 to R249, R259). -/

namespace Sys2Proof.Machine

/-! ## Windows and generators -/

/-- A precise cause of an agent: KIND 4 window, 5 port, 6 generator (R467). -/
def agentCause (code kind n : Nat) : Cause := mkCause code (kindAddr kind n)

/-- TWDEF (R235): the descriptor is in force from the next cycle on. -/
def execTwdef (g : Guard) (a b : BitVec 5) (n : BitVec 6) (s : State) : Out :=
  runSeq (.twdef g a b n) g false false [a, b] []
    (fun c st s =>
      let k := s.ctx c
      let q := k.seq st
      let w0 := q.rx a
      let w1 := q.rx b
      let w : Win := { valid := true, w0 := w0, w1 := w1 }
      let put (w : Win) : Res := .done (s.upCtx c fun k => { k with winNew := k.winNew ++ [(n.toNat, w)] })
      if w0 = 0 && w1 = 0 then put { k.winN n.toNat with valid := false }
      else if w.ok then put w
      else .trap (agentCause causeAgentInvalid 4 n.toNat) s) s

/-- The windows written in the last cycle come into force (R235). -/
def Ctx.settleWins (k : Ctx) : Ctx :=
  { (k.winNew.foldl (fun (k : Ctx) e => { k with win := vmod k.win e.1 fun _ => e.2 }) k) with winNew := [] }

/-- Whether a port other than `p` holds a generator. -/
def Ctx.agTaken (k : Ctx) (n : Nat) (p : Option Nat) : Bool :=
  (List.range 4).any fun i => some i ≠ p && (k.port i).dir ≠ 0 && ((k.port i).agd = n || (k.port i).ags = some n)

/-- AGSET (R239). -/
def execAgset (g : Guard) (a : BitVec 5) (n : BitVec 3) (s : State) : Out :=
  runSeq (.agset g a n) g false false [a] []
    (fun c st s =>
      let k := s.ctx c
      let q := k.seq st
      let va := q.rx a
      if k.agTaken n.toNat none then .trap (agentCause causeAgBusy 6 n.toNat) s
      else match s.checkVa k.core k.vf .rd va 64 with
        | (s, .error cause) => .trap cause s
        | (s, .ok (pa, key)) =>
          if q.storeQ ≠ [] || q.loadQ ≠ [] then .stall .other s
          else if s.pinnedElsewhere k.coreNo pa then .stall .other (s.notePin k.coreNo (seqAsker c st) pa)
          else if s.channelHeld key pa 64 false then .stall .other s
          else if s.peerWaits k.vf pa 64 then .stall .other (s.askPeers [(k.vf, pa, 64)])
          else
            let (s, bs, bad) := s.agentLoad c (some st) key pa 64
            if bad then .trap (mkCause causeMemUncorr va) s
            else if !agOk bs then .trap (agentCause causeAgentInvalid 6 n.toNat) s
            else .done (s.upCtx c fun k =>
              { k with ag := vmod k.ag n.toNat fun x => { x with prog := agParse bs, programmed := true, pos := 0 } })) s

/-! ## Binding ports (R242) -/

/-- Whether an instruction that names the port has issued and not completed. -/
def Ctx.portBusy (k : Ctx) (p : Nat) : Bool := (k.flight.any fun f => f.port = some p) || (k.port p).outQ ≠ []

/-- Bind a port: the tests of R242 in order. -/
def bindPort (i : Instr) (g : Guard) (p : Nat) (dir agd : Nat) (ags : Option Nat) (fmt layout : Nat) (fam descOk : Bool)
    (s : State) : Out :=
  runSeq i g false false [] []
    (fun c _ s =>
      let k := s.ctx c
      let gens := agd :: ags.toList
      if k.portBusy p then .stall .other s
      else match gens.find? fun n => k.agTaken n (some p) with
        | some n => .trap (agentCause causeAgBusy 6 n) s
        | none => match gens.find? fun n => !(k.agN n).programmed with
          | some n => .trap (agentCause causeUndefAgent 6 n) s
          | none =>
            if ags = some agd || !descOk then .trap (agentCause causeAgentInvalid 5 p) s
            else
              let q : Port := { Port.off with dir := dir, agd := agd, ags := ags, fmt := fmt, layout := layout, fam := fam }
              let reset (k : Ctx) (n : Nat) : Ctx := { k with ag := vmod k.ag n fun x => { x with pos := 0 } }
              .done (s.upCtx c fun k => { (gens.foldl reset k) with sp := vmod k.sp p fun _ => q })) s

/-- SPBIND.in. -/
def execSpbindIn (g : Guard) (p : BitVec 2) (agd : BitVec 3) (scaled : Bool) (ags : BitVec 3) (fmt : BitVec 4) (layout : BitVec 2)
    (fam : Bool) (s : State) : Out :=
  bindPort (.spbindIn g p agd scaled ags fmt layout fam) g p.toNat 1 agd.toNat (if scaled then some ags.toNat else none) fmt.toNat
    layout.toNat fam (layoutOk fmt.toNat layout.toNat fam && (scaled == (layout ≠ 0)) && (scaled || ags = 0)) s

/-- SPBIND.out. -/
def execSpbindOut (g : Guard) (p : BitVec 2) (agd : BitVec 3) (fmt : BitVec 4) (s : State) : Out :=
  bindPort (.spbindOut g p agd fmt) g p.toNat 2 agd.toNat none fmt.toNat 0 false (layoutOk fmt.toNat 0 false) s

/-- SPBIND.off. -/
def execSpbindOff (g : Guard) (p : BitVec 2) (s : State) : Out :=
  runSeq (.spbindOff g p) g false false [] []
    (fun c _ s =>
      if (s.ctx c).portBusy p.toNat then .stall .other s
      else .done (s.upCtx c fun k => { k with sp := vmod k.sp p.toNat fun _ => Port.off })) s

/-! ## Accesses of copies and ports -/

/-- A place of a byte: memory or scratchpad. -/
structure Place where
  mem : Bool
  addr : Nat
deriving DecidableEq, Repr

/-- A run of consecutive bytes within one 128-byte sector. -/
structure Run128 where
  mem : Bool
  addr : Nat
  len : Nat
deriving DecidableEq, Repr

/-- Bytes as runs. -/
def runsOf (ps : List Place) : List Run128 :=
  (ps.foldl (fun (acc : List Run128) p => match acc with
    | r :: t =>
      if r.mem = p.mem && r.addr + r.len = p.addr && p.addr % 128 ≠ 0 then { r with len := r.len + 1 } :: t
      else { mem := p.mem, addr := p.addr, len := 1 } :: acc
    | [] => [{ mem := p.mem, addr := p.addr, len := 1 }]) []).reverse

/-- Whether an engine's memory access waits for a pin (R295). -/
inductive Try (α : Type)
  | wait
  | fail (c : Cause)
  | ok (a : α)

/-- The place in the machine of a run, for a need: the checks of R24, or steps 1, 3 and 4 of R144. -/
def State.locate (s : State) (c : Nat) (need : Need) (r : Run128) : State × Try (Nat × Nat) :=
  let k := s.ctx c
  if r.mem then
    let va := BitVec.ofNat 64 r.addr
    if bitsN va 63 56 ≠ 0 then (s, .fail (mkCause causeAddrRange va))
    else match s.resolve k.core k.vf agCore need va with
      | (s, .error e) => (s, .fail e)
      | (s, .ok (pa, key)) => 
        if s.pinnedElsewhere k.coreNo pa then (s.notePin k.coreNo k.coreNo pa, .wait)
        else if s.channelHeld key pa r.len (need = .wr) then (s, .wait)
        else (s, .ok (pa, key))
  else match k.spPhys r.addr r.len with
    | some p => (s, .ok (p, 0))
    | none => (s, .fail (mkCause causeAllotRange (kindAddr 1 r.addr)))

/-- Read runs in order. -/
def State.readRuns (s : State) (c : Nat) : List Run128 → State × Try (List Byte)
  | [] => (s, .ok [])
  | r :: t =>
    match s.locate c .rd r with
    | (s, .wait) => (s, .wait)
    | (s, .fail e) => (s, .fail e)
    | (s, .ok (pa, key)) =>
      let (s, bs, bad) := if r.mem then s.agentLoad c none key pa r.len
        else (s, s.spBytes (s.ctx c) r.addr r.len, (s.core (s.ctx c).coreNo).spadBad pa r.len)
      if bad then (s, .fail (mkCause causeMemUncorr (if r.mem then BitVec.ofNat 64 r.addr else spadAddr pa)))
      else match s.readRuns c t with
        | (s, .ok more) => (s, .ok (bs ++ more))
        | (s, .wait) => (s, .wait)
        | (s, .fail e) => (s, .fail e)

/-- Find the places of all runs before anything is written. -/
def State.locateAll (s : State) (c : Nat) : List Run128 → State × Try (List (Run128 × Nat × Nat))
  | [] => (s, .ok [])
  | r :: t =>
    match s.locate c .wr r with
    | (s, .wait) => (s, .wait)
    | (s, .fail e) => (s, .fail e)
    | (s, .ok p) => match s.locateAll c t with
      | (s, .ok more) => (s, .ok ((r, p) :: more))
      | (s, .wait) => (s, .wait)
      | (s, .fail e) => (s, .fail e)

/-- Write bytes at located runs: they perform at CORE scope. -/
def State.writeRuns (s : State) (c : Nat) : List (Run128 × Nat × Nat) → List Byte → State
  | [], _ => s
  | (r, pa, key) :: t, bs =>
    let b := bs.take r.len
    let s := if r.mem then s.agentStore c none key pa (BitVec.ofNat 64 r.addr) b else s.spStore c r.addr b
    s.writeRuns c t (bs.drop r.len)

/-! ## Ports at work (R243, R244) -/

/-- Whether a context's engines work on: it runs, or its stop has not settled. -/
def Ctx.working (k : Ctx) : Bool := k.core.isSome && (k.run = .running || k.run = .stopping || k.run = .saving)

/-- The bytes of the rest of a generator's chunk. -/
def AgProg.places (p : AgProg) (pos off n : Nat) : List Place :=
  (List.range n).map fun i => { mem := p.space = 0, addr := (p.addr pos + BitVec.ofNat 64 (off + i)).toNat }

/-- Fetch runs into tagged bytes: a run that fails enters its bytes with the cause (R243). -/
def State.fetchRuns (s : State) (c : Nat) : List Run128 → State × Option (List PByte)
  | [] => (s, some [])
  | r :: t =>
    match s.readRuns c [r] with
    | (s, .wait) => (s, none)
    | (s, .fail e) =>
      match s.fetchRuns c t with
      | (s, some more) => (s, some (List.replicate r.len { b := 0, poison := some e } ++ more))
      | (s, none) => (s, none)
    | (s, .ok bs) =>
      match s.fetchRuns c t with
      | (s, some more) => (s, some ((bs.map fun b => { b := b, poison := none }) ++ more))
      | (s, none) => (s, none)

/-- The next chunk of one generator of an input port, if there is one and the FIFO of 16 KiB has room. -/
def State.fetchChunk (s : State) (c i agn off : Nat) (fifo : List PByte) (scale : Bool) : Option State :=
  let g := (s.ctx c).agN agn
  let n := g.prog.chunk - off
  if g.prog.total ≤ g.pos || 16384 < fifo.length + n then none
  else match s.fetchRuns c (runsOf (g.prog.places g.pos off n)) with
    | (s', none) => s.waitOr s'
    | (s, some bs) =>
      some (s.upCtx c fun k =>
        { k with
          ag := vmod k.ag agn fun x => { x with pos := x.pos + 1 }
          sp := vmod k.sp i fun p =>
            if scale then { p with sfifo := p.sfifo ++ bs, schunkOff := 0 } else { p with fifo := p.fifo ++ bs, chunkOff := 0 } })

/-- STREAM_PORT_FETCH (R243): one chunk of data, or of scale entries when they lag behind. -/
def tryStreamPortFetch (c : Nat) (p : Fin 4) (s : State) : Option State :=
  let k := s.ctx c
  let q := k.port p.val
  if !k.working || q.dir ≠ 1 then none
  else
    let data := s.fetchChunk c p.val q.agd q.chunkOff q.fifo false
    match q.ags with
    | none => data
    | some a =>
      let scale := s.fetchChunk c p.val a q.schunkOff q.sfifo true
      if q.sfifo.length / max q.scaleBytes 1 ≤ q.fifo.length / max q.blockBytes 1 then scale.orElse fun _ => data
      else data.orElse fun _ => scale

def execStreamPortFetch (ctx : Nat) (p : Fin 4) (s : State) : Out := .next ((tryStreamPortFetch ctx p s).getD s)

/-- OUTPUT_PORT_WRITE (R244): the next bytes of one VST go to the chunk that the generator stands at, up to its end; a fault is the
VST's, with the number of its bytes already written. -/
def tryOutputPortWrite (c : Nat) (p : Fin 4) (s : State) : Option State :=
  let k := s.ctx c
  let q := k.port p.val
  match q.outQ with
  | [] => none
  | b :: _ =>
    if !k.working || q.dir ≠ 2 then none
    else match k.flightOf b.owner with
      | none => none
      | some f =>
        let g := k.agN q.agd
        let mine := q.outQ.takeWhile fun x => x.owner = b.owner
        let n := min mine.length (min 128 (g.prog.chunk - q.chunkOff))
        match s.locateAll c (runsOf (g.prog.places g.pos q.chunkOff n)) with
        | (s', .wait) => s.waitOr s'
        | (s, .fail e) => some (s.flightFault c f e true (f.wrote + (f.bytes.length - mine.length)))
        | (s, .ok rs) =>
          let s := s.writeRuns c rs ((mine.take n).map (·.b))
          let o := q.chunkOff + n
          let wrap := g.prog.chunk ≤ o
          some (s.upCtx c fun k =>
            { k with
              ag := vmod k.ag q.agd fun x => { x with pos := if wrap then x.pos + 1 else x.pos }
              sp := vmod k.sp p.val fun x => { x with outQ := x.outQ.drop n, chunkOff := if wrap then 0 else o } })

def execOutputPortWrite (ctx : Nat) (p : Fin 4) (s : State) : Out := .next ((tryOutputPortWrite ctx p s).getD s)

/-! ## Copies: issue (R245 to R249) -/

/-- Copies that a context of a core may hold, and whether another may issue (R247). -/
def State.copyRoom (s : State) (c : Nat) : Bool :=
  let core := (s.ctx c).core
  let rs := s.ctxs.filter fun k => k.core = core && k.run ≠ .gone
  decide ((rs.map fun k => k.copies.length).sum < 48) && decide ((s.ctx c).copies.length < 48 / max rs.length 1)

/-- Issue a copy: earlier stores and tokens, then, with the tokens taken, a slot (R247); then the checks and the record, or the fault of an
unissued copy, whose tokens return and after which the stream stands at the same word (R249; log 33). -/
def issueCopy (i : Instr) (y : Sync) (xs : List (BitVec 5)) (mk : Ctx → Seq → Except Cause Copy) (s : State) : Out :=
  match s.turn with
  | .agents => .next s
  | .issue c st _ =>
    let k := s.ctx c
    let q := k.seq st
    finishRes i c st <|
      if xs.any (owed q) then .stall .other s
      else match markOf q xs with
        | some m => .trap (mkCause causeMemUncorr m.addr) s
        | none =>
          let held := q.stall = some (wordOf i, .slot)
          let took := if held then s else s.upCtx c fun k => (k.take (syncWaits y)).settle
          if !held && !k.canTake (syncWaits y) then .stall .take s
          else if !held && q.storeQ.any fun e => e.kind ≠ .mark then .stall .other s
          else if !s.copyRoom c then .stall .slot took
          else match mk k q with
            | .error cause =>
              .jump (takeFault (if held then s.upCtx c fun k => k.giveBack (syncWaits y) else s) c
                { source := 7, precise := false, cause := cause, tide := s.tide, pc := q.pc, word := wordOf i, fword := none,
                  progress := 0, unissued := true, midop := false, ord := q.ord + 1 })
            | .ok y' => .done (took.upCtx c fun k => { k with copies := k.copies ++ [y'] })

/-- The barrier operand of a copy. -/
def barE (k : Ctx) (bar : BitVec 7) (baren : Bool) : Except Cause Unit :=
  need (!baren || (k.barNo bar.toNat).isSome) (mkCause causeAllotRange (kindAddr 3 bar.toNat))

/-- A scratchpad operand of CPY (R245). -/
def spOperand (k : Ctx) (w : Word) (n : Nat) : Except Cause Unit :=
  need (w.toNat < 2 ^ 24 && (k.spPhys w.toNat n).isSome) (mkCause causeAllotRange (kindAddr 1 w.toNat))

/-- A memory operand of CPY: bits [63:56] of its first and last byte's address. -/
def memOperand (w : Word) (n : Nat) : Except Cause Unit :=
  need (bitsN w 63 56 = 0 && bitsN (w + BitVec.ofNat 64 (n - 1)) 63 56 = 0) (mkCause causeAddrRange w)

/-- CPY (R245). -/
def execCpy (y : Sync) (xd xs xn : BitVec 5) (dir : BitVec 2) (bar : BitVec 7) (baren : Bool) (s : State) : Out :=
  issueCopy (.cpy y xd xs xn dir bar baren) y [xd, xs, xn] (fun k q => do
    let n := (q.rx xn).toNat
    if n ≠ 0 then
      need (n ≤ 2 ^ 24) (mkCause causeCpyRange (q.rx xn))
      if dir = 0 || dir = 2 then spOperand k (q.rx xd) n else memOperand (q.rx xd) n
      if dir = 1 || dir = 2 then spOperand k (q.rx xs) n else memOperand (q.rx xs) n
    barE k bar baren
    return { ord := q.ord + 1, st := match s.turn with
               | .issue _ st _ => st
               | .agents => .l
             word := wordOf (.cpy y xd xs xn dir bar baren), dst := q.rx xd, src := q.rx xs, count := n, dir := dir.toNat, nd := none,
             lead := 0, done := [], nz := [], bar := if baren then some bar.toNat else none, post := y.pq.toNat, landed := false, fault := none }) s

/-- A generator operand of CPY.nd. -/
def genOperand (k : Ctx) (n : Nat) : Except Cause AgProg := do
  need (k.agN n).programmed (agentCause causeUndefAgent 6 n)
  need (!k.agTaken n none) (agentCause causeAgBusy 6 n)
  return (k.agN n).prog

/-- CPY.nd (R246); a window of format INT64 is no operand of it (R191). Which cause several failing checks give is DESIGN CHOICE (log 93): they are
tried in this order. -/
def execCpyNd (y : Sync) (mode : BitVec 2) (win : BitVec 6) (sag dag : BitVec 3) (bar : BitVec 7) (baren : Bool) (s : State) : Out :=
  issueCopy (.cpyNd y mode win sag dag bar baren) y [] (fun k q => do
    let m := mode.toNat
    let dp ← if m = 1 then pure AgProg.empty else genOperand k dag.toNat
    let sp ← if m = 2 then pure AgProg.empty else genOperand k sag.toNat
    if m ≠ 0 then need (k.winN win.toNat).valid (agentCause causeUndefAgent 4 win.toNat)
    let w := k.winN win.toNat
    if m ≠ 0 then need (w.fmt ≠ 11) (agentCause causeFmtInvalid 4 win.toNat)
    let ns := if m = 2 then w.dataSize else sp.bytes
    let nd := if m = 1 then w.dataSize else dp.bytes
    need (ns ≤ 2 ^ 40 && nd ≤ 2 ^ 40) (mkCause causeCpyRange (BitVec.ofNat 64 (max ns nd)))
    need (ns = nd) (mkCause causeCpyShape (BitVec.ofNat 64 ns))
    barE k bar baren
    return { ord := q.ord + 1, st := match s.turn with
               | .issue _ st _ => st
               | .agents => .l
             word := wordOf (.cpyNd y mode win sag dag bar baren), dst := 0, src := 0, count := ns, dir := 0, nd := some (m, sp, dp, w),
             lead := 0, done := [], nz := [], bar := if baren then some bar.toNat else none, post := y.pq.toNat, landed := false, fault := none }) s

/-! ## Copies: pieces (R248) -/

/-- Where byte `j` of a copy comes from and goes to. -/
def Copy.srcAt (y : Copy) (j : Nat) : Place :=
  match y.nd with
  | none => { mem := y.dir = 0 || y.dir = 3, addr := y.src.toNat + j }
  | some (m, sp, _, w) => if m = 2 then { mem := false, addr := w.at j } else { mem := sp.space = 0, addr := (sp.byteAddr j).toNat }

def Copy.dstAt (y : Copy) (j : Nat) : Place :=
  match y.nd with
  | none => { mem := y.dir = 1 || y.dir = 3, addr := y.dst.toNat + j }
  | some (m, _, dp, w) => if m = 1 then { mem := false, addr := w.at j } else { mem := dp.space = 0, addr := (dp.byteAddr j).toNat }

/-- Bytes of piece `p`. -/
def Copy.piece (y : Copy) (p : Nat) : List Nat := (List.range (min 128 (y.count - 128 * p))).map fun i => 128 * p + i

/-- Leading pieces, given those done out of order. -/
def leadFrom (done : List Nat) (n : Nat) : Nat → Nat
  | 0 => n
  | f + 1 => if done.contains n then leadFrom done (n + 1) f else n

/-- Change copy `i` of a context. -/
def State.upCopy (s : State) (c i : Nat) (f : Copy → Copy) : State := s.upCtx c fun k => { k with copies := k.copies.modify i f }

/-- Whether intervals cover [lo, hi). -/
def covered (iv : List (Nat × Nat)) (hi : Nat) : Nat → Nat → Bool
  | 0, lo => decide (hi ≤ lo)
  | f + 1, lo =>
    if hi ≤ lo then true
    else
      let next := iv.foldl (fun m x => if x.1 ≤ lo && m < x.1 + x.2 then x.1 + x.2 else m) lo
      if next = lo then false else covered iv hi f next

/-- The parts of a copy's bytes that have performed. -/
def Copy.performed (y : Copy) : List (Nat × Nat) :=
  (0, min y.count (128 * y.lead)) :: y.done.map fun p => (128 * p, min 128 (y.count - 128 * p))

/-- The scratchpad intervals that a copy has written. -/
def Copy.written (y : Copy) : List (Nat × Nat) :=
  y.performed.flatMap fun iv => match y.nd with
    | none => if y.dir = 0 || y.dir = 2 then [(y.dst.toNat + iv.1, iv.2)] else []
    | some (m, _, dp, w) =>
      if m = 1 then [(w.data + iv.1, iv.2)]
      else if dp.space = 0 then []
      else (List.range dp.total).filterMap fun n =>
        let lo := max (n * dp.chunk) iv.1
        let hi := min ((n + 1) * dp.chunk) (iv.1 + iv.2)
        if lo < hi then some ((dp.addr n).toNat + (lo - n * dp.chunk), hi - lo) else none

/-- Of some blocks, those that one copy has written whole with zeros become ZERO as its bytes land (R196). -/
def State.zeroBlocks (s : State) (c : Nat) (y : Copy) (blocks : List Nat) : State :=
  let k := s.ctx c
  let iv := y.written
  let zero := blocks.filter fun b =>
    !y.nz.contains b && covered iv (b * 16384 + 16384) (iv.length + 1) (b * 16384) &&
      sslice (s.core k.coreNo).spad ((k.baseBlk + b) * 16384) ((k.baseBlk + b + 1) * 16384) = []
  s.upCore k.coreNo fun h => { h with dir := zero.foldl (fun d b => sset 0 d (k.baseBlk + b) 0) h.dir }

/-- The scratchpad offset of the scale entry of the first block with a reserved tag that bytes of a copy's source window lie in (R45). -/
def Copy.badTag (y : Copy) (rd : Nat → Byte) (js : List Nat) : Option Nat :=
  match y.nd with
  | some (2, _, _, w) =>
    if w.layout ≠ 2 then none
    else
      let per := w.kext / 32
      ((js.map (· / 32)).eraseDups.find? fun b => (w.blk rd (b / per) (b % per)).bad).map fun b => (w.scaleOff (b / per) (b % per)).1
  | _ => none

/-- COPY_PIECE_PERFORM (R248): one piece performs; a fault is taken only when every earlier piece has performed. -/
def tryCopyPiece (c i p : Nat) (s : State) : Option State :=
  let k := s.ctx c
  match k.copies[i]? with
  | none => none
  | some y =>
    if !k.working || y.fault.isSome || y.count ≤ 128 * p || p < y.lead || y.done.contains p then none
    else
      let js := y.piece p
      let stop (s : State) (e : Cause) : Option State :=
        if p ≠ y.lead then none
        else
          some (takeFault (s.upCopy c i fun y => { y with fault := some e }) c
            { source := 7, precise := false, cause := e, tide := s.tide, pc := 0, word := y.word, fword := none, progress := 0,
              unissued := false, midop := true, ord := y.ord })
      match s.readRuns c (runsOf (js.map y.srcAt)) with
      | (s', .wait) => s.waitOr s'
      | (s, .fail e) => stop s e
      | (s, .ok bs) => match y.badTag (s.spByte k) js with
      | some o => stop s (mkCause causeFmtInvalid (kindAddr 1 o))
      | none => match s.locateAll c (runsOf (js.map y.dstAt)) with
        | (s', .wait) => s.waitOr s'
        | (s, .fail e) => stop s e
        | (s, .ok rs) =>
          let s := s.writeRuns c rs bs
          let hot := (js.map y.dstAt).zip bs |>.filterMap fun x => if !x.1.mem && x.2 ≠ 0 then some (x.1.addr / 16384) else none
          let up (y : Copy) : Copy :=
            let done := p :: y.done
            let lead := leadFrom done y.lead done.length
            { y with lead := lead, done := done.filter fun q => decide (lead ≤ q), nz := (y.nz ++ hot).eraseDups }
          let blocks := ((js.map y.dstAt).filterMap fun x => if x.mem then none else some (x.addr / 16384)).eraseDups
          some ((s.upCopy c i up).zeroBlocks c (up y) blocks)

def execCopyPiecePerform (ctx idx piece : Nat) (s : State) : Out := .next ((tryCopyPiece ctx idx piece s).getD s)

/-! ## Copies: completion -/

/-- COPY_COMPLETE (R248): the barrier's TX falls, and then the post is made, which alone waits for room in its queue. -/
def tryCopyComplete (c i : Nat) (s : State) : Option State :=
  let k := s.ctx c
  match k.copies[i]? with
  | none => none
  | some y =>
    if !k.working || y.fault.isSome || 128 * y.lead < y.count || s.unackedBy c || (y.landed && !k.canPost y.post) then none
    else
      let finish (s : State) : State :=
        if k.canPost y.post then s.upCtx c fun k => (({ k with copies := k.copies.eraseIdx i } : Ctx).post y.post).settle
        else s.upCopy c i fun y => { y with landed := true }
      match (if y.landed then none else y.bar) with
      | none => some (finish s)
      | some b =>
        let bad : Option State :=
          some (takeFault (s.upCopy c i fun y => { y with fault := some (barState b) }) c
            { source := 7, precise := false, cause := barState b, tide := s.tide, pc := 0, word := y.word, fword := none, progress := 0,
              unissued := false, midop := true, ord := y.ord })
        match s.barrier k b true with
        | .error _ => bad
        | .ok (p, x) => match x.addTx (-(y.count : Int)) with
          | none => bad
          | some x' => some (finish (s.setBar c p x'))

def execCopyComplete (ctx idx : Nat) (s : State) : Out := .next ((tryCopyComplete ctx idx s).getD s)

/-! ## The collective queue (R259) -/

/-- COLL.START: the stream's stores perform at MODULE, then a push with its journal entry. -/
def execCollStart (g : Guard) (d a b : BitVec 5) (comm : BitVec 16) (reply : Bool) (s : State) : Out :=
  runSeq (.collStart g d a b comm reply) g false false [a, b] [d]
    (fun c st s =>
      let k := s.ctx c
      let q := k.seq st
      if q.storeQ ≠ [] || q.loadQ ≠ [] || !s.ownHome c st (k.effScope 3).1 then .stall .other s
      else if 16 ≤ k.collq.length || !k.jnlRoom then .stall .push s
      else
        let e := k.effScope 3
        let s := (s.sendHome c st e.1).upCtx c fun k => k.countClamp e.2
        let seq := k.csr.jnlhead
        let body := natBytes (q.rx a).toNat 8 ++ natBytes (q.rx b).toNat 8 ++ natBytes comm.toNat 2 ++ natBytes (b2n reply) 1
        let s := s.jnlPush c 4 body
        let x : CollEntry := { seq := seq.toNat, prog := q.rx a, arg := q.rx b, comm := comm.toNat, reply := reply }
        .done (s.upCtx c fun k => ({ k with collq := k.collq ++ [x] } : Ctx).upSeq st fun q => q.wx d seq)) s

end Sys2Proof.Machine
end

