-- ==== Sys2Proof/Machine/Index.lean ====
section
/-! DEFINITION. The index engine and the merge unit (R250 to R258): the start of a command with its checks, the batches, and the
end of a command. -/

namespace Sys2Proof.Machine

/-! ## Statuses (R255) -/

def ieRange : Nat := 1
def ieXlate : Nat := 2
def ieDenied : Nat := 3
def ieMemerr : Nat := 4
def ieField : Nat := 5
def ieOrder : Nat := 6
def ieCap : Nat := 7
def ieAllot : Nat := 8
def ieBar : Nat := 9

/-- The status of an access that cannot complete (R254): an address with bits [63:56] set has no translation. -/
def ieStatus (c : Cause) : Nat :=
  if c.code = causeAccessDenied then ieDenied else if c.code = causeMemUncorr then ieMemerr else ieXlate

/-! ## Command blocks (R250) -/

/-- Fields of an index-engine block. -/
def ieKind (b : List Byte) : Nat := fieldN b 16 1
def ieFlags (b : List Byte) : Nat := fieldN b 17 1
def ieBarNo (b : List Byte) : Nat := fieldN b 18 1
def ieWin (b : List Byte) : Nat := fieldN b 19 1
def ieCount (b : List Byte) : Nat := fieldN b 20 4
def ieTable (b : List Byte) : Word := fieldW b 24
def ieIndex (b : List Byte) : Word := fieldW b 32
def ieNrows (b : List Byte) : Nat := fieldN b 40 4
def ieRowbytes (b : List Byte) : Nat := fieldN b 44 4
def iePitch (b : List Byte) : Nat := fieldN b 48 8
def ieVmask (b : List Byte) : Nat := fieldN b 56 4
def ieScope (b : List Byte) : Nat := fieldN b 60 1
def ieEfmt (b : List Byte) : Nat := fieldN b 61 1

/-- Flag bit `i` of a block. -/
def ieFlag (b : List Byte) (i : Nat) : Bool := ieFlags b / 2 ^ i % 2 = 1

/-- Whether a block's KIND is a gather. -/
def ieGather (b : List Byte) : Bool := ieKind b = 1 || ieKind b = 2

/-- The fields of a block against R250, apart from its window. -/
def ieFieldsOk (b : List Byte) : Bool :=
  let k := ieKind b
  1 ≤ k && k ≤ 4 && ieFlags b < 16 && (ieGather b || !ieFlag b 1) && ieBarNo b < 128 && ieWin b < 64 &&
  1 ≤ ieCount b && ieCount b ≤ 65535 && (ieIndex b).toNat % 4 = 0 && 1 ≤ ieNrows b && 1 ≤ ieRowbytes b && ieRowbytes b ≤ 65535 &&
  (if k = 2 then iePitch b = 0 else ieRowbytes b ≤ iePitch b) && (if ieGather b then ieScope b = 0 else ieScope b ≤ 4) &&
  (if k = 4 then ieEfmt b = 0 || ieEfmt b = 10 || ieEfmt b = 11 else ieEfmt b = 0) && zeroIn b 62 64

/-- The window of a block (R251): its row, or its element for GATHER.ELEM, is ROWBYTES long, so window byte i × ROWBYTES + j is byte
j of index i. -/
def ieWinOk (b : List Byte) (w : Win) : Bool :=
  let n := ieCount b
  let rb := ieRowbytes b
  let esz := fmtWidth w.fmt / 8
  w.valid && w.layout = 0 &&
  (if ieKind b = 2 then (rb = 1 || rb = 2 || rb = 4) && rb = esz && n ≤ w.rows * w.kext else rb = w.rowSize && n ≤ w.rows) &&
  (ieKind b ≠ 4 || (w.fmt = ieEfmt b && rb % esz = 0))

/-- The check of a barrier that a command will use (R251): 0, ALLOT or BAR. -/
def State.cmdBar (s : State) (k : Ctx) (uses : Bool) (n : Nat) : Nat :=
  if !uses then 0
  else match k.barNo n with
    | none => ieAllot
    | some p => if (vgetD (s.core k.coreNo).bars p Barrier.raw).init then 0 else ieBar

/-- The status of the checks at start (R251): 0 when the command may run. -/
def State.ieCheck (s : State) (k : Ctx) (b : List Byte) : Nat :=
  let w := k.winN (ieWin b)
  if !ieFieldsOk b || !ieWinOk b w then ieField
  else if !((List.range (ieCount b * ieRowbytes b)).all fun j => (k.spPhys (w.at j) 1).isSome) then ieAllot
  else if ieVmask b ≠ 0xFFFFFFFF && (k.spPhys (ieVmask b) (cdiv (ieCount b) 8)).isNone then ieAllot
  else s.cmdBar k (ieFlag b 1 || ieFlag b 3) (ieBarNo b)

/-- Pop the oldest entry of SQ0 or SQ1 through the once-only guard (R320): an entry not QUEUED is discarded; the one popped becomes
STARTED. -/
def State.sqPop (s : State) (c : Nat) (u : CmdUnit) : Nat → State × Option SqEntry
  | 0 => (s, none)
  | n + 1 =>
    let k := s.ctx c
    match (match u with
      | .ie => k.sq0
      | .mu => k.sq1) with
    | [] => (s, none)
    | e :: rest =>
      let s' := s.upCtx c fun k => match u with
        | .ie => { k with sq0 := rest }
        | .mu => { k with sq1 := rest }
      if k.jnlState e.seq = jQueued then (s'.jnlMark c e.seq jStarted, some e) else s'.sqPop c u n

/-- Whether the index engine or the merge unit of a context's core has no command (R250). -/
def State.unitIdle (s : State) (c : Nat) (u : CmdUnit) : Bool :=
  let core := (s.ctx c).core
  core.isSome && s.ctxs.all fun k => k.core ≠ core || (match u with
    | .ie => k.ie.isNone
    | .mu => k.mu.isNone)

/-- The index engine starts the oldest SQ0 entry (R250, R251). A gather's start event takes its own kind; that of GATHER.ROWS takes
every KIND that SQ0 does not know as well, which then fails with FIELD. -/
def tryIeStart (kind c : Nat) (s : State) : Option State :=
  if (s.ctx c).run ≠ .running || !s.unitIdle c .ie then none
  else match s.sqPop c .ie 16 with
    | (_, none) => none
    | (s, some e) =>
      let b := e.blk
      let mine := if 1 ≤ ieKind b && ieKind b ≤ 4 then ieKind b else 1
      if mine ≠ kind then none
      else
        let k := s.ctx c
        let st := s.ieCheck k b
        let sc := k.effScope (ieScope b)
        let s := if st = 0 && !ieGather b then s.upCtx c fun k => k.countClamp sc.2 else s
        let r : IeRun :=
          { seq := e.seq, blk := b, scope := sc.1, win := k.winN (ieWin b), next := 0, idx := [], halt := none, bits := 0,
            served := 0, applied := 0, elem := 0, status := st, fin := st ≠ 0, nobar := st ≠ 0, ended := false, refused := none }
        some (s.upCtx c fun k => { k with ie := some r })

def execGatherRows (ctx : Nat) (s : State) : Out := .next ((tryIeStart 1 ctx s).getD s)
def execGatherElem (ctx : Nat) (s : State) : Out := .next ((tryIeStart 2 ctx s).getD s)
def execScatterRows (ctx : Nat) (s : State) : Out := .next ((tryIeStart 3 ctx s).getD s)
def execScatterAdd (ctx : Nat) (s : State) : Out := .next ((tryIeStart 4 ctx s).getD s)

/-! ## Memory with demand paging (R254) -/

/-- The place of a run for an engine that waits for FC2: in service mode a translation fault is served; one that FC2 declined, or that
a strict launch meets, fails (R254, R311). -/
def State.pageLocate (s : State) (c agent : Nat) (refused : Option Nat) (need : Need) (r : Run128) : State × Try (Nat × Nat) :=
  let k := s.ctx c
  let core := if agent = agCore then k.core else none
  let va := BitVec.ofNat 64 r.addr
  if bitsN va 63 56 ≠ 0 then (s, .fail (mkCause causeAddrRange va))
  else match s.resolve core k.vf agent need va with
    | (s, .ok p) => (s, .ok p)
    | (s, .error e) =>
      if e.code ≠ causeXlateFault || s.strict c || refused = some (va.toNat / 65536) then (s, .fail e)
      else match s.serveFault c k.vf va (need ≠ .rd) with
        | (s, .declined) => (s, .fail e)
        | (s, .record _) => (s, .wait)
        | (s, .mapped) => match s.resolve core k.vf agent need va with
          | (s, .ok p) => (s, .ok p)
          | (s, .error e) => (s, .fail e)

/-- The places of runs, all of them before anything else happens; `f` says whether a pin must be waited for, at a core other than the one it
names. -/
def State.pageAll (s : State) (c agent : Nat) (refused : Option Nat) (need : Need) (f : State → Nat → Option Nat) :
    List Run128 → State × Try (List (Run128 × Nat × Nat))
  | [] => (s, .ok [])
  | r :: t =>
    match s.pageLocate c agent refused need r with
    | (s, .wait) => (s, .wait)
    | (s, .fail e) => (s, .fail e)
    | (s, .ok p) =>
      match f s p.1 with
      | some core => (s.notePin core core p.1, .wait)
      | none => if r.mem && s.channelHeld p.2 p.1 r.len (need = .wr) then (s, .wait) else match s.pageAll c agent refused need f t with
        | (s, .ok more) => (s, .ok ((r, p) :: more))
        | (s, .wait) => (s, .wait)
        | (s, .fail e) => (s, .fail e)

/-- The bytes of located runs, read by an agent of the context's core; the first uncorrectable one fails. -/
def State.loadRuns (s : State) (c : Nat) : List (Run128 × Nat × Nat) → State × Except Cause (List Byte)
  | [] => (s, .ok [])
  | (r, pa, key) :: t =>
    let (s, bs, bad) := s.agentLoad c none key pa r.len
    if bad then (s, .error (mkCause causeMemUncorr (BitVec.ofNat 64 r.addr)))
    else match s.loadRuns c t with
      | (s, .ok more) => (s, .ok (bs ++ more))
      | (s, .error e) => (s, .error e)

/-- Consecutive bytes of memory as runs. -/
def memRuns (va : Word) (n : Nat) : List Run128 :=
  runsOf ((List.range n).map fun i => { mem := true, addr := (va + BitVec.ofNat 64 i).toNat })

/-- Whether a line is pinned by a core other than the context's (R295), whose number is then the answer. -/
def pinWait (c : Nat) (s : State) (pa : Nat) : Option Nat :=
  if s.pinnedElsewhere (s.ctx c).coreNo pa then some (s.ctx c).coreNo else none

/-- Read bytes of memory for the index engine. -/
def State.ieRead (s : State) (c : Nat) (refused : Option Nat) (va : Word) (n : Nat) : State × Try (List Byte) :=
  match s.pageAll c agCore refused .rd (pinWait c) (memRuns va n) with
  | (s, .wait) => (s, .wait)
  | (s, .fail e) => (s, .fail e)
  | (s, .ok rs) => match s.loadRuns c rs with
    | (s, .ok bs) => (s, .ok bs)
    | (s, .error e) => (s, .fail e)

/-- Whether a store of a run would meet an uncorrectable sector that it does not cover whole (R145). -/
def State.badStore (s : State) (rs : List (Run128 × Nat × Nat)) : Option Cause :=
  (rs.find? fun r => isDevice r.2.1 && r.1.len < 128 && s.uncorrAt r.2.1 r.1.len).map
    fun r => mkCause causeMemUncorr (BitVec.ofNat 64 r.1.addr)

/-! ## One index (R252, R253) -/

/-- The window bytes of index `i`: scratchpad offsets. -/
def IeRun.places (r : IeRun) (i : Nat) : List Nat :=
  let n := ieRowbytes r.blk
  (List.range n).map fun j => r.win.at (i * n + j)

/-- Write window bytes of index `i`. -/
def State.ieFill (s : State) (c : Nat) (r : IeRun) (i : Nat) (bs : List Byte) : State :=
  let k := s.ctx c
  s.upCore k.coreNo fun h => h.spWrite (k.phys ((r.places i).zip bs))

/-- One element of SCATTER.ADD: the sum with its flags (R253). -/
def ieSum (efmt a b : Nat) : Nat × Word := if efmt = 0 then fAdd 0 0 false a b else ((a + b) % 2 ^ fmtWidth efmt, 0)

/-- As `pinWait`, for an atomic of SCATTER.ADD at a scope: also what its own place waits for (R294 to R296). -/
def addWait (c scope : Nat) (s : State) (pa : Nat) : Option Nat :=
  (pinWait c s pa).orElse fun _ => if s.pinWaits c scope pa then some (s.ctx c).coreNo else none

/-- The atomics of SCATTER.ADD at DIE or wider work at the home; at CORE they work in the pinned line (R294, R295). -/
def State.atomicReady (s : State) (c scope : Nat) (rs : List (Run128 × Nat × Nat)) : State :=
  rs.foldl (fun s r => (s.served (s.ctx c).coreNo (r.2.1 / 1024)).atomicPlace c scope r.2.1 r.1.len) s

/-- What serving an index came to: served from the table or not, or one element of SCATTER.ADD with more to add. -/
inductive Served
  | hit
  | miss
  | more
deriving DecidableEq, Repr

/-- One element of SCATTER.ADD (R253, R256): one read-modify-write of element `r.elem` of the table row at `va`. Before the first one the
whole row is tried, in memory and in the window, so that an index that cannot be served has no effect (R254). -/
def State.ieAdd (s : State) (c : Nat) (r : IeRun) (i n : Nat) (va : Word) : State × Try Served :=
  let size := fmtWidth (ieEfmt r.blk) / 8
  let need (s : State) (va : Word) (n : Nat) : State × Try (List (Run128 × Nat × Nat)) :=
    s.pageAll c agCore r.refused .both (addWait c r.scope) (memRuns va n)
  let first : State × Try (List (Run128 × Nat × Nat)) := if r.elem = 0 then need s va n else (s, .ok [])
  match first with
  | (s, .wait) => (s, .wait)
  | (s, .fail e) => (s, .fail e)
  | (s, .ok all) =>
    match all.find? fun q => isDevice q.2.1 && s.uncorrAt q.2.1 q.1.len with
    | some q => (s.chargeUncorr q.2.1, .fail (mkCause causeMemUncorr (BitVec.ofNat 64 q.1.addr)))
    | none => match (if r.elem = 0 then s.readBad (s.ctx c) (r.places i) else none) with
    | some e => (s, .fail e)
    | none =>
      match need s (va + BitVec.ofNat 64 (r.elem * size)) size with
      | (s, .wait) => (s, .wait)
      | (s, .fail e) => (s, .fail e)
      | (s, .ok rs) =>
        let home := rs.all fun q => s.worksHome c r.scope q.2.1
        let s := s.atomicReady c r.scope rs
        match s.loadRuns c rs with
        | (s, .error e) => (s, .fail e)
        | (s, .ok old) =>
          let row := ((r.places i).drop (r.elem * size)).take size |>.map fun o => s.spByte (s.ctx c) o
          match s.readBad (s.ctx c) (((r.places i).drop (r.elem * size)).take size) with
          | some e => (s, .fail e)
          | none =>
          let (v, f) := ieSum (ieEfmt r.blk) (leNat old) (leNat row)
          let s := (s.writeRuns c rs (natBytes v size)).upCtx c fun k => k.orVstat f
          let last := n / size ≤ r.elem + 1
          let up (r : IeRun) : IeRun := { r with applied := r.applied + 1, elem := if last then 0 else r.elem + 1 }
          let s := s.upCtx c fun k => { k with ie := k.ie.map up }
          let s := if home then s.flush (s.ctx c).coreNo fun x => rs.any fun q => overlaps x.pa x.bytes.length q.2.1 q.1.len else s
          (s, .ok (if last then .hit else .more))

/-- Serve index `i`, whose value is `x`: the state with its effects, or the status that stops the command. -/
def State.ieServe (s : State) (c : Nat) (r : IeRun) (i x : Nat) : State × Try Served :=
  let b := r.blk
  let n := ieRowbytes b
  let va := ieTable b + BitVec.ofNat 64 (x * (if ieKind b = 2 then n else iePitch b))
  if ieNrows b ≤ x then
    (if ieGather b then s.ieFill c r i (zeros n) else s, .ok .miss)
  else if ieGather b then
    match s.ieRead c r.refused va n with
    | (s, .ok bs) => (s.ieFill c r i bs, .ok .hit)
    | (s, .wait) => (s, .wait)
    | (s, .fail e) => (s, .fail e)
  else if ieKind b = 4 then s.ieAdd c r i n va
  else
    match s.pageAll c agCore r.refused .wr (pinWait c) (memRuns va n) with
    | (s, .wait) => (s, .wait)
    | (s, .fail e) => (s, .fail e)
    | (s, .ok rs) =>
      let row := (r.places i).map fun o => s.spByte (s.ctx c) o
      match s.readBad (s.ctx c) (r.places i), s.badStore rs with
      | some e, _ => (s, .fail e)
      | none, some e => (s.chargeUncorr ((rs.head?.map fun q => q.2.1).getD 0), .fail e)
      | none, none => (s.writeRuns c rs row, .ok .hit)

/-! ## Batches -/

/-- The running command of a context. -/
def State.upIe (s : State) (c : Nat) (f : IeRun → IeRun) : State := s.upCtx c fun k => { k with ie := k.ie.map f }

/-- Write bytes of the validity bitmap from byte `o` on. -/
def State.ieBitmap (s : State) (c : Nat) (r : IeRun) (o : Nat) (bs : List Byte) : State :=
  if ieVmask r.blk = 0xFFFFFFFF then s else s.spStore c (ieVmask r.blk + o) bs

/-- Subtract from the barrier's TX; none when R34 would break. -/
def State.ieTx (s : State) (c : Nat) (r : IeRun) (n : Nat) : Option State :=
  if !ieFlag r.blk 1 || n = 0 then some s
  else match s.barrier (s.ctx c) (ieBarNo r.blk) true with
    | .error _ => none
    | .ok (p, x) => (x.addTx (-(n : Int))).map fun x' => s.setBar c p x'

/-- The command has had its last effect. -/
def IeRun.finish (st : Nat) (nobar : Bool) (r : IeRun) : IeRun := { r with status := st, fin := true, nobar := nobar }

/-- The command stops at index `next` (R254): the bits from there on are 0, and TX falls by what was written and then by the
rest; a subtraction that breaks R34 is not applied and ends the command with STATUS BAR (R255). -/
def State.ieStop (s : State) (c : Nat) (r : IeRun) (st : Nat) : State :=
  let b0 := r.next / 8
  let n := cdiv (ieCount r.blk) 8
  let s := s.ieBitmap c r b0 (natBytes r.bits 1 ++ zeros (n - b0 - 1))
  let rb := ieRowbytes r.blk
  match s.ieTx c r ((r.next - b0 * 8) * rb) with
  | none => s.upIe c (IeRun.finish ieBar true)
  | some s => match s.ieTx c r ((ieCount r.blk - r.next) * rb) with
    | none => s.upIe c (IeRun.finish ieBar true)
    | some s => s.upIe c (IeRun.finish st false)

/-- The batch is complete (R252, R255): its bits, then its TX; after a failed subtraction nothing later has an effect. -/
def State.ieBatchEnd (s : State) (c : Nat) (r : IeRun) : State :=
  let b0 := (r.next - 1) / 8
  let n := cdiv (ieCount r.blk) 8
  let s := s.ieBitmap c r b0 (natBytes r.bits 1)
  match s.ieTx c r ((r.next - b0 * 8) * ieRowbytes r.blk) with
  | none => (s.ieBitmap c r (b0 + 1) (zeros (n - b0 - 1))).upIe c (IeRun.finish ieBar true)
  | some s => s.upIe c fun r =>
      { r with idx := [], bits := 0, fin := decide (ieCount r.blk ≤ r.next) }

/-- Read the indices of the current batch that are not read yet; false when the engine waits. -/
def State.ieIndices (s : State) (c : Nat) (r : IeRun) : Nat → State × Bool × IeRun
  | 0 => (s, true, r)
  | n + 1 =>
    let i := r.next / 8 * 8 + r.idx.length
    if r.halt.isSome || 8 ≤ r.idx.length || ieCount r.blk ≤ i then (s, true, r)
    else match s.ieRead c r.refused (ieIndex r.blk + BitVec.ofNat 64 (4 * i)) 4 with
      | (s, .wait) => (s, false, r)
      | (s, .fail e) => (s, true, { r with halt := some (ieStatus e) })
      | (s, .ok bs) => s.ieIndices c { r with idx := r.idx ++ [leNat bs] } n

/-- Serve the indices of the batch from `next` on; none of the last component while the engine waits. -/
def State.ieBatch (s : State) (c : Nat) : Nat → State × Bool
  | 0 => (s, true)
  | n + 1 =>
    match (s.ctx c).ie with
    | none => (s, false)
    | some r =>
      let j := r.next % 8
      match r.idx[j]? with
      | none => match r.halt with
        | some st => (s.ieStop c r st, true)
        | none => (s.ieBatchEnd c r, true)
      | some x =>
        if ieNrows r.blk ≤ x && ieFlag r.blk 0 then (s.ieStop c r ieRange, true)
        else match s.ieServe c r r.next x with
          | (s, .wait) => (s, false)
          | (s, .fail e) => (s.ieStop c r (ieStatus e), true)
          | (s, .ok .more) => (s, true)
          | (s, .ok hit) =>
            let hit := decide (hit = Served.hit)
            let s := s.upIe c fun r =>
              { r with next := r.next + 1, bits := r.bits + (if hit then 2 ^ j else 0), served := r.served + b2n hit }
            if j = 7 then
              (match (s.ctx c).ie with
              | some r => (s.ieBatchEnd c r, true)
              | none => (s, true))
            else s.ieBatch c n

/-- A command whose launch was killed stops once its batch is complete, and leaves no record (R256). -/
def State.ieLast (s : State) (c : Nat) : State :=
  s.upCtx c fun k => if k.ie.any fun r => r.last && (r.fin || r.idx = []) then { k with ie := none } else k

/-- IE_BATCH_COMPLETE (R252): one batch of indices, or as much of it as can be served before the engine waits for a page; of a SCATTER.ADD
one element, after which a kill or a reset may stop it (R256). -/
def tryIeBatch (c : Nat) (s : State) : Option State :=
  match (s.ctx c).ie with
  | none => none
  | some r =>
    if r.fin || (s.ctx c).core.isNone then none
    else
      match s.ieIndices c r 8 with
      | (s', false, r) => (s.waitOr s').map fun s => s.upIe c fun _ => r
      | (s, true, r) =>
        match (s.upIe c fun _ => r).ieBatch c (if ieKind r.blk = 4 then 1 else 8) with
        | (s', true) => some (s'.ieLast c)
        | (s', false) =>
          if (s.waitOr s').isNone && (s'.ctx c).ie = some r && (s.ctx c).ie = some r then none else some s'

def execIeBatchComplete (ctx : Nat) (s : State) : Out := .next ((tryIeBatch ctx s).getD s)

/-! ## The merge unit (R257, R258) -/

/-- A word of the scratchpad. -/
def State.spWord (s : State) (k : Ctx) (o : Nat) : Nat := leNat (s.spBytes k o 4)

/-- The status of the checks at start: 0 when the command may run. -/
def State.muCheck (s : State) (k : Ctx) (b : List Byte) : Nat :=
  let off (o : Nat) := fieldN b o 4
  let n := fieldN b 20 4
  let fl := fieldN b 17 1
  let fixed := [(24, n + 1), (36, n + 1), (56, n), (48, off 60), (52, off 60)]
  if fieldN b 16 1 ≠ 5 || fl / 2 % 2 = 1 || 32 ≤ fl || 128 ≤ fieldN b 18 1 || fieldN b 19 1 ≠ 0 || n = 0 || 65535 < n ||
      ([24, 28, 32, 36, 40, 44, 48, 52, 56].any fun o => 2 ^ 24 ≤ off o || off o % 4 ≠ 0) then ieField
  else if fixed.any fun x => (k.spPhys (off x.1) (4 * x.2)).isNone then ieAllot
  else s.cmdBar k (ieFlag b 3) (fieldN b 18 1)

/-- The entries of one row of one input, or the status of the row's failure. -/
def State.muRow (s : State) (k : Ctx) (ptr idx val r : Nat) : Except Nat (List (Nat × Nat)) :=
  let p := sInt 32 (s.spWord k (ptr + 4 * r))
  let q := sInt 32 (s.spWord k (ptr + 4 * (r + 1)))
  if p < 0 || q < p then .error ieOrder
  else
    let lo := p.toNat
    let n := (q - p).toNat
    if n ≠ 0 && ((k.spPhys (idx + 4 * lo) (4 * n)).isNone || (k.spPhys (val + 4 * lo) (4 * n)).isNone) then .error ieAllot
    else
      let es := (List.range n).map fun i => (s.spWord k (idx + 4 * (lo + i)), s.spWord k (val + 4 * (lo + i)))
      if (es.zip es.tail).any fun x => x.2.1 ≤ x.1.1 then .error ieOrder else .ok es

/-- The merged entries of a row, before zeros are dropped, with the flags of the sums. -/
def muMerge (int : Bool) : Nat → List (Nat × Nat) → List (Nat × Nat) → List (Nat × Nat × Word)
  | 0, _, _ => []
  | n + 1, a, b =>
    match a, b with
    | [], [] => []
    | (i, x) :: t, [] => (i, x, 0) :: muMerge int n t []
    | [], (j, y) :: u => (j, y, 0) :: muMerge int n [] u
    | (i, x) :: t, (j, y) :: u =>
      if i < j then (i, x, 0) :: muMerge int n t b
      else if j < i then (j, y, 0) :: muMerge int n a u
      else
        let (v, f) := ieSum (if int then 10 else 0) x y
        (i, v, f) :: muMerge int n t u

/-- Append the entries that `drop` does not drop, from number `n` on: the entries appended and whether the capacity was reached first. The
flags of a sum are raised as its column is reached (R57, R258). -/
def State.muAppend (s : State) (c cidx cval cap : Nat) (drop : Nat → Bool) : Nat → List (Nat × Nat × Word) → State × Nat × Bool
  | n, [] => (s, n, false)
  | n, (i, v, f) :: t =>
    let s := s.upCtx c fun k => k.orVstat f
    if drop v then s.muAppend c cidx cval cap drop n t
    else if cap ≤ n then (s, n, true)
    else ((s.spStore c (cidx + 4 * n) (natBytes i 4)).spStore c (cval + 4 * n) (natBytes v 4)).muAppend c cidx cval cap drop (n + 1) t

/-- The rows from `r` on, with `n` entries appended so far: the state, the entries appended, the rows completed and the status. -/
def State.muRows (s : State) (c : Nat) (b : List Byte) (r n : Nat) : Nat → State × Nat × Nat × Nat
  | 0 => (s, n, r, 0)
  | fuel + 1 =>
    let k := s.ctx c
    let off (o : Nat) := fieldN b o 4
    let int := fieldN b 17 1 / 16 % 2 = 1
    let keep := fieldN b 17 1 % 2 = 1
    match s.muRow k (off 24) (off 28) (off 32) r, s.muRow k (off 36) (off 40) (off 44) r with
    | .error e, _ => (s, n, r, e)
    | _, .error e => (s, n, r, e)
    | .ok xs, .ok ys =>
      let es := muMerge int (xs.length + ys.length) xs ys
      let drop (v : Nat) : Bool := !keep && (if int then v = 0 else v % 2 ^ 31 = 0)
      match s.muAppend c (off 48) (off 52) (off 60) drop n es with
      | (s, m, true) => (s, m, r, ieCap)
      | (s, m, false) => (s.spStore c (off 56 + 4 * r) (natBytes (m - n) 4)).muRows c b (r + 1) m fuel

/-- The directory entries of the blocks of a merge command's output arrays become GENERAL as it starts, as R344 has them after a run that
fills no more than a part of the arrays: DEDUCED (log 77). -/
def State.muClaim (s : State) (c : Nat) (b : List Byte) : State :=
  let k := s.ctx c
  let cap := 4 * fieldN b 60 4
  let blocks (o n : Nat) : List Nat := if n = 0 then [] else (List.range ((o + n - 1) / 16384 + 1 - o / 16384)).map fun i => k.baseBlk + o / 16384 + i
  let all := blocks (fieldN b 48 4) cap ++ blocks (fieldN b 52 4) cap ++ blocks (fieldN b 56 4) (4 * fieldN b 20 4)
  s.upCore k.coreNo fun h => { h with dir := all.foldl (fun d i => sset 0 d i (dirGeneral (bitN (sget (0 : Word) d i) 3))) h.dir }

/-- MERGE_ADD: the merge unit starts the oldest SQ1 entry and runs it. -/
def tryMergeAdd (c : Nat) (s : State) : Option State :=
  if (s.ctx c).run ≠ .running || !s.unitIdle c .mu then none
  else match s.sqPop c .mu 16 with
    | (_, none) => none
    | (s, some e) =>
      let st := s.muCheck (s.ctx c) e.blk
      let (s, n, rows, st') := if st = 0 then (s.muClaim c e.blk).muRows c e.blk 0 0 (fieldN e.blk 20 4) else (s, 0, 0, st)
      let r : MuRun := { seq := e.seq, blk := e.blk, count := n, rows := rows, status := st', nobar := st ≠ 0, ended := false }
      some (s.upCtx c fun k => { k with mu := some r })

def execMergeAdd (ctx : Nat) (s : State) : Out := .next ((tryMergeAdd ctx s).getD s)

/-! ## The end of a command (R255) -/

/-- The arrival on BAR; BAR when R34 would break. -/
def State.cmdArrive (s : State) (c : Nat) (uses : Bool) (n st : Nat) : State × Nat :=
  if !uses then (s, st)
  else match s.barrier (s.ctx c) n true with
    | .error _ => (s, ieBar)
    | .ok (p, b) => match b.arrive with
      | none => (s, ieBar)
      | some b' => (s.setBar c p b', st)

/-- SQ_COMMAND_END (R255): the arrival, the STATE, then the record once YQ takes it. A scatter's writes first perform at its
effective scope (R253). -/
def trySqEnd (c : Nat) (u : CmdUnit) (s : State) : Option State :=
  let k := s.ctx c
  if k.core.isNone then none
  else match u with
    | .ie => match k.ie with
      | none => none
      | some r =>
        if !r.fin then none
        else if r.ended then
          (if k.yqOpen then
            some (s.upCtx c fun k => ({ k with ie := none } : Ctx).yqPush (yqRecord 1 r.seq (r.status * 2 ^ 28 + r.served)))
          else none)
        else
          let mine (x : CStore) : Bool := x.ctx = c && x.ag = none
          let out := !ieGather r.blk && decide (1 ≤ r.scope)
          if out && (s.unackedBy c || !s.homeOpen k.coreNo mine fun _ => false) then none
          else
          let s := if out then s.flush k.coreNo mine else s
          let (s, st) := s.cmdArrive c (ieFlag r.blk 3 && !r.nobar) (ieBarNo r.blk) r.status
          let s := s.jnlMark c r.seq (if st = 0 then jDone else jFailed)
          let reply := ieFlag r.blk 2 || st ≠ 0
          some (s.upCtx c fun k => { k with ie := if reply then some { r with status := st, ended := true } else none })
    | .mu => match k.mu with
      | none => none
      | some r =>
        if r.ended then
          (if k.yqOpen then
            some (s.upCtx c fun k => ({ k with mu := none } : Ctx).yqPush (yqRecord 2 r.seq (r.status * 2 ^ 28 + r.count)))
          else none)
        else
          let (s, st) := s.cmdArrive c (ieFlag r.blk 3 && !r.nobar) (fieldN r.blk 18 1) r.status
          let s := s.jnlMark c r.seq (if st = 0 then jDone else jFailed)
          let reply := ieFlag r.blk 2 || st ≠ 0
          some (s.upCtx c fun k => { k with mu := if reply then some { r with status := st, ended := true } else none })

def execSqCommandEnd (ctx : Nat) (u : CmdUnit) (s : State) : Out := .next ((trySqEnd ctx u s).getD s)

end Sys2Proof.Machine
end

