-- ==== Sys2Proof/Machine/Collective.lean ====
section
/-! DEFINITION. The collective engines (R432 to R437): the start of an entry, its steps, the messages of the receive store, and the
end of an entry. -/

namespace Sys2Proof.Machine

/-! ## Statuses (R437) -/

def collField : Nat := 1
def collXlate : Nat := 2
def collDenied : Nat := 3
def collMemerr : Nat := 4
def collPeer : Nat := 5
def collLink : Nat := 6
def collComm : Nat := 7

def collStatus (c : Cause) : Nat :=
  if c.code = causeAccessDenied then collDenied else if c.code = causeMemUncorr then collMemerr else collXlate

/-- The communicator of a function by number (R432). -/
def State.comm? (s : State) (vf n : Nat) : Option Comm := s.comms.find? fun m => m.vf = vf && m.num = n

/-! ## Memory of a collective engine -/

/-- A collective engine is no agent of a core: only pins keep it waiting. -/
def anyPin (s : State) (pa : Nat) : Option Nat := if s.pinnedElsewhere 128 pa then some 128 else none

/-- Read bytes for an engine of die `die` (R297). -/
def State.collRead (s : State) (c die : Nat) (refused : Option Nat) (va : Word) (n : Nat) : State × Try (List Byte) :=
  match s.pageAll c agColl refused .rd anyPin (memRuns va n) with
  | (s, .wait) => (s, .wait)
  | (s, .fail e) => (s, .fail e)
  | (s, .ok rs) =>
    let k := s.ctx c
    rs.foldl (fun (a : State × Try (List Byte)) r =>
      match a with
      | (s, .ok bs) =>
        match s.dieLoad die k.vf (k.usesRdc die r.2.1) r.2.2 r.2.1 r.1.len with
        | (s, _, true) => (s, .fail (mkCause causeMemUncorr (BitVec.ofNat 64 r.1.addr)))
        | (s, more, false) => (s.served 128 (r.2.1 / 1024), .ok (bs ++ more))
      | x => x) (s, .ok [])

/-- Write bytes at their homes, from the die of the engine. -/
def State.collWrite (s : State) (c die : Nat) (refused : Option Nat) (va : Word) (bs : List Byte) : State × Try Unit :=
  match s.pageAll c agColl refused .wr anyPin (memRuns va bs.length) with
  | (s, .wait) => (s, .wait)
  | (s, .fail e) => (s, .fail e)
  | (s, .ok rs) =>
    match s.badStore rs with
    | some e => (s.chargeUncorr ((rs.head?.map fun q => q.2.1).getD 0), .fail e)
    | none =>
      let vf := (s.ctx c).vf
      let go (a : State × List Byte) (r : Run128 × Nat × Nat) : State × List Byte :=
        (((a.1.homeStore (a.1.classOf vf) r.2.2 (some die) vf r.2.1 (a.2.take r.1.len)).1).served 128 (r.2.1 / 1024), a.2.drop r.1.len)
      ((rs.foldl go (s, bs)).1, .ok ())

/-! ## Step programs (R433, R436) -/

/-- A step from its 32 bytes. -/
def collStep (b : List Byte) : CollStep :=
  { kind := fieldN b 0 1, chain := fieldN b 1 1 % 2 = 1, peer := fieldN b 2 2, tag := fieldN b 4 2, peer2 := fieldN b 6 2,
    off := fieldW b 8, len := fieldN b 16 8 }

/-- The fields of a step (R433). -/
def collStepOk (size : Nat) (b : List Byte) : Bool :=
  let t := collStep b
  1 ≤ t.kind && t.kind ≤ 5 && fieldN b 1 1 < 2 && t.peer < size && (if t.kind = 5 then t.peer2 < size && t.off = 0 else t.peer2 = 0) &&
  1 ≤ t.len && t.len ≤ 2 ^ 32 && (t.kind ≠ 3 || t.len % 8 = 0) && (t.kind ≠ 4 || t.len % 4 = 0) && zeroIn b 24 32

/-- Bytes of the local buffer that a step reads and writes. -/
def CollStep.readsAt (t : CollStep) (arg : Word) : List (Nat × Nat) :=
  if t.kind = 1 || t.kind = 3 || t.kind = 4 then [((arg + t.off).toNat, t.len)] else []
def CollStep.writesAt (t : CollStep) (arg : Word) : List (Nat × Nat) :=
  if t.kind = 2 || t.kind = 3 || t.kind = 4 then [((arg + t.off).toNat, t.len)] else []

/-- The number of the group of each step, from group `g` on: a step with CHAIN starts together with the next. -/
def collGroups (g : Nat) : List CollStep → List Nat
  | [] => []
  | t :: rest => g :: collGroups (if t.chain then g else g + 1) rest

/-- Whether two steps of one group conflict (R436). -/
def collClash (arg : Word) (ts : List CollStep) : Bool :=
  let gs := ts.zip (collGroups 0 ts)
  gs.zipIdx.any fun x => gs.zipIdx.any fun y =>
    x.2 ≠ y.2 && x.1.2 = y.1.2 &&
      (rangesMeet (x.1.1.writesAt arg) (y.1.1.writesAt arg) || rangesMeet (x.1.1.writesAt arg) (y.1.1.readsAt arg))

/-- Read and check a program for a rank of a communicator: its steps, or the status. -/
def State.collProgram (s : State) (c die : Nat) (refused : Option Nat) (e : CollEntry) (size : Nat) : State × Try (Except Nat (List CollStep)) :=
  if e.prog.toNat % 64 ≠ 0 then (s, .ok (.error collField))
  else match s.collRead c die refused e.prog 32 with
    | (s, .wait) => (s, .wait)
    | (s, .fail x) => (s, .ok (.error (collStatus x)))
    | (s, .ok h) =>
      let n := fieldN h 2 2
      if fieldN h 0 2 ≠ 1 || n = 0 || 1024 < n || !zeroIn h 4 32 then (s, .ok (.error collField))
      else match s.collRead c die refused (e.prog + 32) (32 * n) with
        | (s, .wait) => (s, .wait)
        | (s, .fail x) => (s, .ok (.error (collStatus x)))
        | (s, .ok bs) =>
          let raw := (List.range n).map fun i => (bs.drop (32 * i)).take 32
          let ts := raw.map collStep
          if !(raw.all (collStepOk size)) || collClash e.arg ts then (s, .ok (.error collField)) else (s, .ok (.ok ts))

/-- Pop the oldest entry of the collective queue through the once-only guard (R320). -/
def State.collPop (s : State) (c : Nat) : Nat → State × Option CollEntry
  | 0 => (s, none)
  | n + 1 =>
    match (s.ctx c).collq with
    | [] => (s, none)
    | e :: rest =>
      let s' := s.upCtx c fun k => { k with collq := rest }
      if (s.ctx c).jnlState e.seq = jQueued then (s'.jnlMark c e.seq jStarted, some e) else s'.collPop c n

/-- The engine reads and checks the program of an entry that it has started, and tells the peers of one that fails (R437); none while it waits
for a page without anything new. -/
def State.collLoad (s : State) (c : Nat) (r : CollRun) : Option State :=
  let k := s.ctx c
  let put (s : State) (r : CollRun) : Option State := some (s.upCtx c fun k => { k with coll := some r })
  match s.comm? k.vf r.entry.comm with
  | none => put s { r with status := collComm, fin := true }
  | some m => match s.collProgram c r.die r.refused r.entry m.ranks.length with
    | (s', .wait) => s.waitOr s'
    | (s', .fail x) => put (s'.abortPeers k.vf r.entry.comm) { r with status := collStatus x, fin := true }
    | (s', .ok (.error st)) => put (s'.abortPeers k.vf r.entry.comm) { r with status := st, fin := true }
    | (s', .ok (.ok ts)) => put s' { r with rank := m.rank, steps := ts }

/-- COLL_ENTRY_START (R259, R436): the die's engine starts the oldest entry of a running context and checks it, or goes on with the
check once a page of the program has come. -/
def tryCollEntryStart (c : Nat) (s : State) : Option State :=
  let k := s.ctx c
  match k.coll with
  | some r => if r.fin || r.steps ≠ [] || (s.vf k.vf).suspended then none else s.collLoad c r
  | none =>
    if k.run ≠ .running || (s.vf k.vf).suspended then none
    else match s.collPop c 16 with
      | (_, none) => none
      | (s, some e) =>
        let r : CollRun :=
          { seq := e.seq, entry := e, die := dieOf k.coreNo, rank := 0, steps := [], done := [], out := [], status := 0, fin := false,
            ended := false, refused := none }
        let s := s.upCtx c fun k => { k with coll := some r }
        some ((s.collLoad c r).getD s)

def execCollEntryStart (ctx : Nat) (s : State) : Out := .next ((tryCollEntryStart ctx s).getD s)

/-! ## Steps (R434 to R436) -/

/-- The steps that may run now: those of the group of the first incomplete step that are not complete. -/
def CollRun.ready (r : CollRun) : List Nat :=
  let gs := collGroups 0 r.steps
  match (List.range r.steps.length).find? fun i => !r.done.contains i with
  | none => []
  | some i => (List.range r.steps.length).filter fun j => gs[j]? = gs[i]? && !r.done.contains j

/-- Step `i`. -/
def CollRun.step (r : CollRun) (i : Nat) : CollStep :=
  r.steps.getD i { kind := 0, chain := false, peer := 0, tag := 0, peer2 := 0, off := 0, len := 0 }

/-- Change the running entry of a context. -/
def State.upColl (s : State) (c : Nat) (f : CollRun → CollRun) : State := s.upCtx c fun k => { k with coll := k.coll.map f }

/-- A step completes; the entry has finished with the last. -/
def State.collDone (s : State) (c i : Nat) : State :=
  s.upColl c fun r =>
    let d := i :: r.done
    { r with done := d, out := r.out.filter fun o => o.1 ≠ i, fin := decide (r.steps.length ≤ d.length) }

/-- The entry fails, and its peers are told (R437). -/
def State.collFail (s : State) (c st : Nat) : State :=
  let s := match (s.ctx c).coll with
    | some r => s.abortPeers (s.ctx c).vf r.entry.comm
    | none => s
  s.upColl c fun r => { r with status := st, fin := true }

/-- The die of the rank that a message is for (R432). -/
def State.msgDie (s : State) (m : CollMsg) : Nat := (((s.comm? m.vf m.comm).bind fun k => k.ranks[m.dst]?).map (·.die)).getD 0

/-- Bytes that wait in a die's receive store (R435), those of messages not yet complete among them. -/
def State.storeUsed (s : State) (die : Nat) : Nat :=
  (((s.recvStore ++ s.arriving.map (·.msg)).filter fun m => s.msgDie m = die).map fun m => m.data.length).sum

/-- Whether a receiver stands at the step that takes this message. -/
def State.awaited (s : State) (m : CollMsg) : Bool :=
  s.ctxs.any fun k => k.vf = m.vf && (match k.coll with
    | none => false
    | some r => r.entry.comm = m.comm && r.rank = m.dst && r.ready.any fun i =>
        let t := r.step i
        t.kind ≠ 1 && t.peer = m.src && t.tag = m.tag)

/-- Hand a message to a rank of this module: its store takes it, or its sender waits for credits (R435). -/
def State.deliver (s : State) (die : Nat) (m : CollMsg) : Option State :=
  if s.storeUsed die + m.data.length ≤ 8 * 2 ^ 20 || s.awaited m then some { s with recvStore := s.recvStore ++ [m] } else none

/-- Message bytes in a flit of VC3: behind the header stand the ranks, the TAG and the receiving function (log 59). -/
def messageBytes : Nat := 200

/-- A message as flits of VC3: the message (source rank, TAG), its bytes in order (R434). -/
def collFlits (dest tag : Nat) (m : CollMsg) : List Flit :=
  (List.range (cdiv m.data.length messageBytes)).map fun i =>
    vcFlit 3 (transportHead 5 0 dest m.vf m.comm (messageBytes * i) tag m.data.length ++ natBytes m.dst 2 ++ natBytes m.src 2 ++
      natBytes m.tag 2 ++ zeros 2 ++ (m.data.drop (messageBytes * i)).take messageBytes)

/-- What became of a send. -/
inductive Sent
  | wait
  | done (s : State)
  | onQuay (s : State) (tag : Nat)
  | link

/-- Send a message to a rank: to its store on this module, or as flits on a quay to another. -/
def State.sendTo (s : State) (c : Nat) (r : CollRun) (dst tag : Nat) (bs : List Byte) : Sent :=
  let vf := (s.ctx c).vf
  match s.comm? vf r.entry.comm with
  | none => .link
  | some m =>
    match m.ranks[dst]?, m.ranks[r.rank]? with
    | some d, some me =>
      let msg : CollMsg := { vf := d.vf, comm := r.entry.comm, dst := dst, src := r.rank, tag := tag, data := bs }
      if d.fabric = me.fabric then
        match s.deliver d.die msg with
        | some s => .done s
        | none => .wait
      else match s.route vf d.fabric with
        | none => if ((s.vf vf).peers.filter fun p => p.dest = d.fabric).all s.entryDown then .link else .wait
        | some q =>
          let t := s.nextReq
          let req : PeerReq := { tag := t, vf := vf, pa := 0, n := bs.length, op := 5, quay := q, dest := d.fabric, who := none, resp := none }
          .onQuay { ((collFlits d.fabric t msg).foldl (fun s f => s.putFlit q vf f) s) with reqs := s.reqs ++ [req], nextReq := t + 1 } t
    | _, _ => .link

/-- The oldest message that a receiving step takes, with its place in the store. -/
def State.message (s : State) (c : Nat) (r : CollRun) (t : CollStep) : Option (Nat × CollMsg) :=
  let vf := (s.ctx c).vf
  findIdx (fun m => decide (m.vf = vf ∧ m.comm = r.entry.comm ∧ m.dst = r.rank ∧ m.src = t.peer ∧ m.tag = t.tag)) s.recvStore 0

/-- A message leaves the store. -/
def State.dropMessage (s : State) (i : Nat) : State := { s with recvStore := s.recvStore.eraseIdx i }

/-- Element by element, `size` bytes at a time. -/
def zipElems (size : Nat) (f : Nat → Nat → Nat × Word) (a b : List Byte) : Nat → List Byte × Word
  | 0 => ([], 0)
  | n + 1 =>
    let (v, w) := f (leNat (a.take size)) (leNat (b.take size))
    let (t, w') := zipElems size f (a.drop size) (b.drop size) n
    (natBytes v size ++ t, w ||| w')

/-- What a receiving step of a kind writes, from the local bytes and the message, with its flags (R434). -/
def collCombine (kind len : Nat) (old new : List Byte) : List Byte × Word :=
  match kind with
  | 3 => zipElems 8 (fun a b => ((xAdd (BitVec.ofNat 64 a) (BitVec.ofNat 64 b)).toNat, 0)) old new (len / 8)
  | 4 => zipElems 4 (fun a b => fAdd 0 0 false a b) old new (len / 4)
  | _ => (new, 0)

/-- One step of a kind, the first that can move (R434). -/
def tryCollStep (kind c : Nat) (s : State) : Option State :=
  match (s.ctx c).coll with
  | none => none
  | some r =>
    if r.fin || (s.vf (s.ctx c).vf).suspended then none
    else (r.ready.filter fun i => (r.step i).kind = kind).findSome? fun i =>
      let t := r.step i
      let va := r.entry.arg + t.off
      let send (s : State) (dst : Nat) (bs : List Byte) : Option State :=
        match s.sendTo c r dst t.tag bs with
        | .wait => none
        | .link => some (s.collFail c collLink)
        | .done s => some (s.collDone c i)
        | .onQuay s q => some (s.upColl c fun r => { r with out := r.out ++ [(i, q)] })
      let gone (p : Nat) : Bool := s.aborted.contains ((s.ctx c).vf, r.entry.comm, p)
      match r.out.find? fun o => o.1 = i with
      | some o => match (s.reqs.find? fun x => x.tag = o.2).bind (·.resp) with
        | some (bad, _) =>
          let s : State := { s with reqs := s.reqs.filter fun x => x.tag ≠ o.2 }
          some (if bad then s.collFail c collLink else s.collDone c i)
        | none => if gone (if kind = 1 then t.peer else t.peer2) then some (s.collFail c collPeer) else none
      | none =>
        if (kind = 1 && gone t.peer) || (kind = 5 && gone t.peer2) then some (s.collFail c collPeer)
        else if kind = 1 then
          match s.collRead c r.die r.refused va t.len with
          | (s', .wait) => s.waitOr s'
          | (s', .fail e) => some (s'.collFail c (collStatus e))
          | (s', .ok bs) => send s' t.peer bs
        else match s.message c r t with
          | none => if gone t.peer then some (s.collFail c collPeer) else none
          | some (j, m) =>
            if m.data.length ≠ t.len then some ((s.dropMessage j).collFail c collField)
            else if kind = 5 then (send s t.peer2 m.data).map fun s => s.dropMessage j
            else
              let (s1, old) := if kind = 2 then (s, Try.ok []) else s.collRead c r.die r.refused va t.len
              match old with
              | .wait => s.waitOr s1
              | .fail e => some ((s1.dropMessage j).collFail c (collStatus e))
              | .ok old =>
                let (bs, f) := collCombine kind t.len old m.data
                match s1.collWrite c r.die r.refused va bs with
                | (s2, .wait) => s.waitOr s2
                | (s2, .fail e) => some ((s2.dropMessage j).collFail c (collStatus e))
                | (s2, .ok _) => some (((s2.dropMessage j).upCtx c fun k => k.orVstat f).collDone c i)

def execSend (ctx : Nat) (s : State) : Out := .next ((tryCollStep 1 ctx s).getD s)
def execRecv (ctx : Nat) (s : State) : Out := .next ((tryCollStep 2 ctx s).getD s)
def execRecvXadd (ctx : Nat) (s : State) : Out := .next ((tryCollStep 3 ctx s).getD s)
def execRecvFadd (ctx : Nat) (s : State) : Out := .next ((tryCollStep 4 ctx s).getD s)
def execFwd (ctx : Nat) (s : State) : Out := .next ((tryCollStep 5 ctx s).getD s)

/-- COLL_MESSAGE_ARRIVE (R435): a message from another module reaches a die, if it names a rank there; while the store is full its sender
stalls, and it comes again in the next cycle. -/
def execCollMessageArrive (die : Nat) (m : CollMsg) (s : State) : Out :=
  match (s.comm? m.vf m.comm).bind fun k => k.ranks[m.dst]? with
  | none => .next s
  | some r =>
    if r.die = die && r.vf = m.vf then .next ((s.deliver die m).getD { s with deferred := s.deferred ++ [.collMessageArrive die m] })
    else .next s

/-! ## The end of an entry (R437) -/

/-- COLL_ENTRY_END: every local write has performed, those to peer space too; the STATE, then the record once the context is resident and YQ takes it; aborts that peers sent for this entry
are spent. -/
def tryCollEntryEnd (c : Nat) (s : State) : Option State :=
  let k := s.ctx c
  match k.coll with
  | none => none
  | some r =>
    if !r.fin || (s.vf k.vf).suspended || s.unacked (fun x => x.vf = k.vf && x.who.isNone) then none
    else if r.ended then
      (if k.core.isSome && k.yqOpen then
        some (s.upCtx c fun k => ({ k with coll := none } : Ctx).yqPush (yqRecord 3 r.seq (r.status * 2 ^ 28 + r.done.length)))
      else none)
    else
      let s := { s with aborted := s.aborted.filter fun a => !(a.1 = k.vf && a.2.1 = r.entry.comm) }
      let s := s.jnlMark c r.seq (if r.status = 0 then jDone else jFailed)
      let reply := r.entry.reply || r.status ≠ 0
      some (s.upCtx c fun k => { k with coll := if reply then some { r with ended := true } else none })

def execCollEntryEnd (ctx : Nat) (s : State) : Out := .next ((tryCollEntryEnd ctx s).getD s)

end Sys2Proof.Machine
end

