-- ==== Sys2Proof/Machine/Micro.lean ====
section
/-! DEFINITION. The writable control store and tenant opcodes (R261 to R285): micro-words and their checks, one step of a routine, the
U-format word that runs it, and the loader of tenant images. Base routines are run as the engine instructions they implement. -/

namespace Sys2Proof.Machine

/-! ## The checks of a micro-word (R268) -/

/-- Whether the word holds SPIN or SPOUT. -/
def MWord.spio (m : MWord) : Bool := m.aop = 3 || m.aop = 4

/-- The fields of the sequencing slot (R269). -/
def MWord.seqOk (m : MWord) : Bool :=
  match m.seqOp with
  | 0 => !m.cneg && m.csel = 0 && m.tgt = 0 && m.mlc = 0
  | 1 => m.csel ≤ 5 && m.mlc = 0 && !(m.cneg && m.csel = 0)
  | 2 => !m.cneg && m.csel = 0
  | 3 => !m.cneg && m.csel = 0 && m.tgt = 0 && m.mlc = 0
  | _ => false

/-- The fields of the temporary slot (R270). -/
def MWord.topOk (m : MWord) : Bool :=
  match m.top with
  | 0 => m.td = 0 && m.ta = 0 && m.tb = 0 && !m.immsel && m.imm = 0
  | 8 => m.tb = 0 && !m.immsel && m.imm = 0
  | 9 => m.immsel && m.ta = 0 && m.tb = 0
  | 10 => !m.immsel && m.ta = 0 && m.tb = 0 && m.imm < 2 ^ 12 && 1 ≤ m.imm / 64 && m.imm % 64 + m.imm / 64 ≤ 40
  | 11 => !m.immsel && m.td < 2 && m.tb = 0 && m.imm = 0
  | 12 => !m.immsel && m.ta = 0 && m.tb = 0 && m.imm < 32
  | 13 => !m.immsel && m.td = 0 && m.tb = 0 && m.imm < 32
  | n => n ≤ 7 && (!m.immsel || m.tb = 0)

/-- The fields of the port, generator and scratchpad slots (R273 to R275). -/
def MWord.portsOk (m : MWord) : Bool :=
  (if m.mop = 0 then m.mt = 0 && m.mx = 0 else if m.mop = 2 then m.mx < 3 else m.mop ≤ 5 && m.mx = 0) &&
  (if m.aop = 0 then m.ag = 0 && m.av = 0 && m.at' = 0 else m.aop ≤ 5 && (m.aop ≤ 2 || m.ag < 4)) &&
  (if m.sop = 0 then m.sr = 0 && m.sa = 0 && m.sn = 0 else m.sop ≤ 4 && (m.sop ≤ 2 || (m.sr < 8 && m.sn = 0))) && !m.bit48

/-- The fields of a lane operation, from the word or from mt7 (R272). -/
structure Lane where
  ld : Nat
  la : Nat
  lb : Nat
  lf : Nat
  lrm : Nat
  mken : Bool
  mm : Nat
deriving DecidableEq, Repr

/-- The lane fields in force; none when a field that must be 0 is not. -/
def MWord.lane (m : MWord) (mt7 : Word) : Option Lane :=
  if m.lop = 0 then none
  else if m.lind then
    if m.ld ≠ 0 || m.la ≠ 0 || m.lb ≠ 0 || m.lrm ≠ 0 || m.lmk ≠ 0 || (m.lf ≠ 0 && !m.spio) || bitN mt7 0 || bitsN mt7 63 26 ≠ 0 then none
    else
      some { ld := bitsN mt7 25 21, la := bitsN mt7 20 16, lb := bitsN mt7 15 11, lf := bitsN mt7 10 7, lrm := bitsN mt7 6 5,
             mken := bitN mt7 4, mm := bitsN mt7 3 1 }
  else some { ld := m.ld, la := m.la, lb := m.lb, lf := m.lf, lrm := m.lrm, mken := decide (8 ≤ m.lmk), mm := m.lmk % 8 }

/-- No queue and no stamp. -/
def syncNone : Sync := { w0 := 0, w1 := 0, w2 := 0, pq := 0, stamp := 0 }

/-- The common layout of a lane operation; VRED takes its OP from the code. -/
def Lane.op (l : Lane) (vb : Nat) : VOp :=
  { vd := BitVec.ofNat 5 l.ld, va := BitVec.ofNat 5 l.la, vb := BitVec.ofNat 5 vb, vf := BitVec.ofNat 4 l.lf, md := BitVec.ofNat 2 l.lrm,
    mken := l.mken, mm := BitVec.ofNat 3 l.mm }

/-- The instruction that a lane code names (R272). -/
def laneInstr (lop : Nat) (l : Lane) : Option Instr :=
  let o := l.op l.lb
  match lop with
  | 1 => some (.vadd syncNone o)
  | 2 => some (.vsub syncNone o)
  | 3 => some (.vmul syncNone o)
  | 4 => some (.vfma syncNone o)
  | 5 => some (.vmin syncNone o)
  | 6 => some (.vmax syncNone o)
  | 7 => some (.vmov syncNone o)
  | 8 => some (.vbcast syncNone o)
  | 9 => some (.vred syncNone (l.op 8))
  | 10 => some (.vred syncNone (l.op 0))
  | 11 => some (.vexp2 syncNone o)
  | 12 => some (.vrcp syncNone o)
  | 13 => some (.vcvt syncNone false (BitVec.ofNat 6 l.ld) (BitVec.ofNat 5 l.la) (BitVec.ofNat 4 l.lb) (BitVec.ofNat 4 l.lf)
      (BitVec.ofNat 2 l.lrm) 0 false)
  | _ => none

/-- Whether the lane fields are ones that the named instruction accepts (R272). -/
def laneOk (lop : Nat) (l : Lane) : Bool :=
  match lop with
  | 14 => l.ld < 8 && l.lb < 8 && l.lrm = 0 && !l.mken && l.mm = 0
  | n =>
    (n ≠ 8 || (l.la < 8 && l.lb = 0)) && (!(9 ≤ n && n ≤ 12) || l.lb = 0) && (n ≠ 12 || l.lrm = 0) &&
      (n ≠ 13 || (l.lb < 16 && !l.mken && l.mm = 0)) && (match laneInstr n l with
        | some i => instrOf (wordOf i) = some i
        | none => false)

/-- Temporaries, vector registers and loop counters that the operations of a word write (R271). -/
def MWord.writes (m : MWord) (l : Option Lane) : List (Nat × Nat) :=
  (if m.seqOp = 2 then [(2, m.mlc)] else []) ++ (if m.top = 11 then [(2, m.td % 2)] else []) ++
  (if (1 ≤ m.top && m.top ≤ 10) || m.top = 12 then [(0, m.td)] else []) ++
  (match l with
    | some x => if m.lop = 14 then [(0, x.ld % 8)] else [(1, x.ld)]
    | none => []) ++
  (if m.mop = 1 || m.mop = 2 then [(0, m.mt)] else []) ++ (if m.aop = 1 || m.aop = 5 then [(0, m.at')] else []) ++
  (if m.aop = 3 then [(1, m.av)] else []) ++ (if m.sop = 1 then [(1, m.sr)] else []) ++ (if m.sop = 3 then [(0, m.sr % 8)] else [])

/-- Whether a word is reserved (R268, R271, R272): a field, a code, or two operations that write one thing. -/
def MWord.ok (m : MWord) (mt7 : Word) : Bool :=
  let l := m.lane mt7
  m.seqOk && m.topOk && m.portsOk &&
  (if m.lop = 0 then m.ld = 0 && m.la = 0 && m.lb = 0 && m.lrm = 0 && m.lmk = 0 && !m.lind && (m.lf = 0 || m.spio)
   else match l with
    | some x => m.lop ≤ 14 && laneOk m.lop x
    | none => false) &&
  (!m.spio || isVecFmt m.lf) && decide (m.writes l).Nodup

/-- The checks of R276: RESMASK bits and the issuing stream. -/
def MWord.confined (m : MWord) (binding : Word) (st : Stream) : Bool :=
  let bit (n : Nat) : Bool := bitN binding n
  let c := decide (st = .c)
  (m.lop = 0 || (bit 32 && c)) &&
  (match m.mop with
    | 0 => true
    | 1 => bit 33 && c
    | _ => bit 33 && bit 37 && c) &&
  (match m.aop with
    | 0 => true
    | 1 => bit 34
    | 2 => bit 34
    | 5 => bit 35
    | _ => bit 35 && c) &&
  (match m.sop with
    | 0 => true
    | 1 => bit 36 && c
    | 2 => bit 36 && c
    | _ => bit 36)

/-! ## What a step does -/

/-- What a slot adds to a step: the state with what takes effect at once, the routine's record, what lands with the step, how long it
takes, and an instruction that works on after the step (a store to a port). -/
structure Part where
  s : State
  m : Micro
  effs : List Effect
  vw : List Nat
  lat : Nat
  extra : List Inflight

/-- The outcome of a slot or of a step; a fault that a port's poison raised names the port, which fetches again (R243). -/
inductive MStep (α : Type)
  | ok (a : α)
  | wait
  | trap (c : Cause) (port : Option Nat)

/-- A cause of the control store with the MPC (R467). -/
def ucCause (code : Nat) (m : Micro) : Cause := mkCause code (BitVec.ofNat 64 m.mpc)

/-- The temporary slot (R270). `q` is the stream's sequencer and `arg` the word's ARG. -/
def MWord.runTop (w : MWord) (m0 : Micro) (st : Stream) (q : Seq) (arg : Nat) (p : Part) : Part :=
  match w.top with
  | 12 => { p with m := p.m.setT w.td (q.rx (BitVec.ofNat 5 w.imm)) }
  | 13 => { p with effs := p.effs ++ [.xreg st (BitVec.ofNat 5 w.imm) (m0.t w.ta)] }
  | _ => { p with m := w.tempOp m0 arg p.m }

/-- A record in flight for an operation of the step. -/
def opRecord (i : Instr) (u : EUnit) (pc word : Word) (ord now : Nat) (fw : Option FqEntry) : Inflight :=
  Inflight.base { ord := ord, instr := i, pc := pc, word := word, mid := none, fword := fw, taken := true } u 0 now fw

/-- Run an engine instruction as part of a step: its effects land with the step. -/
def Part.engine (p : Part) (c : Nat) (i : Instr) (op : EngOp) (now : Nat) : MStep Part :=
  match op.start p.s c (opRecord i op.unit 0 0 0 now none) with
  | .error e => .trap e none
  | .ok (s, _, f) => .ok { p with s := s, effs := p.effs ++ f.effs, vw := p.vw ++ f.vw, lat := max p.lat (f.due - now) }

/-- The lane slot (R272). -/
def MWord.runLane (w : MWord) (m0 : Micro) (c : Nat) (now : Nat) (p : Part) : MStep Part :=
  match w.lane (m0.t 7) with
  | none => .ok p
  | some l =>
    let k := p.s.ctx c
    if w.lop = 14 then
      let size := vecSize l.lf
      let i := (m0.t (l.lb % 8)).toNat
      if !isVecFmt l.lf || esizeOf l.lf ≠ k.esize then .trap (mkCause causeVecFormat 0) none
      else if k.velems ≤ i then .trap (mkCause causeVecRange (BitVec.ofNat 64 i)) none
      else .ok { p with m := p.m.setT (l.ld % 8) (BitVec.ofNat 64 (k.velem l.la size i)), lat := max p.lat (2 + k.ov size) }
    else
      match laneInstr w.lop l with
      | none => .ok p
      | some (.vbcast y o) =>
        let v := (m0.t (l.la % 8)).toNat % 2 ^ fmtWidth l.lf
        p.engine c (.vbcast y o) (opElem .vector y o 2 1 fun _ _ _ _ => (v, 0)) now
      | some i => match engineOp i with
        | some op => p.engine c i op now
        | none => .ok p

/-- The instruction that MBIND binds from an OPS layout and a form (R273). -/
def boundInstr (form : Nat) (ops : BitVec 26) : Option Instr := instrOf (BitVec.ofNat 64 ((0x60 + form) * 2 ^ 56 + ops.toNat))

/-- The windows of a bound product, as its binding samples them (R235). -/
def boundWins (k : Ctx) : Instr → List (BitVec 64 × BitVec 64)
  | .mma _ aw bw _ _ => [aw, bw].map fun n => let w := k.winN n.toNat; (w.w0, w.w1)
  | .mmaC _ bw _ _ _ => let w := k.winN bw.toNat; [(w.w0, w.w1)]
  | .mmaS _ aw _ _ _ => let w := k.winN aw.toNat; [(w.w0, w.w1)]
  | _ => []

/-- A window that a binding sampled. -/
def Micro.win (m : Micro) (n : Nat) : Win :=
  match m.wins[n]? with
  | some w => { valid := true, w0 := w.1, w1 := w.2 }
  | none => Win.undef

/-- The operands of slab `j` of a bound product, with its S: the values of A and B, and the state with what a port gave up. -/
def State.microSlab (s : State) (c : Nat) (m : Micro) (i : Instr) (fw : Fw) (j : Nat) : MStep (State × List (List Num) × List (List Num) × Nat) :=
  let k := s.ctx c
  let rd := s.spByte k
  let n := min 32 (fw.klen - 32 * j)
  match i with
  | .mma _ _ _ _ koff =>
    let a := m.win 0
    let b := m.win 1
    let k0 := koff.toNat * 32
    let rows (w : Win) := (List.range w.rows).map fun r => w.rowValues rd r (k0 + 32 * j) n
    .ok (s, rows a, rows b, cdiv n (max 1 (min (a.kstepAt rd a.rows k0 j) (b.kstepAt rd b.rows k0 j))))
  | .mmaC _ _ asrc _ mm1 =>
    let b := m.win 0
    match convertRows (s.tile k (k.abase + asrc.toNat)) (mm1.toNat + 1) fw.klen fw.dfmt fw.unit fw.dpol with
    | none => .trap (mkCause causeCvtOverflow 0) none
    | some (A, _) =>
      .ok (s, A.map fun r => (r.drop (32 * j)).take n, (List.range b.rows).map fun r => b.rowValues rd r (32 * j) n,
        cdiv n (max 1 (min (kstep { fmt := fw.dfmt, scale := 127, zero := false, bad := false }) (b.kstepAt rd b.rows 0 j))))
  | .mmaS _ _ sp nm1 _ =>
    let a := m.win 0
    let N := nm1.toNat + 1
    match k.portRead sp.toNat (32 * N) fun _ => true with
    | .wait => .wait
    | .fault e => .trap e (some sp.toNat)
    | .some' es =>
      let B := (List.range N).map fun r => ((es.drop (32 * r)).take 32).map fun e => elemValue e.1 e.2
      let kb := es.foldl (fun m e => min m (kstep e.1)) 16
      .ok (s.upCtx c fun k => { k with sp := vmod k.sp sp.toNat fun p => p.drop (32 * N) },
        (List.range a.rows).map fun r => a.rowValues rd r (32 * j) 32, B, cdiv 32 (max 1 (min kb (a.kstepAt rd a.rows 0 j))))
  | _ => .trap (mkCause causeMmaShape 0) none

/-- The scratchpad offsets that slab `j` of a bound product reads. -/
def boundReads (m : Micro) (fw : Fw) (j : Nat) : Instr → List Nat
  | .mma _ _ _ _ koff =>
    let part (w : Win) : List Nat := w.touch 0 w.rows (koff.toNat * 32 + 32 * j) (min 32 (fw.klen - 32 * j))
    part (m.win 0) ++ part (m.win 1)
  | .mmaC _ _ _ _ _ => let b := m.win 0; b.touch 0 b.rows (32 * j) (min 32 (fw.klen - 32 * j))
  | .mmaS _ _ _ _ _ => let a := m.win 0; a.touch 0 a.rows (32 * j) 32
  | _ => []

/-- The tile that a bound product writes, as a logical number. -/
def boundTile : Instr → Nat
  | .mma _ _ _ acc _ => acc.toNat
  | .mmaS _ _ _ _ acc => acc.toNat
  | .mmaC _ _ _ acc _ => acc.toNat
  | _ => 0

/-- Flags of the conversion of A that a bound MMA.C made. -/
def boundFlags (s : State) (k : Ctx) (fw : Fw) : Instr → List Effect
  | .mmaC _ _ asrc _ mm1 =>
    match convertRows (s.tile k (k.abase + asrc.toNat)) (mm1.toNat + 1) fw.klen fw.dfmt fw.unit fw.dpol with
    | some (_, f) => [.flags f]
    | none => []
  | _ => []

/-- What the directory proves of a bound product (R199, R273), as `Micro.elide` keeps it; of MMA.S, that A is all ZERO. -/
def State.sampleElide (s : State) (k : Ctx) (m : Micro) (i : Instr) (fw : Fw) : Nat :=
  let code (e : Elide) : Nat := match e with
    | .no => 0
    | .zero => 1
    | .ident => 2
    | .const => 3
  match i with
  | .mma _ _ _ _ koff => code (elideMma s k (m.win 0) (m.win 1) fw.klen (koff.toNat * 32) fw.anchor.toInt)
  | .mmaC _ _ asrc _ _ => code (elideMmaC s k (m.win 0) (k.abase + asrc.toNat) fw.klen)
  | .mmaS _ _ _ _ _ => let a := m.win 0; if (s.screen k a a.rows 0 fw.klen).allZero then 1 else 0
  | _ => 0

/-- Whether slab `j` of a bound product is elided under a sample (R199): of MMA.S, where the data that the port delivers pass the screen. -/
def elidesSlab (k : Ctx) (sample : Nat) : Instr → Bool
  | .mmaS _ _ sp nm1 _ => sample = 1 && (k.port sp.toNat).screened (32 * (nm1.toNat + 1))
  | _ => sample ≠ 0

/-- The matrix-engine port slot (R273). -/
def MWord.runMop (w : MWord) (m0 : Micro) (c : Nat) (q : Seq) (now : Nat) (p : Part) : MStep Part :=
  let bad : MStep Part := .trap (ucCause causeUcReserved m0) none
  let k := p.s.ctx c
  let fw := fwOf ((m0.mword.map (·.1)).getD 0)
  let bound := if m0.bound then boundInstr m0.form m0.mops else none
  match w.mop with
  | 0 => .ok p
  | 1 => match p.s.fqPop c 64 with
    | (_, none) => .trap (mkCause causeFqUnderflow 0) none
    | (s, some e) =>
      let s := s.fqDone c (m0.mword.map fun x => { word := x.1, seq := x.2 }) true
      .ok { p with s := s, m := { (p.m.setT w.mt e.word) with mword := some (e.word, e.seq) } }
  | 2 =>
    let ops := (m0.t w.mt).extractLsb' 0 26
    match m0.bound, m0.mword, boundInstr w.mx ops with
    | false, some (x, seq), some i => match engineOp i with
      | none => bad
      | some op => match op.start p.s c (opRecord i .matrix 0 0 0 now (some { word := x, seq := seq })) with
        | .error e => .trap e none
        | .ok _ =>
          let s := p.s.upTile k.coreNo (k.abase + boundTile i) fun t => { t with wmHold := true }
          let m := { (p.m.setT w.mt (BitVec.ofNat 64 (cdiv fw.klen 32))) with
            bound := true, form := w.mx, mops := ops, slabs := 0, full := false, wins := boundWins k i }
          .ok { p with
            s := s, m := { m with elide := some (p.s.sampleElide k m i fw) }
            lat := max p.lat 16 }
    | _, _, _ => bad
  | 3 => match bound with
    | none => bad
    | some i =>
      let s := p.s.upTile k.coreNo (k.abase + boundTile i) fun t => if fw.accum then t else t.resetTo fw.anchor
      .ok { p with s := s, lat := max p.lat 4 }
  | 4 => match bound with
    | none => bad
    | some i =>
      let j := (m0.t w.mt).toNat
      if j ≠ m0.slabs || cdiv fw.klen 32 ≤ j then .trap (mkCause causeMmaShape 0) none
      else match p.s.readBad k (boundReads m0 fw j i) with
        | some e => .trap e none
        | none => match p.s.microSlab c m0 i fw j with
        | .wait => .wait
        | .trap e o => .trap e o
        | .ok (s, A, B, cyc) =>
          let sample := m0.elide.getD (p.s.sampleElide k m0 i fw)
          let elided := elidesSlab k sample i
          let s := s.upTile k.coreNo (k.abase + boundTile i) fun t => t.product A B
          let s := if elided then s.upCtx c fun k => k.addTdstat (A.length * B.length * min 32 (fw.klen - 32 * j)) else s
          .ok { p with
            s := s, lat := max p.lat cyc
            m := { p.m with slabs := j + 1, elide := some sample, full := m0.full || !elided || sample ≠ 1 } }
  | _ => match bound with
    | none => bad
    | some i =>
      if m0.slabs ≠ cdiv fw.klen 32 then .trap (mkCause causeMmaShape 0) none
      else
        let t := k.abase + boundTile i
        let s := p.s.upTile k.coreNo t fun t => { t with wmHold := false }
        let f := opRecord i .matrix q.pc 0 0 now none
        let f : Inflight :=
          { f with tile := some t, rows := 128, rowCount := 128, rowBase := now + 32, due := now + 32,
                   effs := .tileEntry t (if m0.full then some false else none) :: boundFlags p.s k fw i }
        .ok { p with s := s.enterClass c f.effs, m := { p.m with bound := false }, lat := max p.lat 32, extra := p.extra ++ [f] }

/-- The generator and port slot (R274): `k` is the context as it stood before the step (R266). -/
def MWord.runAop (w : MWord) (m0 : Micro) (c : Nat) (k : Ctx) (q : Seq) (now : Nat) (p : Part) : MStep Part :=
  let g := k.agN w.ag
  let genE : Except Cause Unit := do
    need g.programmed (agentCause causeUndefAgent 6 w.ag)
    need (!k.agTaken w.ag none) (agentCause causeAgBusy 6 w.ag)
  let move (n : Nat) : State := p.s.upCtx c fun k => { k with ag := vmod k.ag w.ag fun x => { x with pos := n } }
  match w.aop with
  | 0 => .ok p
  | 1 => match genE with
    | .error e => .trap e none
    | .ok _ =>
      if g.prog.total ≤ g.pos then .trap (agentCause causePortEnd 6 w.ag) none
      else .ok { p with s := move (g.pos + 1), m := p.m.setT w.at' (g.prog.addr g.pos) }
  | 2 => match genE with
    | .error e => .trap e none
    | .ok _ => .ok { p with s := move 0 }
  | 3 =>
    let i := w.ag % 4
    let pt := k.port i
    let f := w.lf
    if esizeOf f ≠ k.esize then .trap (mkCause causeVecFormat 0) none
    else if pt.dir ≠ 1 then .trap (agentCause causeUndefAgent 5 i) none
    else match pairing f pt.fmt pt.layout with
      | none => .trap (badPort i) none
      | some pr =>
        let n := k.velems
        match k.portRead i n fun _ => true with
        | .wait => .wait
        | .fault e => .trap e (some i)
        | .some' es =>
          let out := es.zipIdx.map fun e => (e.2, pr.elem f e.1.1 e.1.2)
          let s := p.s.upCtx c fun k => { k with sp := vmod k.sp i fun x => x.drop n }
          .ok { p with s := s, effs := p.effs ++ elemEffects w.av (vecSize f) out, vw := p.vw ++ [w.av], lat := max p.lat (12 + k.ov (vecSize f)) }
  | 4 =>
    let i := w.ag % 4
    let instr : Instr := .vst syncNone (BitVec.ofNat 5 w.av) true (BitVec.ofNat 6 i) 0 (BitVec.ofNat 4 w.lf) false 0
    match engineOp instr with
    | none => .ok p
    | some op => match op.start p.s c (opRecord instr .vector q.pc (wordOf instr) 0 now none) with
      | .error e => .trap e none
      | .ok (s, _, f) =>
        if k.portSpace i < f.bytes.length then .trap (agentCause causePortEnd 5 i) none
        else .ok { p with s := s, lat := max p.lat (f.due - now), extra := p.extra ++ [f] }
  | _ =>
    let pt := k.port (w.ag % 4)
    if pt.dir = 0 then .trap (agentCause causeUndefAgent 5 (w.ag % 4)) none
    else
      let n := if pt.dir = 1 then pt.avail else (16384 - pt.outQ.length) / max (fmtWidth pt.fmt / 8) 1
      .ok { p with m := p.m.setT w.at' (BitVec.ofNat 64 n) }

/-- The scratchpad slot (R275). -/
def MWord.runSop (w : MWord) (m0 : Micro) (c : Nat) (p : Part) : MStep Part :=
  if w.sop = 0 then .ok p
  else
    let k := p.s.ctx c
    let o := (m0.t w.sa).toNat
    let wide := w.sop ≤ 2
    let n := if wide then 256 * (w.sn + 1) else 8
    if 2 ^ 24 ≤ o then .trap (mkCause causeAllotRange (kindAddr 1 o)) none
    else if o % (if wide then 128 else 8) ≠ 0 then .trap (mkCause causeMisaligned (BitVec.ofNat 64 o)) none
    else match k.spPhys o n with
      | none => .trap (mkCause causeAllotRange (kindAddr 1 o)) none
      | some a =>
        let lat := max p.lat (4 + if wide then cdiv (n / 128) 32 else 0)
        let os := if w.sop % 2 = 1 then (List.range n).map (o + ·) else []
        match p.s.readBad k os with
        | some e => .trap e none
        | none => match w.sop with
        | 1 => .ok { p with effs := p.effs ++ [.vbytes w.sr (keyed 0 (p.s.spBytes k o n))], vw := p.vw ++ [w.sr], lat := lat }
        | 2 => .ok { p with effs := p.effs ++ [.sp (keyed a (sbytes k.v (vkey w.sr 0) n))], lat := lat }
        | 3 => .ok { p with m := p.m.setT (w.sr % 8) (BitVec.ofNat 64 (leNat (p.s.spBytes k o 8))), lat := lat }
        | _ => .ok { p with effs := p.effs ++ [.sp (keyed a (natBytes (m0.t (w.sr % 8)).toNat 8))], lat := lat }

/-- The banks of a core. -/
def Core.banks (h : Core) : List Bank := [h.bank0, h.bank1]

/-- The bank that holds a context's image (R262), if one does, loaded or still loading. -/
def State.bankOf (s : State) (k : Ctx) : Option Bank :=
  match k.image with
  | none => none
  | some m => (s.core k.coreNo).banks.find? fun b => b.digest = m.digest && b.need ≠ 0

/-- A step as R266 orders it: MPC and STEPBOUND, fields, confinement, the checks of the operations, then all its writes. -/
def State.microStep (s : State) (c : Nat) (st : Stream) (arg : Nat) : MStep State :=
  let k := s.ctx c
  let q := k.seq st
  let m := q.micro
  let words := ((s.bankOf k).map (·.words)).getD []
  match words[m.mpc]? with
  | none => .trap (ucCause causeUcRange m) none
  | some raw =>
    let w := mwordOf raw
    let x := BitVec.ofNat 5 w.imm
    if bitsN m.binding 55 40 ≤ m.steps then .trap (ucCause causeUcStepbound m) none
    else if !w.ok (m.t 7) then .trap (ucCause causeUcReserved m) none
    else if !w.confined m.binding st then .trap (ucCause causeUcConfine m) none
    else if (w.top = 12 || w.top = 13) && (owed q x || engineBusy k st [x] [x]) then .wait
    else match (if w.top = 12 then markOf q [x] else none) with
      | some e => .trap (mkCause causeMemUncorr e.addr) none
      | none =>
        let p : Part := { s := s, m := m, effs := [], vw := [], lat := 1, extra := [] }
        match w.runLane m c s.tide (w.runTop m st q arg p) with
        | .wait => .wait
        | .trap e o => .trap e o
        | .ok p => match w.runSop m c p with
          | .wait => .wait
          | .trap e o => .trap e o
          | .ok p => match w.runMop m c q s.tide p with
            | .wait => .wait
            | .trap e o => .trap e o
            | .ok p => match w.runAop m c k q s.tide p with
              | .wait => .wait
              | .trap e o => .trap e o
              | .ok p =>
                let due := s.tide + p.lat
                let step : Inflight :=
                  { opRecord (.nop { boost := 0, gn := false, gp := 0 }) .vector q.pc 0 0 s.tide none with
                    st := st, due := due, effs := p.effs, vw := if st = .c then p.vw else [] }
                let recs := (if p.effs = [] then [] else [step]) ++ p.extra
                let recs := recs.zipIdx.map fun f => { f.1 with st := st, ord := q.ord + 1 + f.2 }
                let m' : Micro := { w.runSeqOp m p.m with due := due }
                .ok (p.s.upCtx c fun k =>
                  ({ k with flight := k.flight ++ recs } : Ctx).upSeq st fun q => { q with ord := q.ord + recs.length, micro := m' })

/-! ## The U-format word (R265) -/

/-- Whether the earlier instructions of a stream that use the classes of RESMASK have completed. -/
def Ctx.classesDone (k : Ctx) (st : Stream) (binding : Word) : Bool :=
  let q := k.seq st
  let bit (n : Nat) : Bool := bitN binding n
  let mine := k.copies.filter fun y => y.st = st
  let clear (u : EUnit) : Bool := k.eq u = [] && k.flight.all fun f => f.unit ≠ u
  (st ≠ .c || ((!(bit 32 || bit 35 || bit 36) || (clear .vector && clear .sfu)) &&
    (!(bit 33 || bit 35 || bit 36 || bit 37) || clear .matrix))) &&
  (!bit 34 || mine.all fun y => y.nd.isNone) &&
  (!bit 36 || (mine = [] && (q.loadQ.all fun e => e.kind ≠ .lds) && q.storeQ.all fun e => e.kind ≠ .sts))

/-- Steps 1 and 2 of R265: the tokens are taken and the routine stands at ENTRY. -/
def Micro.enter (word binding : Word) (now : Nat) : Micro :=
  { active := true, word := word, binding := binding, mpc := bitsN binding 12 0, due := now }

/-- Whether a routine's records still work: what its last step lands, and the stores of its SPOUTs. -/
def Ctx.routineBusy (k : Ctx) (st : Stream) (pc : Word) : Bool := k.flight.any fun f => f.st = st && f.pc = pc

/-- A U-format word (R81, R265): it takes its tokens, waits for its classes and for the image, runs its steps one at a time, and posts
when everything has performed. While the routine runs, the stream stands at the word. -/
def execUop (opc : BitVec 8) (w0 w1 w2 pq : BitVec 4) (arg : BitVec 40) (s : State) : Out :=
  runSeq (.uop opc w0 w1 w2 pq arg) { boost := 0, gn := false, gp := 0 } false false [] []
    (fun c st s =>
      let k := s.ctx c
      let q := k.seq st
      let m := q.micro
      let word := wordOf (.uop opc w0 w1 w2 pq arg)
      if !m.active then
        if !k.canTake (codes [w0, w1, w2]) then .stall .take s
        else
          let e := vgetD k.binding (opc.toNat - 0xC0) 0
          .stall .step (s.upCtx c fun k =>
            ((k.take (codes [w0, w1, w2])).settle).upSeq st fun q => { q with micro := Micro.enter word e s.tide })
      else if m.fin then
        if s.tide < m.due || k.routineBusy st q.pc then .stall .other s
        else if !k.canPost pq.toNat then .stall .post s
        else
          let s := s.fqDone c (m.mword.map fun x => { word := x.1, seq := x.2 }) true
          .done (s.upCtx c fun k => ((k.post pq.toNat).settle).upSeq st fun q => { q with micro := {} })
      else if s.tide < m.due || (m.steps = 0 && !k.classesDone st m.binding) then .stall .other s
      else match s.bankOf k with
        | none => .stall .other s
        | some b =>
          if b.bad then .trap (mkCause causeUcImage 0) s
          else if !b.valid then .stall .other s
          else match s.microStep c st arg.toNat with
            | .ok s => .stall .step s
            | .wait => .stall .other s
            | .trap e port => .trap e ((match port with
              | some i => s.upCtx c fun k => k.refetch i
              | none => s).noteCheck c e)) s

/-! ## Loading tenant images (R262, R282) -/

/-- Bank 0 or 1 of a core. -/
def Core.bank (h : Core) (n : Nat) : Bank := if n = 0 then h.bank0 else h.bank1
def Core.setBank (h : Core) (n : Nat) (b : Bank) : Core := if n = 0 then { h with bank0 := b } else { h with bank1 := b }

/-- Whether a resident context of a core holds the image of a bank. -/
def State.bankHeld (s : State) (core : Nat) (b : Bank) : Bool :=
  s.ctxs.any fun k => k.core = some core && k.run ≠ .gone && k.image.any fun m => m.digest = b.digest

/-- The next eight micro-words of an image, read from the copy that FC5 recorded, and the bank with them, one tide cycle later (R282). A copy
that cannot be read does not match its digest (log 76). -/
def State.ldeCopy (s : State) (core bank : Nat) (m : Image) (b : Bank) : State :=
  let first := b.words = []
  let a := m.copy + 16 + 16 * b.words.length
  let n := min 8 (b.need - b.words.length)
  let ws := (List.range n).map fun i => BitVec.ofNat 128 (leNat (s.homeBytes 4096 (a + 16 * i) 16))
  let lost := s.uncorrAt a (16 * n) || (first && s.uncorrAt m.copy 16)
  let b := { b with head := if first then s.homeBytes 4096 m.copy 16 else b.head, words := b.words ++ ws, due := s.tide + 1, bad := b.bad || lost }
  let s := if lost then s.chargeUncorr a else (s.holdWait 4096 a (16 * n) false).l2span 4096 a (16 * n) false
  let s := s.upCore core fun h => h.setBank bank b
  if b.bad then s.logPf (.event .imageMismatch (s.ctx b.ctx).vf (ctxid b.ctx) (BitVec.ofNat 64 core)) else s

/-- The loader starts to copy an image into a bank of a core that no resident context holds. -/
def State.startLoad (s : State) (core bank c : Nat) (m : Image) : Option State :=
  let h := s.core core
  let b := h.bank bank
  if (h.banks.any fun x => x.digest = m.digest && x.need ≠ 0) || (b.need ≠ 0 && s.bankHeld core b) || m.words = [] then none
  else some (s.ldeCopy core bank m { digest := m.digest, words := [], need := m.words.length, valid := false, bad := false, ctx := c })

/-- FC1 has a context's image loaded as it decides to switch the context in (R282, R319). -/
def State.beginLoad (s : State) (core c : Nat) : State :=
  match (s.ctx c).image with
  | none => s
  | some m => ((s.startLoad core 0 c m).orElse fun _ => s.startLoad core 1 c m).getD s

/-- LDE_LOAD: the loader starts to copy a resident context's image, or copies the next eight micro-words. -/
def tryLdeLoad (core bank c : Nat) (s : State) : Option State :=
  let k := s.ctx c
  let b := (s.core core).bank bank
  match k.image with
  | none => none
  | some m =>
    if 2 ≤ bank || k.core ≠ some core || k.run = .gone then none
    else if b.digest = m.digest && b.need ≠ 0 then
      (if b.valid || b.bad || b.need ≤ b.words.length || s.tide < b.due then none else some (s.ldeCopy core bank m b))
    else s.startLoad core bank c m

def execLdeLoad (core bank ctx : Nat) (s : State) : Out := .next ((tryLdeLoad core bank ctx s).getD s)

/-- LDE_VERIFY: after the last word, the digest of the header and the words is compared with the measured one; a mismatch is told to FC5 and FC3. -/
def tryLdeVerify (core bank : Nat) (s : State) : Option State :=
  let b := (s.core core).bank bank
  if 2 ≤ bank || b.need = 0 || b.valid || b.bad || b.words.length < b.need || s.tide < b.due then none
  else if Config.shake256 (b.head ++ b.words.flatMap fun w => natBytes w.toNat 16) = b.digest then some (s.upCore core fun h => h.setBank bank { b with valid := true })
  else
    some ((s.upCore core fun h => h.setBank bank { b with bad := true }).logPf
      (.event .imageMismatch (s.ctx b.ctx).vf (ctxid b.ctx) (BitVec.ofNat 64 core)))

def execLdeVerify (core bank : Nat) (s : State) : Out := .next ((tryLdeVerify core bank s).getD s)

end Sys2Proof.Machine
end

