-- ==== Sys2Proof/Machine/Nest.lean ====
section
/-! DEFINITION. Launch records and the enumeration of a launch's iterations (R13, R103, R395). -/

namespace Sys2Proof.Machine

/-! ## The launch record (R103) -/

/-- A level descriptor. -/
def levelOf (n : Nat) : Level := { kind := n / 2 ^ 30 % 4, rank := n / 2 ^ 27 % 8, extent := n % 2 ^ 24 }

/-- The six level words of a record after the extents of a LAUNCH replace those not 0 (R378). -/
def levelWords (b : List Byte) (exts : List Nat) : List Nat :=
  (List.range 6).map fun i =>
    let w := fieldN b (32 + 4 * i) 4
    let e := exts.getD i 0
    if e = 0 then w else w / 2 ^ 24 * 2 ^ 24 + e

/-- A record with its EST and extents replaced where the command gives them (R378). -/
def launchRec (b : List Byte) (exts : List Nat) (est : Word) : LaunchRec :=
  { flags := fieldN b 3 1, cohort := fieldN b 4 2, prio := fieldN b 6 1, est := if est = 0 then fieldW b 8 else est,
    entries := (List.range 4).map fun i => fieldN b (16 + 4 * i) 4,
    levels := ((levelWords b exts).take (fieldN b 2 1)).map levelOf, argsize := fieldN b 56 4 }

/-- The spatial levels with their numbers. -/
def LaunchRec.spatial (r : LaunchRec) : List (Level × Nat) := r.levels.zipIdx.filter fun l => l.1.kind = 1 || l.1.kind = 2

/-- The number of spatial iterations. -/
def LaunchRec.total (r : LaunchRec) : Nat := r.spatial.foldl (fun n l => n * l.1.extent) 1

/-- Whether FC1 accepts a modified record (R103): `secs` are the offsets and sizes of the stream sections. -/
def recordOk (b : List Byte) (exts : List Nat) (secs : List (Nat × Nat)) : Bool :=
  let n := fieldN b 2 1
  let r := launchRec b exts 0
  let ws := levelWords b exts
  let ranks := r.spatial.map fun l => l.1.rank
  fieldN b 0 2 = 1 && decide (1 ≤ n) && decide (n ≤ 6) && r.flags < 8 && r.cohort ≤ 128 && r.prio ≤ 7 &&
    zeroIn b 7 8 && zeroIn b 60 64 && r.argsize ≤ 65536 && (ws.drop n).all (· = 0) &&
    ((ws.take n).all fun w =>
      let l := levelOf w
      l.kind ≠ 3 && decide (1 ≤ l.extent) && w / 2 ^ 24 % 8 = 0 && (l.kind ≠ 0 || l.rank = 0)) &&
    ((List.range ranks.length).all fun i => ranks.contains i) && r.total ≤ 2 ^ 40 &&
    (r.entries.zipIdx.all fun e =>
      let (o, sz) := secs.getD e.2 (0, 0)
      e.1 % 8 = 0 && decide (o ≤ e.1) && decide (e.1 < o + sz))

/-! ## Enumeration (R395) -/

/-- The index of each spatial level, rank 0 varying fastest: the fuel is the number of ranks. -/
def indicesFrom (sp : List (Level × Nat)) : Nat → Nat → Nat → List (Nat × Nat)
  | 0, _, _ => []
  | n + 1, rank, i =>
    match sp.find? fun l => l.1.rank = rank with
    | none => []
    | some l => (l.2, i % l.1.extent) :: indicesFrom sp n (rank + 1) (i / l.1.extent)

/-- The index at a level of the iteration with an ordinal; a temporal level has index 0 (R13). -/
def LaunchRec.index (r : LaunchRec) (ord lvl : Nat) : Nat :=
  (((indicesFrom r.spatial r.spatial.length 0 ord).find? fun e => e.1 = lvl).map (·.2)).getD 0

/-- The flat number over the levels of the kinds given, the lowest-numbered level varying fastest (R13). -/
def LaunchRec.flatOver (r : LaunchRec) (kinds : List Nat) (ord : Nat) : Nat :=
  (r.levels.zipIdx.foldl (fun (a : Nat × Nat) l =>
    if kinds.contains l.1.kind then (a.1 + r.index ord l.2 * a.2, a.2 * l.1.extent) else a) (0, 1)).1

/-- x26 (R13). -/
def LaunchRec.flat (r : LaunchRec) (ord : Nat) : Nat := r.flatOver [1, 2] ord

/-- Whether the nest has D levels. -/
def LaunchRec.hasD (r : LaunchRec) : Bool := r.levels.any fun l => l.kind = 2

/-- The preload of each register (R13). -/
def LaunchRec.preload (r : LaunchRec) (ord : Nat) (argva : Word) (reg : Nat) : Word :=
  if 20 ≤ reg ∧ reg ≤ 25 then BitVec.ofNat 64 (r.index ord (reg - 20))
  else if reg = 26 then BitVec.ofNat 64 (r.flat ord)
  else if reg = 27 then argva
  else 0

/-! ## Cores of a launch -/

/-- The sleeve of a function. -/
def State.sleeveOf (s : State) (vf : Nat) : Option Sleeve :=
  (s.vf vf).sleeve.bind fun n => s.sleeves.find? fun z => z.num = n

/-- In-service cores of a function's sleeve, in (die, core) order. -/
def State.sleeveCores (s : State) (vf : Nat) : List Nat :=
  match s.sleeveOf vf with
  | none => []
  | some z => (List.range 128).filter fun n => z.cores.contains n && (s.core n).inService

/-- The dies of a list of cores, rising. -/
def diesOf (cores : List Nat) : List Nat := (List.range 8).filter fun d => cores.any fun n => n / 16 = d

/-- Cores on which FC1 may place a launch's iterations: those of the sleeve, or those of them that a replay names (R386). -/
def State.launchCores (s : State) (l : Launch) : List Nat :=
  let cs := s.sleeveCores l.vf
  match l.cores with
  | none => cs
  | some m => cs.filter fun n => m.contains n

/-- The die to which an iteration is bound (R395, R400): with a D level and no cohort, die list entry dd mod nd; if that die has no
core left, one of the remaining dies by dd mod their count. -/
def State.dieOfIter (s : State) (l : Launch) (ord : Nat) : Option Nat :=
  if l.lrec.cohort ≠ 0 || !l.lrec.hasD then none
  else
    let dd := l.lrec.flatOver [2] ord
    let live := diesOf (s.launchCores l)
    let d := l.dieList.getD (dd % l.dieList.length) 0
    if live.contains d then some d
    else
      let rest := l.dieList.filter fun x => live.contains x
      some (rest.getD (dd % rest.length) d)

end Sys2Proof.Machine
end

