-- ==== Sys2Proof/Machine/Sched.lean ====
section
/-! DEFINITION. FC1 and the loop-nest walkers (R8, R9, R315, R319, R392 to R401): contexts and their cores, placement, cohorts,
retirement and trigger, tokens and pre-emption, quanta, and changes of capacity. -/

namespace Sys2Proof.Machine

/-! ## Contexts and cores -/

/-- Whether a cohort holds a core for members that have not all retired (R396). -/
def State.coreHeld (s : State) (core : Nat) : Bool := s.launches.any fun l => !l.ended && l.group.any fun g => g.1 = core

/-- Whether the walkers may use a core (R395, R401). -/
def State.coreOpen (s : State) (core : Nat) : Bool :=
  let h := s.core core
  decide (core < 128) && h.inService && !h.leased && !h.leasePending

/-- A context that runs nothing and owes nothing: its last accesses have performed. -/
def Ctx.quiet (k : Ctx) : Bool :=
  k.iter.isNone && !k.service && k.ie.isNone && k.jnlOut = [] && [Stream.x, .l, .c, .s].all fun st => (k.seq st).loadQ = [] && (k.seq st).storeQ = []

/-- Whether a launch keeps off a core for a newcomer that still waits (R315). -/
def State.drainedOff (s : State) (l : Launch) (core : Nat) : Bool :=
  l.drain.any fun d => d.core = core && match s.launch? d.newcomer with
    | some n => !n.ended && decide (n.placed < max 1 n.lrec.cohort)
    | none => false

/-- A context is switched out while it runs nothing (R299, R317). Its tiles are compared as on every save (R67): a mismatch sets CHKERR
and the score and raises ACC_CHECK, the frame closes with it and STATUS ENDED, and with no iteration to stop the save goes on (log 71). -/
def State.switchOut (s : State) (c : Nat) : State :=
  let s := match s.badTile c with
    | some (i, e) => ((looseFault (s.checkTiles c) c 4 (accCheck i e)).closeFrame c 1).endFault c
    | none => (s.closeFrame c 5).writeFrame c
  s.saveOut c

/-- Whether a core may hold context `c` with a WCS image: at most two images that differ are resident (R262). -/
def State.imageRoom (s : State) (core : Nat) (c : Option Nat) (m : Option Image) : Bool :=
  match m with
  | none => true
  | some m =>
    let ds := (List.range s.ctxs.length).filterMap fun i =>
      let k := s.ctx i
      if k.core = some core && k.run ≠ .gone && c ≠ some i then k.image.map (·.digest) else none
    ds.contains m.digest || decide (ds.eraseDups.length < 2)

/-- Whether a context is idle: it runs nothing, and what it last ran retired in an earlier cycle (R395). -/
def State.idleNow (s : State) (k : Ctx) : Bool := k.run = .idle && k.quiet && decide (k.idleFrom ≤ s.tide)

/-- Idle contexts that a test selects leave a core. -/
def State.clearIdle (s : State) (core : Nat) (sel : Ctx → Bool) : State :=
  (List.range s.ctxs.length).foldl (fun s c =>
    let k := s.ctx c
    if k.core = some core && s.idleNow k && sel k then s.switchOut c else s) s

/-- Idle contexts of other functions, and those whose quantum has ended, leave a core (R398). -/
def State.evict (s : State) (core vf : Nat) : State := s.clearIdle core fun k => k.vf ≠ vf || k.spent

/-- Contexts of a sleeve that hold a slot of a core. -/
def State.slotsUsed (s : State) (core sleeve : Nat) : Nat := ((s.residents core).filter fun k => k.sleeve = sleeve).length

/-- Where a context's save area lies (R303; log 6). -/
def saveAreaOf (c : Nat) : Nat := Config.saveBase + c * 2 ^ 25

/-- The number that a new context takes: the lowest one that no living context has. -/
def State.newCtxNo (s : State) : Option Nat :=
  (List.range 1024).find? fun c => decide (s.ctxs.length ≤ c) || (s.ctx c).run = .gone

/-- SCOPELIMIT and FEATMASK of a new context (R409, R413). -/
def State.newLimits (s : State) (vf : Nat) (z : Sleeve) : Nat × Word :=
  let v := s.vf vf
  if vf = 0 then (4, 0) else (v.scopelimit.getD (if z.kind = 2 then 2 else 3), v.featmask)

/-- PRIO of a function's contexts: TOKENS, BID and CLASS (R393). -/
def prioWord (tokens bid cls : Nat) : Word := BitVec.ofNat 64 (tokens % 65536 * 65536 + bid % 64 * 256 + cls % 8)

/-- A context of a function is created on a core that has room for its allotment of blocks, tiles and barriers, zero-filled (R7, R26, R35). -/
def State.createWith (s : State) (a : Nat × Nat × Nat) (vf core : Nat) (z : Sleeve) : Option (State × Nat) :=
  let blocks := min 1024 a.1
  let tiles := min 32 a.2.1
  let bars := min 128 a.2.2
  match s.newCtxNo, s.room core blocks tiles bars with
  | some c, some (b, t, r) =>
    let v := s.vf vf
    let (limit, feat) := s.newLimits vf z
    let csr := { Csrs.zero with
      codebase := BitVec.ofNat 64 v.codebase, codebound := BitVec.ofNat 64 v.codebound,
      jnlbase := BitVec.ofNat 64 ((Config.jnlRing c).toNat * 65536 + 2), scopelimit := BitVec.ofNat 64 limit, featmask := feat,
      prio := prioWord v.balance 0 0 }
    let k := { Ctx.blank with
      vf := vf, sleeve := z.num, core := some core, run := .idle, csr := csr, saveArea := saveAreaOf c, quantum := s.tide }
    let s := s.upCore core fun h =>
      { h with
        spad := sclear h.spad (b * 16384) ((b + blocks) * 16384)
        spadErr := h.spadErr.filter fun w => w < b * 2048 || (b + blocks) * 2048 ≤ w
        dir := sclear h.dir b (b + blocks)
        tiles := (List.range tiles).foldl (fun v i => vmod v (t + i) fun _ => Tile.zero) h.tiles
        bars := (List.range bars).foldl (fun v i => vmod v (r + i) fun _ => Barrier.raw) h.bars }
    let s := if c < s.ctxs.length then s else { s with ctxs := s.ctxs ++ [Ctx.blank] }
    ((s.upCtx c fun _ => k).writeAllot c core (allotWords b blocks t tiles r bars)).map fun s => (s, c)
  | _, _ => none

/-- FC1 creates a context with the allotment that it chooses (R25). -/
def State.create (s : State) (vf core : Nat) (z : Sleeve) : Option (State × Nat) := s.createWith (Config.allot vf) vf core z

/-- The image and the bindings that a berth gives the contexts that run its kernels (R106; log 36). -/
def State.berthImage (s : State) (l : Launch) (k : Ctx) : Ctx :=
  match (s.vf l.vf).berths.find? fun b => b.num = l.berth with
  | none => k
  | some b => match b.wcs with
    | none => k
    | some m =>
      { k with image := some m,
               binding := b.binds.foldl (fun v e => vmod v e.1 fun _ => e.2) (Vector.replicate 64 0) }

/-- Whether another function waits for a context slot of a core (R398): every slot of the sleeve there holds a context that is not idle, and the
function has an iteration to place or to go on with there and no context on the core. -/
def State.slotWanted (s : State) (core sleeve vf : Nat) : Bool :=
  let slots := ((s.sleeves.find? fun z => z.num = sleeve).map (·.slots)).getD 0
  let held := ((s.residents core).filter fun k => k.sleeve = sleeve && (k.vf = vf || !s.idleNow k)).length
  let absent (v : Nat) : Bool := v ≠ vf && !s.halting v && (s.residents core).all fun k => k.vf ≠ v
  decide (slots ≤ held) &&
    ((s.ctxs.any fun k => k.sleeve = sleeve && absent k.vf && k.run = .saved && k.was.isNone && match k.iter.bind fun it => (s.launch? it.launch).map fun l => (it, l) with
      | some (it, l) => (s.launchCores l).contains core && ((s.dieOfIter l it.ordinal).all fun d => core / 16 = d)
      | none => false) ||
    s.launches.any fun l => !l.ended && absent l.vf && (s.vf l.vf).sleeve = some sleeve && decide (l.placed < l.lrec.total) &&
      (s.launchCores l).contains core)

/-- A saved context is switched in (R319): its image starts to load, and its state is restored. -/
def State.switchIn (s : State) (c core : Nat) : Option State := (s.beginLoad core c).restoreOne c core

/-- The context in which an iteration of a launch can run on a core (R395): the function's idle one there; else, in a free slot, a
saved idle one, or a new one. None when the core is not free for the launch, or would hold a third image (R262). -/
def State.takeCore (s : State) (l : Launch) (core : Nat) : Option (State × Nat) :=
  let img (k : Ctx) : Option Image := (s.berthImage l k).image
  if !s.coreOpen core || s.coreHeld core || s.drainedOff l core || s.halting l.vf then none
  else match findIdx (fun k => k.core = some core && k.vf = l.vf && s.idleNow k && !k.spent) s.ctxs 0 with
    | some (c, k) =>
      let s := if s.imageRoom core (some c) (img k) then s else s.evict core l.vf
      if s.imageRoom core (some c) (img k) then some (s, c) else none
    | none => match s.sleeveOf l.vf with
      | none => none
      | some z =>
        if s.ctxs.any fun k => k.core = some core && k.vf = l.vf && k.run ≠ .gone && (!k.spent || s.slotWanted core z.num l.vf) then none
        else
          let full (s : State) : Bool := decide (z.slots ≤ s.slotsUsed core z.num) || !s.imageRoom core none (img Ctx.blank)
          let s := if full s then s.evict core l.vf else s
          if full s then none
          else match findIdx (fun k => k.vf = l.vf && k.run = .saved && k.iter.isNone && k.sleeve = z.num) s.ctxs 0 with
            | some (c, k) => match if s.imageRoom core none k.image && s.imageRoom core none (img k) then s.switchIn c core else none with
              | some s => some (s, c)
              | none => (s.evict core l.vf).create l.vf core z
            | none => match s.create l.vf core z with
              | some r => some r
              | none => (s.evict core l.vf).create l.vf core z

/-! ## The start of an iteration (R7, R13, R38) -/

/-- The sequencer file at the start of an iteration. -/
def Seq.start (q : Seq) (pc : Word) (pre : Nat → Word) : Seq :=
  { Seq.init with
    pc := pc, x := (Vector.range 32).map pre, ord := q.ord, bkpt := q.bkpt }

/-- FC1 logs where an iteration of a captured launch runs, under the index its record will have (R451). -/
def State.logPlacement (s : State) (l : Launch) (core : Nat) : State :=
  match (s.rings.find? fun r => r.vf = l.vf && r.num = l.ring).bind (·.cap) with
  | none => s
  | some cap =>
    if cap.cur ≠ some l.idx then s
    else
      let mine (p : Placement) : Bool := p.ring = l.ring && p.vf = l.vf && p.record = cap.records
      if s.placements.any mine then
        let add (p : Placement) : Placement := if mine p && !p.cores.contains core then { p with cores := p.cores ++ [core] } else p
        { s with placements := s.placements.map add }
      else { s with placements := s.placements ++ [{ ring := l.ring, vf := l.vf, record := cap.records, cores := [core] }] }

/-- The walker starts an iteration in a context: `when_` is the cycle in which its preloads are written. The die's copies of the function's
lines are refreshed first, so that no sweep reads what an earlier completion made old (R377, R407): DEDUCED (log 83). -/
def State.startIter (s : State) (c n ord when_ : Nat) : State :=
  match s.launch? n with
  | none => s
  | some l =>
    let first := !(s.ctx c).launchesSeen.contains n
    let fill (k : Ctx) : Ctx := if first then s.berthImage l k else k
    let v := s.vf l.vf
    let s := s.upCtx c fun k =>
      let k := (fill k).settleWins
      let k := k.bindNew.foldl (fun k e => { k with binding := vmod k.binding e.1 fun _ => e.2 }) { k with bindNew := [] }
      let pre := l.lrec.preload ord l.argva
      let go (k : Ctx) (st : Stream) (i : Nat) : Ctx :=
        k.upSeq st fun q => q.start (BitVec.ofNat 64 (l.image + l.lrec.entries.getD i 0)) pre
      let k := go (go (go (go k .x 0) .l 1) .c 2) .s 3
      let csr := { k.csr with
        regmode := k.csr.regmode &&& 1, tidebase := 0, est := if first then l.lrec.est else k.csr.est,
        capword := l.capword, prio := prioWord v.balance l.bid l.lrec.prio }
      let it : Iter := { launch := n, ordinal := ord, flat := l.lrec.flat ord, trig := false, placed := when_, edits := s.codeEdits.length }
      { k with
        run := .running, iter := some it, launchesSeen := if first then k.launchesSeen ++ [n] else k.launchesSeen, boost := { entries := [], rec1 := none, rec2 := none }, csr := csr,
        tok := Vector.replicate 13 0, region := none, fq := [], sq0 := [], sq1 := [], collq := [], yq := [], heldCap := none,
        ag := Vector.replicate 8 Ag.idle, sp := Vector.replicate 4 Port.off, eqM := [], eqV := [], eqS := [], flight := [],
        copies := [], posts := [], pend := [], deadSince := none }
    let s := s.acquire c 3
    let mark (x : Launch) : Launch :=
      let t := x.taken ++ [ord]
      let low := (List.range (t.length + 1)).foldl (fun m _ => if t.contains m then m + 1 else m) x.low
      { x with placed := x.placed + 1, low := low, taken := t.filter fun i => low ≤ i }
    (s.logPlacement l (s.ctx c).coreNo).upLaunch n mark

/-! ## Order and placement (R392, R395, R396) -/

/-- Whether a launch goes before another for free cores (R392). -/
def Launch.before (a b : Launch) : Bool :=
  decide (b.lrec.prio < a.lrec.prio) ||
    (a.lrec.prio = b.lrec.prio && (decide (a.admitted < b.admitted) ||
      (a.admitted = b.admitted && decide (a.ident.toNat < b.ident.toNat))))

/-- Insert a launch number by the order of R392. -/
def insertLaunch (e : Nat × Launch) : List (Nat × Launch) → List (Nat × Launch)
  | [] => [e]
  | f :: t => if f.2.before e.2 then f :: insertLaunch e t else e :: f :: t

/-- Launches with iterations to place, in the order of R392. -/
def State.queue (s : State) : List (Nat × Launch) :=
  ((s.launches.zipIdx.map fun e => (e.2, e.1)).filter fun e => !e.2.ended && decide (e.2.placed < e.2.lrec.total)).foldr
    insertLaunch []

/-- Whether a die's walker has placed or is writing preloads in this cycle. -/
def State.walkerBusy (s : State) (die : Nat) : Bool :=
  (s.ctxs.any fun k => match k.iter, k.core with
    | some it, some n => n / 16 = die && it.placed = s.tide &&
        ((s.launch? it.launch).map fun l => decide (l.lrec.cohort = 0)) = some true
    | _, _ => false) ||
  s.launches.any fun l => l.group.any fun g => g.1 / 16 = die && decide (s.tide ≤ g.2.2)

/-- The next iteration of a launch for a die, or for any die: the first one not placed. -/
def State.nextIter (s : State) (l : Launch) (die : Option Nat) : Option Nat :=
  let rec go : Nat → Nat → Option Nat
    | 0, _ => none
    | n + 1, i =>
      if !l.taken.contains i && (die.isNone || s.dieOfIter l i = die) then some i else go n (i + 1)
  go (l.lrec.total - l.low) l.low

/-- What one launch would place on a die: the iteration, the core. -/
def State.wants (s : State) (l : Launch) (die : Nat) : Option (Nat × Nat) :=
  if l.lrec.cohort ≠ 0 then none
  else
    let cores := s.launchCores l
    if l.lrec.hasD then
      match (cores.filter fun n => n / 16 = die).find? fun n => (s.takeCore l n).isSome, s.nextIter l (some die) with
      | some n, some i => some (i, n)
      | _, _ => none
    else
      match cores.find? fun n => (s.takeCore l n).isSome, s.nextIter l none with
      | some n, some i => if n / 16 = die then some (i, n) else none
      | _, _ => none

/-- Whether a launch has an iteration for a free core of a die: with no D level its iterations take the free cores in (die, core) order. -/
def State.reaches (s : State) (l : Launch) (die : Nat) : Bool :=
  if l.lrec.cohort ≠ 0 then false
  else if l.lrec.hasD then (s.wants l die).isSome
  else (((s.launchCores l).filter fun n => (s.takeCore l n).isSome).take (l.lrec.total - l.placed)).any fun n => n / 16 = die

/-- What one launch can place now: a die's walker places one iteration a cycle. -/
def State.claim (s : State) (l : Launch) (die : Nat) : Option (Nat × Nat) := if s.walkerBusy die then none else s.wants l die

/-- The members of a cohort's next group and the cores they take, in order. -/
def State.takeGroup (s : State) (l : Launch) : Nat → List Nat → Option (State × List (Nat × Nat))
  | 0, _ => some (s, [])
  | _ + 1, [] => none
  | n + 1, core :: t =>
    match s.takeCore l core with
    | none => s.takeGroup l (n + 1) t
    | some (s, c) => (s.takeGroup l n t).map fun r => (r.1, (c, core) :: r.2)

/-- The size of a cohort's next group (R396). -/
def Launch.groupSize (l : Launch) : Nat := min l.lrec.cohort (l.lrec.total - l.placed)

/-- Whether a cohort's next group finds its cores. -/
def State.cohortReady (s : State) (l : Launch) : Bool :=
  l.lrec.cohort ≠ 0 && decide (l.placed < l.lrec.total) && (s.takeGroup l l.groupSize (s.launchCores l)).isSome

/-- Whether a saved context may be made resident on a core as it is: a free slot of its sleeve, room, and for an iteration its own die. -/
def State.fitsNow (s : State) (c core : Nat) : Bool :=
  let k := s.ctx c
  let inSleeve := s.sleeves.any fun z => z.num = k.sleeve && z.cores.contains core && decide (s.slotsUsed core z.num < z.slots)
  let ok := match k.iter.bind fun it => (s.launch? it.launch).map fun l => (it, l) with
    | none => true
    | some (it, l) =>
      !s.drainedOff l core && (s.launchCores l).contains core && match s.dieOfIter l it.ordinal with
        | none => true
        | some d => core / 16 = d
  k.run = .saved && k.was.isNone && s.coreOpen core && !s.coreHeld core && inSleeve && ok && !s.halting k.vf && s.imageRoom core none k.image &&
    (s.room core k.blocks k.acount k.bcount).isSome

/-- Whether a saved context may be made resident on a core: as it is, or for an iteration once the idle contexts there have left (R395). -/
def State.mayRestore (s : State) (c core : Nat) : Bool :=
  s.fitsNow c core || ((s.ctx c).iter.isSome && (s.ctx c).run = .saved && (s.clearIdle core fun _ => true).fitsNow c core)

/-- Whether a checkpointed iteration of a launch can go on on a die: it stands at the head of the die's waiting order (R395). -/
def State.returns (s : State) (n die : Nat) : Bool :=
  (List.range s.ctxs.length).any fun c =>
    ((s.ctx c).iter.map (·.launch)) = some n && (List.range 16).any fun i => s.mayRestore c (die * 16 + i)

/-- Whether a launch, or a checkpointed iteration of one, that goes before launch `n` by R392 would take a core of a die. -/
def State.outranked (s : State) (n die : Nat) : Bool :=
  match s.launch? n with
  | none => false
  | some l => s.launches.zipIdx.any fun e =>
      !e.1.ended && e.1.before l &&
        (decide (e.1.placed < e.1.lrec.total) && (s.reaches e.1 die || s.cohortReady e.1) || s.returns e.2 die)

/-- PLACE_ITERATION (R395): a die's walker places its next iteration of a launch, unless an earlier launch of R392 claims it. -/
def tryPlaceIteration (n die : Nat) (s : State) : Option State :=
  match s.launch? n with
  | none => none
  | some l =>
    if l.ended || !(s.queue.any fun e => e.1 = n) then none
    else if s.outranked n die || s.returns n die then none
    else match s.claim l die with
      | none => none
      | some (i, core) => (s.takeCore l core).map fun r => r.1.startIter r.2 n i s.tide

def execPlaceIteration (launch die : Nat) (s : State) : Out := .next ((tryPlaceIteration launch die s).getD s)

/-- PLACE_COHORT (R396): the next group takes its cores in one cycle, once the walkers of their dies write no other preloads; its members start in the cycle after the last preload. -/
def tryPlaceCohort (n : Nat) (s : State) : Option State :=
  match s.launch? n with
  | none => none
  | some l =>
    if l.ended || l.lrec.cohort = 0 || !(s.queue.any fun e => e.1 = n) then none
    else if (List.range 8).any fun d => s.outranked n d || s.returns n d then none
    else match s.takeGroup l l.groupSize (s.launchCores l) with
      | none => none
      | some (s', ms) =>
        if ms.any fun m => s.walkerBusy (m.2 / 16) then none
        else
        let onDie (d : Nat) : Nat := (ms.filter fun m => m.2 / 16 = d).length
        let last := s.tide + (((List.range 8).map onDie).foldl max 1) - 1
        let g := l.low / l.lrec.cohort
        let s' := ms.zipIdx.foldl (fun s e => s.startIter e.1.1 n (l.low + e.2) last) s'
        some (s'.upLaunch n fun x =>
          { x with group := x.group ++ ms.map fun m => (m.2, g, s.tide + onDie (m.2 / 16) - 1) })

def execPlaceCohort (launch : Nat) (s : State) : Out := .next ((tryPlaceCohort launch s).getD s)

/-! ## Retirement and trigger (R8, R9, R397) -/

/-- Whether an iteration's own work is over (R8), format words left in FQ apart (R9). -/
def Ctx.finished (k : Ctx) : Bool :=
  k.run = .running && ([Stream.x, .l, .c, .s].all fun st =>
    let q := k.seq st
    q.exited && q.loadQ = [] && q.storeQ = []) &&
  !k.engQueued && k.flight = [] && k.copies = [] && k.sq0 = [] && k.sq1 = [] && k.collq = [] && k.ie.isNone && k.mu.isNone &&
  k.coll.isNone && k.region.isNone && k.pend = []

/-- Launches of a sleeve that were told NONE are judged again (R394). -/
def State.rejudge (s : State) (sleeve : Option Nat) : State :=
  let up (l : Launch) : Launch :=
    if l.judged = 1 && (sleeve.isNone || (s.vf l.vf).sleeve = sleeve) then { l with judged := 2 } else l
  { s with launches := s.launches.map up }

/-- A cohort's group that has no member left gives its cores back (R396). -/
def State.closeGroup (s : State) (n g : Nat) : State :=
  let live := s.ctxs.any fun k => match k.iter, s.launch? n with
    | some it, some l => it.launch = n && it.ordinal / max 1 l.lrec.cohort = g
    | _, _ => false
  if live then s else s.upLaunch n fun l => { l with group := l.group.filter fun e => e.2.1 ≠ g }

/-- ITERATION_RETIRE (R8): words left in FQ are removed and logged (R9), poisoned bundles never issued are charged to the core
(R115), token counts are discarded, and the launch counts the iteration. -/
def tryIterationRetire (c : Nat) (s : State) : Option State :=
  let k := s.ctx c
  match k.iter with
  | none => none
  | some it =>
    if !k.finished || s.unacked (fun x => x.who.any fun w => w.1 = c) then none
    else
      let left := k.fq
      let s := left.foldl (fun s e => s.jnlMark c e.seq jCancelled) s
      let s := if left = [] then s else s.logVf k.vf (.event .fqLeftover k.vf (ctxid c) (BitVec.ofNat 64 left.length))
      let s := s.dropBundles c
      let s := s.upCtx c fun k =>
        { k with run := .idle, idleFrom := s.tide + 1, iter := none, fq := [], yq := [], heldCap := none, tok := Vector.replicate 13 0, posts := [],
                 deadSince := none }
      let s := s.upLaunch it.launch fun l => { l with retired := l.retired + 1, retireTide := if it.trig then l.retireTide else s.tide }
      let s := match s.launch? it.launch with
        | some l => if l.lrec.cohort = 0 then s else s.closeGroup it.launch (it.ordinal / l.lrec.cohort)
        | none => s
      some (s.rejudge (some k.sleeve))

def execIterationRetire (ctx : Nat) (s : State) : Out := .next ((tryIterationRetire ctx s).getD s)

/-- Iterations that are placed and have executed TRIG; a faulted or halted one does not count (R397). -/
def State.trigCount (s : State) (n : Nat) : Nat :=
  (s.ctxs.filter fun k =>
    (match k.iter with | some it => it.launch = n && it.trig | none => false) && match k.stand with
      | .faulted | .halted | .paging _ => false
      | _ => true).length

/-- Whether every iteration of a launch has retired, where a retirement that was its trigger lies in an earlier cycle: what depends on the launch
is released in the cycle after it (R397). -/
def State.allRetired (s : State) (l : Launch) : Bool := decide (l.lrec.total ≤ l.retired) && (l.retired = 0 || decide (l.retireTide < s.tide))

/-- TRIGGER_RELEASE (R397): dependants are released in the cycle after every iteration has executed TRIG or retired. -/
def tryTriggerRelease (n : Nat) (s : State) : Option State :=
  match s.launch? n with
  | none => none
  | some l =>
    if l.ended || l.released || l.retired + s.trigCount n < l.lrec.total || (l.retired ≠ 0 && s.tide ≤ l.retireTide) then none
    else some (s.upLaunch n fun l => { l with released := true })

def execTriggerRelease (launch : Nat) (s : State) : Out := .next ((tryTriggerRelease launch s).getD s)

/-! ## Tokens and pre-emption (R315, R318, R394) -/

/-- PRIO of every context of a function follows its balance (R393). -/
def State.showTokens (s : State) (vf : Nat) : State :=
  let b := (s.vf vf).balance
  let up (k : Ctx) : Ctx :=
    if k.vf = vf then { k with csr := { k.csr with prio := putBits k.csr.prio 31 16 b } } else k
  { s with ctxs := s.ctxs.map up }

/-- PERIOD_START (R394): every 2^24 cycles each function's balance takes its grant, and newcomers are judged again. -/
def tryPeriodStart (s : State) : Option State :=
  if s.tide / 2 ^ 24 < s.periodNo then none
  else
    let s := s.vfs.foldl (fun s e => (s.upVf e.1 fun v => { v with balance := min 65535 (v.balance + v.grant) }).showTokens e.1) s
    some { (s.rejudge none) with periodNo := s.periodNo + 1 }

def execPeriodStart (s : State) : Out := .next ((tryPeriodStart s).getD s)

/-- B of R317. -/
def Ctx.saveBytes (k : Ctx) : Nat :=
  let n := k.endBlk - k.baseBlk
  16384 + 132096 + 196608 * k.acount + 16384 * n + 8 * n

/-- The checkpoint cost C (R318). -/
def Ctx.saveCost (k : Ctx) : Nat := 2 * (8192 + cdiv k.saveBytes 128)

/-- The drain bound D of a context's sleeve (R315). -/
def State.drainBound (s : State) (sleeve : Nat) : Nat :=
  ((s.sleeves.find? fun z => z.num = sleeve).map fun z => if z.drain = 0 then Config.drainDefault else z.drain).getD
    Config.drainDefault

/-- A newcomer's bid (R394). -/
def State.bidOf (s : State) (vf : Nat) : Nat := min 63 ((s.vf vf).balance / 1024)

/-- FC1's decision for one running context (R315): 0 none, 1 drain, 2 checkpoint, 3 kill. -/
def decision (soft killable : Bool) (t d c bid cls : Nat) : Nat :=
  if soft && t ≤ d then 1 else if bid < 9 * cls then 0 else if killable && t < 4 * c then 3 else 2

/-- A decision as PREEMPT of the running launch's journal record shows it (R387). -/
def preemptWord (dec bid t c : Nat) : Word :=
  BitVec.ofNat 64 (dec * 2 ^ 62 + bid * 2 ^ 56 + min (t / 1024) (2 ^ 28 - 1) * 2 ^ 28 + min (c / 1024) (2 ^ 28 - 1))

/-- Change the command of a ring with a slot index. -/
def State.upCmd (s : State) (vf ring idx : Nat) (f : Cmd → Cmd) : State :=
  let up (r : Ring) : Ring :=
    if r.vf = vf && r.num = ring then { r with cmds := r.cmds.map fun c => if c.seq = idx then f c else c } else r
  { s with rings := s.rings.map up }

/-- FC1 decides for one context on behalf of newcomer `n`, and carries the decision out: the state and the decision. One that an earlier
decision for `n` has already stopped, with its cohort or its launch, is charged no second time. -/
def State.decide1 (s : State) (n c : Nat) (soft : Bool) : State × Nat :=
  let k := s.ctx c
  match (if k.run = .running then k.iter else none).bind fun it => (s.launch? it.launch).map fun l => (it, l), s.launch? n with
  | some (it, l), some new =>
    let t := k.csr.est.toNat * 1024
    let cost := k.saveCost
    let bid := s.bidOf new.vf
    let dec := decision soft (l.lrec.flags / 2 % 2 = 1) t (s.drainBound k.sleeve) cost bid l.lrec.prio
    let s := s.upCmd l.vf l.ring l.idx fun x => { x with preempt := preemptWord dec bid t cost }
    let s := s.upLaunch n fun x => { x with bid := bid }
    let off (soft : Bool) : Drain := { ctx := c, core := k.coreNo, since := s.tide, newcomer := n, soft := soft }
    let keep (soft : Bool) (s : State) : State :=
      s.upLaunch it.launch fun x => { x with drain := (x.drain.filter fun d => d.ctx ≠ c) ++ [off soft] }
    let pay (s : State) : State :=
      (s.upVf new.vf fun v => { v with balance := v.balance - bid * 256 }).showTokens new.vf
    match dec with
    | 0 => (s, 0)
    | 1 => (keep true s, 1)
    | 2 => ((pay (keep false s)).checkpoint c, 2)
    | _ => (pay (s.killLaunch it.launch 0x0B 0), 3)
  | _, _ => (s, 3)

/-- Whether a context's launch is judged before another's for a newcomer (R394): lowest class, then latest admission, then
highest LAUNCHID. -/
def victimBefore (a b : Launch) : Bool :=
  decide (a.lrec.prio < b.lrec.prio) ||
    (a.lrec.prio = b.lrec.prio && (decide (b.admitted < a.admitted) ||
      (a.admitted = b.admitted && decide (b.ident.toNat < a.ident.toNat))))

def insertVictim (e : Nat × Launch) : List (Nat × Launch) → List (Nat × Launch)
  | [] => [e]
  | f :: t => if victimBefore e.2 f.2 then e :: f :: t else f :: insertVictim e t

/-- The cores on which a newcomer could run: open ones, and with D levels those of the dies that its iterations belong to (R395). -/
def State.coresFor (s : State) (new : Launch) : List Nat :=
  (s.launchCores new).filter fun core =>
    s.coreOpen core && (new.lrec.cohort ≠ 0 || !new.lrec.hasD || (s.nextIter new (some (core / 16))).isSome)

/-- The running contexts that hold `n` cores a newcomer could use, in the order FC1 judges them: of the cores in the order of their first
victims the first `n`, and each running context on those (R315, R394). -/
def State.victims (s : State) (new : Launch) (n : Nat) : List (Nat × Launch) :=
  let cores := s.coresFor new
  let vs := ((List.range s.ctxs.length).filterMap fun c =>
    let k := s.ctx c
    match k.iter.bind fun it => s.launch? it.launch, k.core with
    | some l, some core =>
      if k.run = .running && cores.contains core && l.lrec.prio ≤ new.lrec.prio then some (c, l) else none
    | _, _ => none).foldr insertVictim []
  let on := ((vs.map fun v => (s.ctx v.1).coreNo).eraseDups).take n
  vs.filter fun v => on.contains (s.ctx v.1).coreNo

/-- NEWCOMER_TIMEOUT (R394): a launch that found no core for 2^20 cycles is judged against the running launches. -/
def tryNewcomerTimeout (n : Nat) (s : State) : Option State :=
  match s.launch? n with
  | none => none
  | some l =>
    if l.ended || l.placed ≠ 0 || s.tide < l.admitted + 2 ^ 20 || !(l.judged = 0 || l.judged = 2) then none
    else
      let need := max 1 l.lrec.cohort
      let free := (s.coresFor l).filter fun core => (s.takeCore l core).isSome
      let vs := s.victims l (need - free.length)
      let (s, decs) := vs.foldl (fun (a : State × List Nat) v =>
        let (s, d) := a.1.decide1 n v.1 true
        (s, a.2 ++ [d])) (s, [])
      let up (x : Launch) : Launch := { x with judged := if decs ≠ [] && decs.all (· ≠ 0) then 3 else 1 }
      some (s.upLaunch n up)

def execNewcomerTimeout (launch : Nat) (s : State) : Out := .next ((tryNewcomerTimeout launch s).getD s)

/-- DRAIN_REDECIDE (R315): an iteration that runs 2 × D after a DRAIN is decided again without it. -/
def tryDrainRedecide (c : Nat) (s : State) : Option State :=
  let k := s.ctx c
  match k.iter.bind fun it => (s.launch? it.launch).map fun l => (it, l) with
  | none => none
  | some (it, l) =>
    match l.drain.find? fun d => d.ctx = c && d.soft with
    | none => none
    | some d =>
      if k.run ≠ .running || s.tide < d.since + 2 * s.drainBound k.sleeve || !s.drainedOff l d.core then none
      else
        let (s, dec) := s.decide1 d.newcomer c false
        let gone (x : Launch) : Launch := { x with drain := x.drain.filter fun e => e.ctx ≠ c }
        let again (x : Launch) : Launch := { x with judged := 1 }
        some (if dec = 0 then (s.upLaunch it.launch gone).upLaunch d.newcomer again else s)

def execDrainRedecide (ctx : Nat) (s : State) : Out := .next ((tryDrainRedecide ctx s).getD s)

/-! ## Quanta (R398) -/

/-- QUANTUM_EXPIRE: after 2^22 cycles in a slot that another context waits for, no more iterations are placed in it. -/
def tryQuantumExpire (c : Nat) (s : State) : Option State :=
  let k := s.ctx c
  let shared := s.sleeves.any fun z => z.num = k.sleeve && z.kind = 2
  if k.core.isSome && k.run ≠ .gone && shared && !k.spent && decide (k.quantum + 2 ^ 22 ≤ s.tide) && s.slotWanted k.coreNo k.sleeve k.vf then
    some (s.upCtx c fun k => { k with spent := true, quantum := s.tide })
  else none

def execQuantumExpire (ctx : Nat) (s : State) : Out := .next ((tryQuantumExpire ctx s).getD s)

/-- QUANTUM_CHECKPOINT: an iteration that still runs 2 × D after the quantum ended is checkpointed. -/
def tryQuantumCheckpoint (c : Nat) (s : State) : Option State :=
  let k := s.ctx c
  if k.run = .running && k.spent && decide (k.quantum + 2 * s.drainBound k.sleeve ≤ s.tide) then some (s.checkpoint c) else none

def execQuantumCheckpoint (ctx : Nat) (s : State) : Out := .next ((tryQuantumCheckpoint ctx s).getD s)

/-! ## Restoration (R319, R395) -/

/-- The other members of a saved context's group are restored with it (R396). -/
def State.restoreGroup (s : State) (cores : List Nat) : List Nat → Option State
  | [] => some s
  | c :: t =>
    match cores.findSome? fun n => if s.fitsNow c n then s.switchIn c n else none with
    | none => none
    | some s => s.restoreGroup cores t

/-- RESTORE_CONTEXT (R319), in the order of R392: on a core of its sleeve with a free slot and room; for an iteration idle contexts leave first
(R395, R398), and of a group none is restored while another is being saved (R396). -/
def tryRestoreContext (c core : Nat) (s : State) : Option State :=
  let k := s.ctx c
  let s := if s.fitsNow c core || !s.mayRestore c core then s else s.clearIdle core fun _ => true
  let saving := match k.iter.bind fun it => (s.launch? it.launch).map fun l => (it, l) with
    | some (it, l) => l.lrec.cohort ≠ 0 && s.ctxs.any fun m => m.run = .saving && m.iter.any fun j =>
        j.launch = it.launch && j.ordinal / l.lrec.cohort = it.ordinal / l.lrec.cohort
    | none => false
  if saving || !s.fitsNow c core || (match k.iter with | some it => s.outranked it.launch (core / 16) | none => false) then none
  else match s.switchIn c core, k.iter.bind fun it => (s.launch? it.launch).map fun l => (it, l) with
    | none, _ => none
    | some s', none => some s'
    | some s', some (it, l) =>
      if l.lrec.cohort = 0 then some s'
      else
        let mates := (List.range s'.ctxs.length).filter fun i => (s'.ctx i).run = .saved && match (s'.ctx i).iter with
          | some j => j.launch = it.launch && j.ordinal / l.lrec.cohort = it.ordinal / l.lrec.cohort
          | none => false
        match s'.restoreGroup (s'.launchCores l) mates with
        | none => none
        | some s' =>
          let g := it.ordinal / l.lrec.cohort
          let on := s'.ctxs.filterMap fun k => match k.iter, k.core with
            | some j, some n => if j.launch = it.launch && j.ordinal / l.lrec.cohort = g then some (n, g, 0) else none
            | _, _ => none
          some (s'.upLaunch it.launch fun x => { x with group := (x.group.filter fun e => e.2.1 ≠ g) ++ on })

def execRestoreContext (ctx core : Nat) (s : State) : Out := .next ((tryRestoreContext ctx core s).getD s)

/-! ## Capacity (R396, R399, R400) -/

/-- CAPWORD from DIES0, CORES0, the cores now in service and EPOCH (R399). -/
def capWord (dies0 cores0 : Nat) (cores : List Nat) (epoch : Nat) : Word :=
  BitVec.ofNat 64 (dies0 * 2 ^ 48 + cores0 * 2 ^ 40 + (diesOf cores).length * 2 ^ 24 + cores.length * 2 ^ 16 + epoch % 256)

/-- A capacity record reaches a context's YQ, or is held while YQ is full, the newest alone (R400). -/
def Ctx.pushCap (k : Ctx) (r : Word) : Ctx := if k.yqOpen && k.heldCap.isNone then k.yqPush r else { k with heldCap := some r }

/-- A held capacity record enters YQ once it has room. -/
def Ctx.settleCap (k : Ctx) : Ctx :=
  match k.heldCap with
  | some r => if k.yqOpen then ({ k with heldCap := none } : Ctx).yqPush r else k
  | none => k

/-- A capacity change of a sleeve (R400): CAPWORD of every launch of it and of its contexts, the records of CAPNOTIFY launches, and
the end of a cohort that no longer fits (R396). -/
def State.capChange (s : State) (sleeve : Nat) : State :=
  (List.range s.launches.length).foldl (fun s n =>
    match s.launch? n with
    | none => s
    | some l =>
      if l.ended || (s.vf l.vf).sleeve ≠ some sleeve then s
      else
        let cores := s.sleeveCores l.vf
        let w := capWord (bitsN l.capword 55 48) (bitsN l.capword 47 40) cores (bitsN l.capword 7 0 + 1)
        let s := s.upLaunch n fun x => { x with capword := w }
        let notify := l.lrec.flags % 2 = 1
        let up (k : Ctx) : Ctx :=
          if k.run = .gone then k
          else
            let mine := k.iter.any fun it => it.launch = n
            let k := if k.launchesSeen.contains n && k.iter.all (fun it => it.launch = n) then { k with csr := { k.csr with capword := w } } else k
            if notify && mine && k.core.isSome then k.pushCap (yqRecord 4 0 (bitsN w 31 0)) else k
        let s := { s with ctxs := s.ctxs.map up }
        if l.lrec.cohort ≠ 0 && cores.length < l.lrec.cohort then s.killLaunch n 4 0 else s) s

/-! ## Admission (R103, R378, R392) -/

/-- FC1 admits a launch, or refuses it with a status (R103): `raw` is the record, `exts` and `est` what the command replaces. DESIGN CHOICE
(log 92): the cores of the sleeve are those in service at admission, so that a retired core that its map still names does not count, and of a
replay those that it names (R386). -/
def State.admitLaunch (s : State) (vf ring idx : Nat) (graph : Option Nat) (ident : Word) (b : Berth) (raw : List Byte) (exts : List Nat)
    (est argva : Word) (cores : Option (List Nat)) (strict : Bool) : Except Nat State :=
  let r := launchRec raw exts est
  let r := if strict then { r with flags := r.flags / 8 * 8 + 4 + r.flags % 4 } else r
  if !recordOk raw exts b.sections then .error 3
  else
    let cs := s.sleeveCores vf
    if (cs.filter fun n => cores.all fun m => m.contains n).length < r.cohort then .error 4
    else
      let dies := diesOf cs
      .ok { s with launches := s.launches ++
        [{ vf := vf, ring := ring, idx := idx, graph := graph, ident := ident, berth := b.num, image := b.image, lrec := r,
           argva := argva, admitted := s.tide, dieList := dies, cores0 := cs.length, capword := capWord dies.length cs.length cs 0,
           low := 0, taken := [], placed := 0, retired := 0, retireTide := 0, released := false, drain := [], bid := 0, judged := 0,
           status := none, ended := false, cores := cores, group := [] }] }

end Sys2Proof.Machine
end

