-- ==== Sys2Proof/Machine/FrontEnd.lean ====
section
/-! DEFINITION. The host interface (R365 to R391): ring pages, the ring protocol, the command journal, and the commands but for
graphs, captures and firmware requests. -/

namespace Sys2Proof.Machine

/-! ## Rings -/

/-- The host address space begins here (R345). -/
def hostBase : Nat := 0x8000000000000

/-- A ring page after reset (R368). -/
def Ring.reset (vf n : Nat) : Ring :=
  { vf := vf, num := n, en := false, a7 := false, pubn := 0, log2 := 0, wridx := 0, rdidx := 0, base := 0, mirror := 0, wrerr := false,
    state := 0, cmds := [], cap := none, sinceMirror := 0 }

/-- A function's ring page. -/
def State.ring (s : State) (vf n : Nat) : Ring := (s.rings.find? fun r => r.vf = vf && r.num = n).getD (Ring.reset vf n)

/-- Change a ring page. -/
def State.upRing (s : State) (vf n : Nat) (f : Ring → Ring) : State :=
  if s.rings.any fun r => r.vf = vf && r.num = n then
    { s with rings := s.rings.map fun r => if r.vf = vf && r.num = n then f r else r }
  else { s with rings := s.rings ++ [f (Ring.reset vf n)] }

/-- Slots of a ring. -/
def Ring.size (r : Ring) : Nat := 2 ^ r.log2

/-- Whether a function's ring page takes writes (R366, R418, R454). -/
def State.ringPage (s : State) (vf n : Nat) : Bool := s.booted && (s.vf vf).enabled && !(s.vf vf).resetting && decide (n < 16)

/-- RINGSTAT (R368). -/
def Ring.stat (r : Ring) : Word := BitVec.ofNat 64 (r.state * 2 ^ 60 + b2n r.wrerr)

/-- RINGCFG as it reads (R369). -/
def Ring.cfg (r : Ring) : Word := BitVec.ofNat 64 (b2n r.en * 2 ^ 63 + b2n r.a7 * 2 ^ 62 + r.pubn % 256 * 2 ^ 48 + r.log2 % 16)

/-- What a read of a ring page returns (R367 to R369): a disabled ring's page reads zero, and so does an offset that is not listed, and
RINGCTL. -/
def State.ringRead (s : State) (vf n off : Nat) : Word :=
  let r := s.ring vf n
  if !s.ringPage vf n || !r.en then 0
  else match off with
    | 0x000 => BitVec.ofNat 64 r.wridx
    | 0x008 => BitVec.ofNat 64 r.rdidx
    | 0x010 => r.base
    | 0x018 => r.cfg
    | 0x020 => r.mirror
    | 0x030 => r.stat
    | _ => 0

/-- The host port completes an access (R365): with a value, or as an Unsupported Request. -/
def State.complete? (s : State) (vf : Nat) (v : Option Word) : State := { s with cpls := s.cpls ++ [{ vf := vf, value := v }] }

/-- WRIDX_FETCHADD (R371, R373): a native ring takes it and the completion returns the old value; in A7 mode it is unsupported; the page of a
disabled ring reads zero (R367). -/
def execWridxFetchadd (vf ring : Nat) (addend : Word) (s : State) : Out :=
  let r := s.ring vf ring
  .next (if !s.ringPage vf ring then s
    else if !r.en then s.complete? vf (some 0)
    else if r.a7 then s.complete? vf none
    else (s.upRing vf ring fun r => { r with wridx := (r.wridx + addend.toNat) % 2 ^ 64 }).complete? vf (some (BitVec.ofNat 64 r.wridx)))

/-- WRIDX_DOORBELL (R374). -/
def execWridxDoorbell (vf ring : Nat) (value : Word) (s : State) : Out :=
  let r := s.ring vf ring
  .next (if s.ringPage vf ring && r.en && r.a7 then
      (if value.toNat < r.wridx || r.rdidx + r.size < value.toNat then s.upRing vf ring fun r => { r with wrerr := true }
       else s.upRing vf ring fun r => { r with wridx := value.toNat })
    else s)

/-- Whether RINGBASE suits a ring of a size (R368, R369). -/
def baseOk (base : Word) (size : Nat) : Bool :=
  base.toNat % 4096 = 0 && base.toNat % (128 * size) = 0 && decide (base.toNat + 128 * size ≤ 2 ^ 50)

/-- RINGCFG_WRITE (R369): a valid enable places and clears the journal. -/
def execRingcfgWrite (vf ring : Nat) (value : Word) (s : State) : Out :=
  let r := s.ring vf ring
  let lg := bitsN value 3 0
  .next (if !s.ringPage vf ring || r.en then s
    else if bitN value 63 && (lg < 4 || 12 < lg || !baseOk r.base (2 ^ lg)) then s.upRing vf ring fun r => { r with wrerr := true }
    else s.upRing vf ring fun r =>
      let r := { r with en := bitN value 63, a7 := bitN value 62, pubn := bitsN value 55 48, log2 := lg }
      if r.en then { r with wridx := 0, rdidx := 0, state := 1, cmds := [], cap := none, sinceMirror := 0 } else r)

/-- RDMIRROR_WRITE (R368); the page of a disabled ring drops it (R367). -/
def execRdmirrorWrite (vf ring : Nat) (value : Word) (s : State) : Out :=
  .next (if !s.ringPage vf ring || !(s.ring vf ring).en then s
    else if value.toNat % 8 ≠ 0 || 2 ^ 50 ≤ value.toNat then s.upRing vf ring fun r => { r with wrerr := true }
    else s.upRing vf ring fun r => { r with mirror := value })

/-! ## Acceptance (R372, R374) -/

/-- Whether a command's state is final (R372). -/
def Cmd.final (c : Cmd) : Bool := decide (3 ≤ c.state)

/-- The command with a slot index, while the journal holds it. -/
def Ring.cmd? (r : Ring) (i : Nat) : Option Cmd := r.cmds.find? fun c => c.seq = i

/-- The 128 bytes of a slot (R370). -/
def State.slot (s : State) (r : Ring) (i : Nat) : List Byte := sbytes s.mem (hostBase + r.base.toNat + i % r.size * 128) 128

/-- LAUNCHID of a ring command or a graph node (R378). -/
def launchId (vf ring seq node : Nat) : Word :=
  BitVec.ofNat 64 (vf % 4096 * 2 ^ 52 + ring % 16 * 2 ^ 48 + seq % 2 ^ 32 * 2 ^ 16 + node % 2 ^ 16)

/-- LAUNCHID of a launch that firmware core `core` makes by itself (R378). -/
def fwLaunchId (core n : Nat) : Word := BitVec.ofNat 64 (core % 16 * 2 ^ 48 + n % 2 ^ 32 * 2 ^ 16 + 0xFFFF)

/-- The number under which FC4 keeps the replay of a DRY.LOCATE beside a function's rings (R451). -/
def fwRing : Nat := 16

/-- LAUNCHID of a launch of a command: FC4's replays carry firmware identifiers (R378). -/
def cmdLaunchId (vf ring seq node : Nat) : Word := if ring = fwRing then fwLaunchId 4 (seq + node) else launchId vf ring seq node

/-- Whether a command ended so that the next one is skipped (R376). -/
def Cmd.failed (c : Cmd) : Bool := c.final && (c.status ≠ 0 || c.state = 5 || c.state = 6)

/-- A command as FC0 accepts it (R387). -/
def Cmd.accept (vf ring i tide : Nat) (b : List Byte) : Cmd :=
  { seq := i, opcode := fieldN b 8 1, flags := fieldN b 9 1, tag := BitVec.ofNat 32 (fieldN b 12 4), body := b, state := 1, status := 0,
    cause := 0, launchid := if fieldN b 8 1 = 1 || fieldN b 8 1 = 2 then launchId vf ring i 0 else 0, taccept := tide, tstart := 0, tend := 0, result := 0, preempt := 0, released := false, overAs := none,
    launch := none, graph := none, regs := [] }

/-- RDIDX is copied to its mirror (R368). -/
def State.mirrorRd (s : State) (vf ring : Nat) : State :=
  let r := s.ring vf ring
  if r.mirror = 0 then s else s.pokeHome 0 (hostBase + r.mirror.toNat) (natBytes r.rdidx 8)

/-- COMMAND_ACCEPT (R372): the slot of RDIDX is accepted, or STATE shows what FC0 waits for. -/
def tryCommandAccept (vf ring : Nat) (s : State) : Option State :=
  let r := s.ring vf ring
  let i := r.rdidx
  let b := s.slot r i
  let wait (st : Nat) : Option State := if r.state = st then none else some (s.upRing vf ring fun r => { r with state := st })
  if !s.ringPage vf ring || !r.en || r.state = 2 || s.halting vf then none
  else if (if r.a7 then decide (r.wridx ≤ i) else decide (fieldN b 0 8 ≠ i)) then (if r.a7 then none else wait 3)
  else if r.size ≤ i && (r.cmd? (i - r.size)).any fun c => !c.final then wait 4
  else
    let failed := (r.cmd? (i - r.size)).any (·.failed)
    let keep (c : Cmd) : Cmd := if r.size ≤ i && c.seq + r.size = i + 1 then { c with dep := some failed } else c
    let s := s.upRing vf ring fun r =>
      { r with state := 1, rdidx := i + 1, sinceMirror := r.sinceMirror + 1,
               cmds := ((r.cmds.filter fun c => c.seq + r.size ≠ i).map keep) ++ [Cmd.accept vf ring i s.tide b] }
    let r := s.ring vf ring
    some (if r.a7 then
        (if r.pubn < r.sinceMirror || bitN (fieldW b 9) 2 then
          (s.mirrorRd vf ring).upRing vf ring fun r => { r with sinceMirror := 0 }
         else s)
      else s.mirrorRd vf ring)

def execCommandAccept (vf ring : Nat) (s : State) : Out := .next ((tryCommandAccept vf ring s).getD s)

/-! ## The journal (R387) -/

/-- The 64 bytes of a journal entry; the state that COMMAND_COMPLETE has yet to write reads as RUNNING. -/
def Cmd.entry (c : Cmd) : List Byte :=
  natBytes c.seq 8 ++ natBytes c.opcode 1 ++ natBytes c.state 1 ++ natBytes c.status 1 ++ natBytes c.cause 1 ++ natBytes c.tag.toNat 4 ++
    natBytes c.launchid.toNat 8 ++ natBytes c.taccept 8 ++ natBytes c.tstart 8 ++ natBytes c.tend 8 ++ natBytes c.result.toNat 8 ++
    natBytes c.preempt.toNat 8

/-- The entry at an offset of BAR2 (R367, R387): zero where no command has been accepted. -/
def State.bar2Entry (s : State) (vf off : Nat) : List Byte :=
  let r := s.ring vf (off / 2 ^ 18)
  match r.cmds.find? fun c => r.en && off % 2 ^ 18 / 64 < r.size && c.seq % r.size = off % 2 ^ 18 / 64 with
  | some c => c.entry
  | none => zeros 64

/-- The final state is written with its times, then the MSI-X vector is raised (R377). -/
def State.finishCmd (s : State) (vf ring idx st : Nat) : State :=
  let irq := ((s.ring vf ring).cmd? idx).any fun c => c.flags / 8 % 2 = 1
  let s := s.upCmd vf ring idx fun c => { c with state := st, overAs := none, tend := s.tide }
  if irq then { s with msix := s.msix ++ [(vf, ring)] } else s

/-- What a function's contexts have stored performs at SYSTEM scope (R377). -/
def State.releaseVf (s : State) (vf : Nat) : State :=
  (List.range s.ctxs.length).foldl (fun s c =>
    if (s.ctx c).vf = vf && (s.ctx c).core.isSome && (s.ctx c).run ≠ .gone then s.releaseAll c else s) s

/-! ## Release of commands (R376) -/

/-- Opcodes (R376). -/
def opLaunch : Nat := 0x01
def opInvoke : Nat := 0x02
def opGraph : Nat := 0x03

/-- Whether a command is a LAUNCH or an INVOKE. -/
def Cmd.isLaunch (c : Cmd) : Bool := c.opcode = opLaunch || c.opcode = opInvoke

/-- Whether the predecessor of a command has released it. -/
def State.releasedBy (s : State) (p c : Cmd) : Bool :=
  p.final || p.released ||
    (p.state = 2 && p.isLaunch && c.isLaunch && p.flags / 2 % 2 = 0 && (p.launch.bind s.launch?).any fun l => l.released)

/-- The oldest accepted command that has not started, once its predecessor has released it. -/
def State.nextCmd (s : State) (vf ring : Nat) : Option Cmd :=
  let r := s.ring vf ring
  if !r.en || s.halting vf || (s.vf vf).resetting then none
  else match r.cmds.find? fun c => c.state = 1 with
    | none => none
    | some c => match (if c.seq = 0 then none else r.cmd? (c.seq - 1)) with
      | none => some c
      | some p => if s.releasedBy p c then some c else none

/-- Whether a command is skipped for its predecessor's end (R376), which it remembers once the predecessor's entry is overwritten. -/
def State.depFailed (s : State) (vf ring : Nat) (c : Cmd) : Bool :=
  c.flags % 2 = 0 && c.seq ≠ 0 && (c.dep.getD (((s.ring vf ring).cmd? (c.seq - 1)).any (·.failed)))

/-- Whether the header's reserved bits and the bytes of the body that no layout names are zero (R370, R376): `named` lists the
ranges that the command's layout names. -/
def fieldsOk (b : List Byte) (named : List (Nat × Nat)) : Bool :=
  fieldN b 9 1 < 16 && zeroIn b 10 12 &&
    (List.range 112).all fun i =>
      (named.any fun n => decide (n.1 ≤ i + 16) && decide (i + 16 < n.2)) || b.getD (i + 16) 0 = 0

/-- A command has ended in a status before or while it ran: FAILED, or DONE with OK. -/
def State.endCmd (s : State) (vf ring idx status cause : Nat) (result : Word) : State :=
  s.upCmd vf ring idx fun c =>
    { c with status := status, cause := cause, result := result, overAs := some (if status = 0 then 3 else 4) }

/-- FC0 starts the next command of a ring if it is one of the opcodes given: SKIPPED, or RUNNING with its body's effect. -/
def tryStart (ops : Nat → Bool) (body : Cmd → State → State) (vf ring : Nat) (s : State) : Option State :=
  match s.nextCmd vf ring with
  | none => none
  | some c =>
    if !ops c.opcode then none
    else if s.depFailed vf ring c then
      some ((s.upCmd vf ring c.seq fun c => { c with status := 9 }).finishCmd vf ring c.seq 5)
    else some (body c (s.upCmd vf ring c.seq fun c => { c with state := 2, tstart := s.tide }))

/-! ## LAUNCH and INVOKE (R378, R380) -/

/-- The berth of a function by number. -/
def Vf.berth? (v : Vf) (n : Nat) : Option Berth := v.berths.find? fun b => b.num = n

/-- The bytes of a record as a LAUNCH modifies it. -/
def modifiedRec (b : List Byte) (exts : List Nat) (est : Word) : List Byte :=
  b.take 8 ++ (if est = 0 then (b.drop 8).take 8 else natBytes est.toNat 8) ++ (b.drop 16).take 16 ++
    (levelWords b exts).flatMap (fun w => natBytes w 4) ++ b.drop 56

/-- A captured command notes the launches it makes (R385). -/
def State.noteLaunch (s : State) (vf ring idx : Nat) (raw : List Byte) (argva : Word) (argsize : Nat) (digest : List Byte) : State :=
  match (s.ring vf ring).cap with
  | none => s
  | some cap =>
    if cap.cur ≠ some idx then s
    else
      let (s, args) := match s.fwRead vf argva (argsize / 128 + 2) argsize with
        | (s, .ok bs) => (s, bs)
        | (s, .error _) => (s, zeros argsize)
      let more : Capture := { cap with launches := cap.launches ++ raw ++ args ++ fit 64 digest, nlaunch := cap.nlaunch + 1 }
      s.upRing vf ring fun r => { r with cap := some more }

/-- Checks 2 to 4 of R378 and the admission: the state and the number of the launch, or a status. -/
def State.launchKernel (s : State) (vf ring idx : Nat) (graph : Option Nat) (node berth kernel argsize : Nat) (argva : Word)
    (exts : List Nat) (est : Word) (cores : Option (List Nat)) (strict : Bool) : Except Nat (State × Nat) :=
  match (s.vf vf).berth? berth with
  | none => .error 6
  | some b =>
    if b.state ≠ 2 then .error 7
    else match b.recs[kernel]? with
      | none => .error 3
      | some raw =>
        if fieldN raw 56 4 ≠ argsize then .error 3
        else match s.admitLaunch vf ring idx graph (cmdLaunchId vf ring idx node) b raw exts est argva cores strict with
          | .error e => .error e
          | .ok s' => .ok (s'.noteLaunch vf ring idx (modifiedRec raw exts est) argva argsize b.digest, s.launches.length)

/-- Record the launch of a command, or its failing status. -/
def State.ranLaunch (s : State) (vf ring idx : Nat) : Except Nat (State × Nat) → State
  | .error e => s.endCmd vf ring idx e 0 0
  | .ok (s, n) => s.upCmd vf ring idx fun c => { c with launch := some n }

/-- LAUNCH of a slot's bytes (R378). -/
def State.doLaunch (s : State) (vf ring idx : Nat) (b : List Byte) (cores : Option (List Nat)) (strict : Bool) : State :=
  let exts := (List.range 6).map fun i => fieldN b (40 + 4 * i) 4
  let argva := fieldW b 24
  if !fieldsOk b [(16, 19), (24, 36), (40, 72)] || argva.toNat % 64 ≠ 0 || exts.any fun e => decide (2 ^ 24 ≤ e) then
    s.endCmd vf ring idx 2 0 0
  else
    s.ranLaunch vf ring idx (s.launchKernel vf ring idx none 0 (fieldN b 16 2) (fieldN b 18 1) (fieldN b 32 4) argva exts
      (fieldW b 64) cores strict)

/-- The relocation registers of an INVOKE (R380). -/
def relocations (b : List Byte) (vf ring idx taccept : Nat) (seg : Word) : List Byte :=
  let n := fieldN b 19 1
  ((List.range 12).flatMap fun i => natBytes (if i < n then fieldN b (24 + 8 * i) 8 else 0) 8) ++
    natBytes idx 8 ++ natBytes (vf % 4096 * 16 + ring % 16) 8 ++ natBytes seg.toNat 8 ++ natBytes taccept 8

/-- INVOKE of a slot's bytes (R380); a replay gives the argument block that was recorded. -/
def State.doInvoke (s : State) (vf ring idx taccept : Nat) (b : List Byte) (args : Option (List Byte)) (cores : Option (List Nat)) (strict : Bool) : State :=
  if !fieldsOk b [(16, 20), (24, 120)] || 12 < fieldN b 19 1 then s.endCmd vf ring idx 2 0 0
  else
    let v := s.vf vf
    match v.berth? (fieldN b 16 2) with
    | none => s.endCmd vf ring idx 6 0 0
    | some h =>
      if h.state ≠ 2 then s.endCmd vf ring idx 7 0 0
      else if ((h.recs[fieldN b 18 1]?).map fun r => fieldN r 56 4) ≠ some 128 then s.endCmd vf ring idx 3 0 0
      else
        let va : Word := BitVec.ofNat 64 ((Config.invokeBlock vf v.invoke).toNat * 64)
        let seg := (h.segs.head?.map (·.va)).getD 0
        let s := (s.fwWrite vf va 3 (args.getD (relocations b vf ring idx taccept seg))).1.upVf vf fun v => { v with invoke := v.invoke + 1 }
        s.ranLaunch vf ring idx
          (s.launchKernel vf ring idx none 0 (fieldN b 16 2) (fieldN b 18 1) 128 va [] 0 cores strict)

/-! ## SIGNAL, WAIT and FENCE (R381) -/

/-- The write of a SIGNAL: the status. -/
def State.signal (s : State) (vf op : Nat) (va value : Word) : State × Nat :=
  if va.toNat % 8 ≠ 0 || 1 < op then (s, 2)
  else if op = 0 then
    match s.fwWrite vf va 2 (natBytes value.toNat 8) with
    | (s, .ok _) => (s, 0)
    | (s, .error _) => (s, 0x0E)
  else
    match s.resolve none vf agFw .both va with
    | (s, .error _) => (s, 0x0E)
    | (s, .ok _) => match s.fwRead vf va 2 8 with
      | (s, .error _) => (s, 0x0E)
      | (s, .ok bs) => match s.fwWrite vf va 2 (natBytes ((leNat bs + value.toNat) % 2 ^ 64) 8) with
        | (s, .ok _) => (s, 0)
        | (s, .error _) => (s, 0x0E)

/-- One read of a WAIT: the state, the word if it could be read, and whether the condition holds. -/
def State.poll (s : State) (vf cmp : Nat) (va value mask : Word) : State × Option (Word × Bool) :=
  match s.fwRead vf va 2 8 with
  | (s, .error _) => (s, none)
  | (s, .ok bs) =>
    let w : Word := BitVec.ofNat 64 (leNat bs)
    let m := w &&& mask
    (s, some (w, if cmp = 0 then m == value else decide (value.toNat ≤ m.toNat)))

/-- A poll that found nothing new: it leaves what it asked for, or took (R287, R295). -/
def State.polled (s t : State) : Option State :=
  if t.reqs.length = s.reqs.length && t.peerWants.length = s.peerWants.length && t.fwWaits.length = s.fwWaits.length then none else some t

/-- SIGNAL. -/
def trySignal (vf ring : Nat) (s : State) : Option State :=
  tryStart (· = 6) (fun c s =>
    let b := c.body
    if !fieldsOk b [(16, 40)] then s.endCmd vf ring c.seq 2 0 0
    else
      let (s, st) := s.signal vf (fieldN b 16 8) (fieldW b 24) (fieldW b 32)
      s.endCmd vf ring c.seq st 0 0) vf ring s

def execSignal (vf ring : Nat) (s : State) : Out := .next ((trySignal vf ring s).getD s)

/-- Commands of a ring that run with an opcode; those of a SUSPENDED function stand still (R421). -/
def State.runningCmd (s : State) (vf ring op : Nat) : Option Cmd :=
  if (s.vf vf).suspended then none else (s.ring vf ring).cmds.find? fun c => c.state = 2 && c.opcode = op && c.overAs.isNone

/-- WAIT: FC0 starts it, or a read finds its condition true; RESULT follows the word last read, however the command ends (R381). -/
def tryWait (vf ring : Nat) (s : State) : Option State :=
  match s.runningCmd vf ring 7 with
  | some c =>
    let b := c.body
    match s.poll vf (fieldN b 16 8) (fieldW b 24) (fieldW b 32) (fieldW b 40) with
    | (t, none) => some (t.endCmd vf ring c.seq 0x0E 0 c.result)
    | (t, some (w, true)) => some (t.endCmd vf ring c.seq 0 0 w)
    | (t, some (w, false)) => if w = c.result then s.polled t else some (t.upCmd vf ring c.seq fun c => { c with result := w })
  | none => tryStart (· = 7) (fun c s =>
      let b := c.body
      if !fieldsOk b [(16, 56)] || (fieldW b 24).toNat % 8 ≠ 0 || 1 < fieldN b 16 8 then s.endCmd vf ring c.seq 2 0 0 else s) vf ring s

def execWait (vf ring : Nat) (s : State) : Out := .next ((tryWait vf ring s).getD s)

/-- WAIT_TIMEOUT: RESULT holds the last word read. -/
def tryWaitTimeout (vf ring : Nat) (s : State) : Option State :=
  match s.runningCmd vf ring 7 with
  | none => none
  | some c =>
    let b := c.body
    let t := fieldN b 48 8
    if t = 0 || s.tide < c.tstart + t * 1024 then none
    else match s.poll vf (fieldN b 16 8) (fieldW b 24) (fieldW b 32) (fieldW b 40) with
      | (s, none) => some (s.endCmd vf ring c.seq 0x0E 0 c.result)
      | (s, some (w, true)) => some (s.endCmd vf ring c.seq 0 0 w)
      | (s, some (w, false)) => some (s.endCmd vf ring c.seq 0x0D 0 w)

def execWaitTimeout (vf ring : Nat) (s : State) : Out := .next ((tryWaitTimeout vf ring s).getD s)

/-- FENCE: it completes when every earlier command of the ring has. -/
def tryFenceCommand (vf ring : Nat) (s : State) : Option State :=
  match s.runningCmd vf ring 8 with
  | some c =>
    if (s.ring vf ring).cmds.all fun d => c.seq ≤ d.seq || d.final then some (s.endCmd vf ring c.seq 0 0 0) else none
  | none => tryStart (· = 8) (fun c s => if fieldsOk c.body [] then s else s.endCmd vf ring c.seq 2 0 0) vf ring s

def execFenceCommand (vf ring : Nat) (s : State) : Out := .next ((tryFenceCommand vf ring s).getD s)

/-- Whether a firmware core serves a request's KIND (R391). -/
def served (core kind : Nat) : Bool :=
  kind / 256 = core && decide (1 ≤ kind % 256) &&
    decide (kind % 256 ≤ match core with
      | 1 => 3 | 2 => 13 | 3 => 6 | 4 => 5 | 5 => 1 | 6 => 1 | 7 => 2 | _ => 0)

/-- Messages in a mailbox of a firmware core, the first sent first (R390). -/
def State.mailbox (s : State) (core box : Nat) : List Mail := s.mail.filter fun m => m.core = core && m.box = box

/-- The message of a FW.REQ (R390, R391): FC0 sends KIND, the sequence number and the payload; it arrives in the target's mailbox 0. -/
def Cmd.mail (c : Cmd) : Mail :=
  { core := fieldN c.body 16 2, box := 0, kind := fieldN c.body 18 2, sender := 0, seq := c.seq % 2 ^ 32, payload := (c.body.drop 32).take 56 }

/-- A message as its 64 bytes (R390). -/
def Mail.bytes (m : Mail) : List Byte := fit 64 (natBytes m.kind 2 ++ natBytes m.sender 1 ++ zeros 1 ++ natBytes m.seq 4 ++ m.payload)

/-- The status of a FW.REQ that no firmware core is to see (R376, R391): none when its message is sent. -/
def fwReqStatus (vf : Nat) (b : List Byte) : Option Nat :=
  if vf ≠ 0 then some 0x0F
  else if !fieldsOk b [(16, 20), (24, 88)] || !served (fieldN b 16 2) (fieldN b 18 2) then some 2 else none

/-- NOP, a code that names no command (R376), and the start of FW.REQ (R391): it ends when a VF sends it, a byte that its layout does not name
is not zero, its TARGET names no core, or that core does not serve its KIND; otherwise its message goes to the core, once the mailbox, which
holds four, takes it (R390). The reply ends it: the requests of Firmware.lean. -/
def tryNopCommand (vf ring : Nat) (s : State) : Option State :=
  let mine (op : Nat) : Bool := op = 0x0B || op = 0 || 0x0C ≤ op
  match s.nextCmd vf ring with
  | none => none
  | some c =>
    if c.opcode = 0x20 && fwReqStatus vf c.body = none && !s.depFailed vf ring c && 4 ≤ (s.mailbox c.mail.core 0).length then none
    else tryStart mine (fun c s =>
      if c.opcode = 0x20 then match fwReqStatus vf c.body with
        | some st => s.endCmd vf ring c.seq st 0 0
        | none => { s with mail := s.mail ++ [c.mail] }
      else s.endCmd vf ring c.seq (if c.opcode ≠ 0x0B then 1 else if fieldsOk c.body [] then 0 else 2) 0 0) vf ring s

def execNopCommand (vf ring : Nat) (s : State) : Out := .next ((tryNopCommand vf ring s).getD s)

/-! ## Berths (R101 to R107, R379) -/

/-- A section of an ELF object: its name, type, flags, file offset, size, alignment and entry size. -/
structure Sect where
  name : List Byte
  ty : Nat
  flags : Nat
  off : Nat
  size : Nat
  align : Nat
  ent : Nat
deriving DecidableEq, Repr

/-- The sections of an ELF64 object (R101), or none when the container is malformed. Where a section lies is tested only of those that the
device reads (`sectsOk`). -/
def elfSections (o : List Byte) : Option (List Sect) :=
  let shoff := fieldN o 0x28 8
  let shent := fieldN o 0x3A 2
  let shnum := fieldN o 0x3C 2
  let head (i : Nat) : List Byte := (o.drop (shoff + i * shent)).take 64
  let names := head (fieldN o 0x3E 2)
  let name (n : Nat) : List Byte := ((o.drop (fieldN names 24 8 + n)).take 32).takeWhile (· ≠ 0)
  if fieldN o 0 4 ≠ 0x464C457F || fieldN o 4 1 ≠ 2 || fieldN o 5 1 ≠ 1 || fieldN o 7 1 ≠ 0 || fieldN o 0x12 2 ≠ 0x9A09 ||
      fieldN o 0x30 1 ≠ 1 || shent < 64 || o.length < shoff + shnum * shent then none
  else
    let ss := (List.range shnum).map fun i =>
      let h := head i
      ({ name := name (fieldN h 0 4), ty := fieldN h 4 4, flags := fieldN h 8 8, off := fieldN h 24 8, size := fieldN h 32 8,
         align := fieldN h 48 8, ent := fieldN h 56 8 } : Sect)
    some ss

/-- The bytes of an ASCII name. -/
def ascii (t : List Nat) : List Byte := t.map (BitVec.ofNat 8)

/-- A section name: ".filim." and the letters that follow. -/
def filimName (t : List Nat) : List Byte := ascii ([46, 102, 105, 108, 105, 109, 46] ++ t)

/-- ".filim." and the letter of a stream. -/
def streamName (letter : Nat) : List Byte := filimName [letter]

/-- The tables that the device reads (R101): names, types and entry sizes; sections of other names or types are ignored. -/
def sectLaunch (x : Sect) : Bool := x.name = filimName [108, 97, 117, 110, 99, 104] && x.ty = 0x70000001
def sectSync (x : Sect) : Bool := x.name = filimName [115, 121, 110, 99] && x.ty = 0x70000002
def sectLoop (x : Sect) : Bool := x.name = filimName [108, 111, 111, 112] && x.ty = 0x70000003
def sectSucc (x : Sect) : Bool := x.name = filimName [115, 117, 99, 99] && x.ty = 0x70000004
def sectWcs (x : Sect) : Bool := x.name = filimName [119, 99, 115] && x.ty = 0x70000005
def sectBind (x : Sect) : Bool := x.name = filimName [98, 105, 110, 100] && x.ty = 0x70000006
def sectBerth (x : Sect) : Bool := x.name = filimName [98, 101, 114, 116, 104] && x.ty = 0x70000007

/-- A stream section of a letter (R101): PROGBITS, ALLOC and EXECINSTR. -/
def sectCode (letter : Nat) (x : Sect) : Bool := x.name = streamName letter && x.ty = 1 && x.flags / 2 % 4 = 3

/-- Whether the sections that the device reads lie in an object of `size` bytes and have the entry sizes of R101, and the stream sections their
alignment: that an object which breaks this is refused with BAD_FIELD is DESIGN CHOICE (log 72). -/
def sectsOk (ss : List Sect) (size : Nat) : Bool :=
  let all (sel : Sect → Bool) (n : Nat) : Bool := ss.all fun x => !sel x || (x.ent = n && decide (x.off + x.size ≤ size))
  all sectLaunch 64 && all sectSync 8 && all sectLoop 8 && all sectSucc 4 && all sectWcs 16 && all sectBind 16 && all sectBerth 8 &&
    [120, 108, 99, 115].all fun c => all (sectCode c) 8 && ss.all fun x => !sectCode c x || (x.align % 64 = 0 && x.align ≠ 0)

/-- Round up to a multiple of 64. -/
def up64 (n : Nat) : Nat := (n + 63) / 64 * 64

/-- Offsets and sizes of the four stream sections in the image (R466). -/
def layImage : Nat → List Nat → List (Nat × Nat)
  | _, [] => []
  | at_, sz :: t => (at_, sz) :: layImage (up64 (at_ + sz)) t

/-- Successor lists (R105). The spec gives the device no action on a list whose count is above 4, or runs past the end of the section: of the
first the four first are kept and the rest skipped, and a successor past the end reads as offset 0, so that the image's base is prefetched
(DESIGN CHOICE, log 72). -/
def succLists : Nat → List Byte → List (Nat × List Nat)
  | 0, _ => []
  | n + 1, b =>
    if b.length < 8 then []
    else
      let k := fieldN b 4 4
      (fieldN b 0 4, (List.range (min k 4)).map fun i => fieldN b (8 + 4 * i) 4) :: succLists n (b.drop (8 + 4 * k))

/-- The segments of a berth description of an object with `n` kernels (R107); none when it is malformed: bytes 4 to 7 are not zero, the kernel
count is not the object's, or the segments do not fill the section. The berth number in the header is not compared with the command's
(DESIGN CHOICE, log 72). -/
def segmentsOf (b : List Byte) (n : Nat) : Option (List Seg) :=
  let m := fieldN b 8 8
  if b = [] then some []
  else if b.length < 16 || !zeroIn b 4 8 || fieldN b 2 2 ≠ n || b.length ≠ 16 + 24 * m then none
  else some ((List.range m).map fun i =>
    { va := fieldW b (16 + 24 * i), size := fieldN b (24 + 24 * i) 8, off := fieldN b (32 + 24 * i) 8 })

/-- The lowest 4 KiB-aligned place in a function's arena range that no other image of it takes. -/
def State.imagePlace (s : State) (vf size : Nat) : Option Nat :=
  let v := s.vf vf
  let used := v.berths.map fun b => (b.image, b.imageSize)
  let cands := cdiv v.codebase 4096 * 4096 :: used.map fun u => cdiv (u.1 + u.2) 4096 * 4096
  let ok := cands.filter fun a => decide (a + size ≤ v.codebound) && used.all fun u => a + size ≤ u.1 || u.1 + u.2 ≤ a
  ok.foldl (fun (m : Option Nat) a => match m with
    | none => some a
    | some b => some (min a b)) none

/-- Write a pinned segment's bytes into the function's space, mapping pages that its policy grants (R107, R359). -/
def State.pinSegment (s : State) (vf : Nat) (va : Word) (bs : List Byte) : Option State :=
  let s := (s.prefaultRange vf va.toNat bs.length).1
  match s.fwWrite vf va (bs.length / 128 + 2) bs with
  | (s, .ok _) => some s
  | (_, .error _) => none

/-- The 64 KiB physical pages that map a function's range. -/
def State.pagesOf (s : State) (vf : Nat) (va size : Nat) : List Nat :=
  (List.range (size / 65536)).filterMap fun i => match s.walk vf (va + 65536 * i) with
    | .leaf _ e lvl => some (bitsN e 51 8 * 256 + (va + 65536 * i) % 2 ^ lvlShift lvl)
    | .miss _ _ _ => none

/-- Where FC5 keeps its copies of images, one place of 256 KiB each (log 6). -/
def imageCopyAt (slot : Nat) : Nat := 0x1E000000000 + slot * 2 ^ 18

/-- The place of the next copy. -/
def State.copySlot (s : State) : Nat :=
  let used := (s.vfs.flatMap fun e => e.2.berths.filterMap fun b => b.wcs.map (·.copy)) ++ s.ctxs.filterMap fun k => k.image.map (·.copy)
  ((List.range (used.length + 1)).find? fun i => !used.contains (imageCopyAt i)).getD 0

/-- The tenant image of an object (R106), whose copy FC5 is to record at `at'`: none in the object, an image, or malformed. Bytes beyond the
word count are dropped (DESIGN CHOICE, log 72). -/
def wcsOf (ss : List Sect) (o : List Byte) (at' : Nat) : Option (Option Image) :=
  match ss.find? sectWcs with
  | none => some none
  | some x =>
    let b := (o.drop x.off).take x.size
    let n := fieldN b 0 4
    if n = 0 || 8192 < n || !zeroIn b 4 16 || b.length < 16 + 16 * n then none
    else
      let raw := b.take (16 + 16 * n)
      some (some { digest := Config.shake256 raw, copy := at',
                   words := (List.range n).map fun i => BitVec.ofNat 128 (fieldN raw (16 + 16 * i) 16) })

/-- The bindings of an object, or none when FC5 refuses one (R90, R106). Bytes beyond a multiple of 16 are dropped (DESIGN CHOICE, log 72). -/
def bindsOf (ss : List Sect) (o : List Byte) (img : Option Image) : Option (List (Nat × Word)) :=
  match ss.find? sectBind with
  | none => some []
  | some x =>
    let b := (o.drop x.off).take x.size
    let es := (List.range (b.length / 16)).map fun i => (fieldN b (16 * i) 8, fieldW b (16 * i + 8))
    if es.all fun e => decide (0xC0 ≤ e.1) && decide (e.1 ≤ 0xFF) && bitN e.2 63 &&
        !bindingRefused { Ctx.blank with image := img } e.2 then
      some (es.map fun e => (e.1 - 0xC0, e.2))
    else none

/-- The loader writes bytes of whole sectors at their home, in class 0 under key index 4,096 (R346, R353, R355). -/
def State.loadBytes (s : State) (pa : Nat) (bs : List Byte) : State := (s.homeStore 0 4096 none 0 pa (fit (cdiv bs.length 128 * 128) bs)).1

/-- FC2 replaces code in the arena; iterations that have started go on fetching what stood there (R117). -/
def State.setCode (s : State) (pa : Nat) (bs : List Byte) : State :=
  if bs = [] then s
  else { s with code := ssets 0 (sclear s.code pa (pa + bs.length)) (keyed pa bs)
                codeEdits := s.codeEdits ++ [{ addr := pa, old := sbytes s.code pa bs.length }] }

/-- The entries that FC2 writes in the tables of the arena's home as it places an image, one for each L2 slice and channel that its pages touch
(R102, R360; log 20); none when a table has no free place. -/
def State.imageEntries (s : State) (vf base size : Nat) : Option (List MatEntry) :=
  let lo := base / 65536
  let hi := cdiv (base + size) 65536
  let lines := if size = 0 then [] else (List.range ((hi - lo) * 64)).map fun i => lo * 65536 + i * 1024
  let units := ((lines.map fun a => (MatTarget.l2, homeDie a * 768 + sliceOf a)) ++ lines.map fun a => (MatTarget.hbm, channelOf a)).eraseDups
  units.foldr (fun u (es : Option (List MatEntry)) => es.bind fun es =>
    match (List.range 256).find? fun i => s.mat.all fun e => !(e.target = u.1 && e.unit = u.2 && e.index = i) with
    | none => none
    | some i => some ({ target := u.1, unit := u.2, index := i, w0 := BitVec.ofNat 64 (lo * 2 ^ 24 + vf * 2 ^ 12 + 0x19),
                        w1 := BitVec.ofNat 64 (hi * 2 ^ 24), shared := false } :: es)) (some [])

/-- BERTH.LOAD (R379): the state with the berth READY, or a status; nothing of a failed load stays. DESIGN CHOICE (log 72): arena bytes between
the end of one stream section and the start of the next read 0; a malformed object or WCS image and a refused binding end BAD_FIELD. -/
def State.berthLoad (s : State) (vf num : Nat) (va : Word) (size : Nat) : Except Nat State :=
  let v := s.vf vf
  if v.berths.any fun b => b.num = num then .error 7
  else if 1024 ≤ v.berths.length then .error 2
  else match s.fwRead vf va (size / 128 + 2) size with
    | (_, .error _) => .error 2
    | (s, .ok o) =>
      match elfSections o with
      | none => .error 2
      | some ss =>
        let parts := [120, 108, 99, 115].map fun letter => ss.find? (sectCode letter)
        let sizes := parts.map fun p => (p.map (·.size)).getD 0
        let lay := layImage 0 sizes
        let total := (lay.map fun l => l.1 + l.2).foldl max 0
        let body (sel : Sect → Bool) : List Byte := ((ss.find? sel).map fun x => (o.drop x.off).take x.size).getD []
        let table := body sectLaunch
        let recs := (List.range (table.length / 64)).map fun i => (table.drop (64 * i)).take 64
        let segs := (segmentsOf (body sectBerth) recs.length).getD []
        if !sectsOk ss o.length || table.length % 64 ≠ 0 || (segmentsOf (body sectBerth) recs.length).isNone ||
            segs.any (fun g => g.va.toNat % 65536 ≠ 0 || g.size % 65536 ≠ 0 || o.length < g.off + g.size) then .error 2
        else if recs.any fun r => fieldN r 0 2 ≠ 1 then .error 3
        else match s.imagePlace vf total with
          | none => .error 5
          | some base =>
            match wcsOf ss o (imageCopyAt s.copySlot) with
            | none => .error 2
            | some img => match bindsOf ss o img with
              | none => .error 2
              | some binds =>
                let bytes : List Byte := (parts.zip lay).foldl (fun (bs : List Byte) (p : Option Sect × (Nat × Nat)) => match p.1 with
                  | none => bs
                  | some (x : Sect) => fit p.2.1 bs ++ (o.drop x.off).take x.size) []
                let shared : List (Nat × Nat) := (parts.zip lay).filterMap fun (p : Option Sect × (Nat × Nat)) => match p.1 with
                  | none => none
                  | some (x : Sect) => if x.flags / 2 ^ 28 % 2 = 1 then some (base + p.2.1, base + p.2.1 + x.size) else none
                let s : State := match img with
                  | some m => s.loadBytes m.copy (imageBytes m.words)
                  | none => s
                let s : State := (s.loadBytes base bytes).setCode base bytes
                let s : State := { s with sharedCode := (s.sharedCode.filter fun r => r.2 ≤ base || base + total ≤ r.1) ++ shared }
                match s.imageEntries vf base total with
                | none => .error 5
                | some mats =>
                let s : State := { s with mat := s.mat ++ mats }
                match segs.foldl (fun (a : Option State) g => a.bind fun s =>
                    s.pinSegment vf g.va ((o.drop g.off).take g.size)) (some s) with
                | none => .error 2
                | some s =>
                  let pinned (g : Seg) : Seg := { g with pages := s.pagesOf vf g.va.toNat g.size }
                  let b : Berth :=
                    { num := num, state := 2, image := base, imageSize := total, recs := recs, segs := segs.map pinned, wcs := img,
                      binds := binds, shared := parts.any fun p => p.any fun x => x.flags / 2 ^ 28 % 2 = 1,
                      succ := succLists (body sectSucc).length (body sectSucc), sections := lay, digest := Config.shake256 o, mats := mats }
                  .ok (s.upVf vf fun v => { v with berths := v.berths ++ [b] })

/-- BERTH_LOAD. -/
def tryBerthLoad (vf ring : Nat) (s : State) : Option State :=
  tryStart (· = 4) (fun c s =>
    let b := c.body
    if !fieldsOk b [(16, 18), (24, 40)] then s.endCmd vf ring c.seq 2 0 0
    else match s.berthLoad vf (fieldN b 16 2) (fieldW b 24) (fieldN b 32 8) with
      | .error e => s.endCmd vf ring c.seq e 0 0
      | .ok s => s.endCmd vf ring c.seq 0 0 0) vf ring s

def execBerthLoad (vf ring : Nat) (s : State) : Out := .next ((tryBerthLoad vf ring s).getD s)

/-- Change a berth of a function. -/
def State.upBerth (s : State) (vf n : Nat) (f : Berth → Berth) : State :=
  s.upVf vf fun v => { v with berths := v.berths.map fun b => if b.num = n then f b else b }

/-- BERTH_DROP: the berth becomes DROPPING; the command ends when it is freed. -/
def tryBerthDrop (vf ring : Nat) (s : State) : Option State :=
  tryStart (· = 5) (fun c s =>
    let n := fieldN c.body 16 2
    if !fieldsOk c.body [(16, 18)] then s.endCmd vf ring c.seq 2 0 0
    else match (s.vf vf).berth? n with
      | none => s.endCmd vf ring c.seq 6 0 0
      | some b => if b.state ≠ 2 then s.endCmd vf ring c.seq 7 0 0 else s.upBerth vf n fun b => { b with state := 3 }) vf ring s

def execBerthDrop (vf ring : Nat) (s : State) : Out := .next ((tryBerthDrop vf ring s).getD s)

/-- Whether a launch still runs. -/
def Launch.live (l : Launch) : Bool := !l.ended && decide (l.retired < l.lrec.total)

/-- A berth's pins and arena range go (R379, R418). -/
def State.freeBerth (s : State) (vf n : Nat) : State :=
  match (s.vf vf).berth? n with
  | none => s
  | some b =>
    { ((s.upVf vf fun v => { v with berths := v.berths.filter fun x => x.num ≠ n }).setCode b.image (zeros b.imageSize)) with
        mat := s.mat.filter fun e => !b.mats.contains e
        sharedCode := s.sharedCode.filter fun r => r.2 ≤ b.image || b.image + b.imageSize ≤ r.1 }

/-- BERTH_FREE: once every command naming the berth has completed, it is freed and its DROP ends. A command behind the DROP in its own ring
waits for the DROP and is not waited for. -/
def tryBerthFree (vf berth : Nat) (s : State) : Option State :=
  match (s.vf vf).berth? berth with
  | none => none
  | some b =>
    let used := s.launches.any fun l => l.vf = vf && l.berth = berth &&
      (l.live || ((s.ring vf l.ring).cmd? l.idx).any fun c => !c.final && c.opcode ≠ opGraph)
    let drop (c : Cmd) : Bool := c.state = 2 && c.opcode = 5 && c.overAs.isNone && fieldN c.body 16 2 = berth
    let names (c : Cmd) : Bool := (c.isLaunch || c.opcode = 4 || c.opcode = 5) && fieldN c.body 16 2 = berth
    let waits := s.rings.any fun r => r.vf = vf && r.cmds.any fun c => !c.final && names c && !drop c &&
      !(r.cmds.any fun d => drop d && d.seq < c.seq)
    let inGraph := s.graphs.any fun g => g.vf = vf && !g.ended && g.nodes.any fun n => fieldN n 0 1 = 1 && fieldN n 8 2 = berth
    if b.state ≠ 3 || used || waits || inGraph then none
    else
      let s := s.freeBerth vf berth
      some ((s.rings.filter fun r => r.vf = vf).foldl (fun s r =>
        (r.cmds.filter drop).foldl (fun s c => s.endCmd vf r.num c.seq 0 0 0) s) s)

def execBerthFree (vf berth : Nat) (s : State) : Out := .next ((tryBerthFree vf berth s).getD s)

end Sys2Proof.Machine
end

