-- ==== Sys2Proof/Machine/Graph.lean ====
section
/-! DEFINITION. FC1's walk of a graph (R382 to R384): one node at a time, with the rules of release and of skipped nodes. -/

namespace Sys2Proof.Machine

/-! ## Nodes -/

/-- Byte ranges of the ARGS that a node kind names (R383). -/
def nodeNamed (kind : Nat) : List (Nat × Nat) :=
  match kind with
  | 1 => [(8, 11), (12, 56)]
  | 2 => [(8, 32)]
  | 3 => [(8, 24)]
  | 4 => [(8, 28)]
  | 5 => [(8, 32)]
  | 6 => [(8, 48)]
  | _ => []

/-- Whether a node passes the checks of R384. -/
def nodeOk (b : List Byte) : Bool :=
  let k := fieldN b 0 1
  decide (1 ≤ k) && decide (k ≤ 6) && fieldN b 1 1 < 4 && (k = 3 || k = 4 || fieldN b 4 2 = 0) && zeroIn b 6 8 &&
    (List.range 56).all fun i =>
      ((nodeNamed k).any fun n => decide (n.1 ≤ i + 8) && decide (i + 8 < n.2)) || b.getD (i + 8) 0 = 0

/-- Graph number `g` of the model's list. -/
def State.graph? (s : State) (g : Nat) : Option Graph := s.graphs[g]?

/-- Change graph `g`. -/
def State.upGraph (s : State) (g : Nat) (f : Graph → Graph) : State := { s with graphs := s.graphs.modify g f }

/-- The status with which a launch is over, once it is. -/
def State.launchOver (s : State) (n : Nat) : Option Nat :=
  match s.launch? n with
  | none => some 0
  | some l => if l.ended then some ((l.status.map (·.1)).getD 0) else if s.allRetired l then some 0 else none

/-- The first failing node is noted. -/
def Graph.fail (g : Graph) (node st : Nat) : Graph := if st = 0 then g else { g with first := g.first.orElse fun _ => some (node, st) }

/-- Launches of the graph that are over are taken off its list. -/
def State.reap (s : State) (g : Graph) : Graph :=
  let g := g.running.foldl (fun g e => match s.launchOver e.1 with
    | some st => g.fail e.2 st
    | none => g) g
  { g with running := g.running.filter fun e => (s.launchOver e.1).isNone }

/-! ## Release and the next node (R384) -/

/-- Whether the current node is released, and whether its predecessor failed or was skipped. -/
def State.nodeReleased (s : State) (g : Graph) (kind : Nat) : Option Bool :=
  match g.launch with
  | none => some g.prevFail
  | some l => match s.launchOver l with
    | some st => some (st ≠ 0)
    | none =>
      let serial := (g.prev.bind fun p => g.nodes[p]?).any fun b => fieldN b 1 1 / 2 % 2 = 1
      if kind = 1 && !serial && (s.launch? l).any fun x => x.released then some false else none

/-- The walk goes on at a successor (R384): 0xFFFF ends it, 0xFFFE returns to the LOOP, a bad index fails it. -/
def Graph.go (g : Graph) (node next : Nat) (failed : Bool) (launch : Option Nat) : Graph :=
  let g := { g with prev := some node, prevFail := failed, launch := launch, since := none, copied := 0 }
  match g.stack with
  | [] =>
    if next = 0xFFFF then { g with cur := none }
    else if next < g.nodes.length then { g with cur := some next }
    else { (g.fail node 0x12) with cur := none }
  | top :: _ =>
    if next = 0xFFFE then { g with cur := some top.1 }
    else if next < g.nodes.length then { g with cur := some next }
    else { (g.fail node 0x12) with cur := none }

/-- A node ends with a status. -/
def Graph.done (g : Graph) (node next st : Nat) : Graph := (g.fail node st).go node next (st ≠ 0) none

/-- What a node that may start meets: the completion of the launch before it performs at SYSTEM scope (R377); it is counted, and the walk's limits and the rules of skipped nodes apply. `body` runs a node of
an accepted kind that is not skipped. -/
def State.startNode (s : State) (gn : Nat) (kinds : Nat → Bool) (body : Graph → Nat → List Byte → State → State) : Option State :=
  match s.graph? gn with
  | none => none
  | some g =>
    if g.ended || g.paused || s.halting g.vf then none
    else match g.cur, g.since with
      | some node, none =>
        let b := g.nodes.getD node []
        let kind := fieldN b 0 1
        let next := fieldN b 2 2
        if !kinds kind then none
        else match s.nodeReleased g kind with
          | none => none
          | some bad =>
            let s := if (g.launch.bind s.launchOver).isSome then s.releaseVf g.vf else s
            let g := s.reap g
            let g := { g with execs := g.execs + 1 }
            let inLoop := kind = 4 && g.stack.head?.any fun t => t.1 = node
            let out (g : Graph) : Graph := if inLoop then { g with stack := g.stack.tail } else g
            let skipped := (bad && fieldN b 1 1 % 2 = 0) || (inLoop && g.skipLoop)
            if 2 ^ 24 < g.execs || (kind = 4 && !inLoop && !skipped && 4 ≤ g.stack.length) then
              some (s.upGraph gn fun _ => { (g.fail node 0x12) with cur := none })
            else if skipped then
              let g := out { g with skipLoop := false }
              let back := next = 0xFFFE && g.stack ≠ []
              some (s.upGraph gn fun _ => { (g.go node next true none) with skipLoop := back })
            else if !nodeOk b then some (s.upGraph gn fun _ => (out g).done node next 2)
            else some (body { g with skipLoop := false } node b (s.upGraph gn fun _ => { g with skipLoop := false }))
      | _, _ => none

/-! ## The node kinds (R383) -/

/-- LAUNCH_NODE: as LAUNCH; a KIND that names no node fails here too. -/
def tryLaunchNode (gn : Nat) (s : State) : Option State :=
  s.startNode gn (fun k => k = 1 || k = 0 || 6 < k) fun g node b s =>
    let next := fieldN b 2 2
    let exts := (List.range 6).map fun i => fieldN b (32 + 4 * i) 4
    let argva := fieldW b 16
    if argva.toNat % 64 ≠ 0 || exts.any fun e => decide (2 ^ 24 ≤ e) then s.upGraph gn fun _ => g.done node next 2
    else match s.launchKernel g.vf g.ring g.idx (some gn) (node + 1) (fieldN b 8 2) (fieldN b 10 1) (fieldN b 12 4) argva exts
        (fieldW b 24) g.cores g.strict with
      | .error e => s.upGraph gn fun _ => g.done node next e
      | .ok (s, l) => s.upGraph gn fun _ => { (g.go node next false (some l)) with running := g.running ++ [(l, node)] }

def execLaunchNode (graph : Nat) (s : State) : Out := .next ((tryLaunchNode graph s).getD s)

/-- One 128-byte piece of a COPY node moves. -/
def State.copyPiece (s : State) (gn node : Nat) (g : Graph) (b : List Byte) : State :=
  let next := fieldN b 2 2
  let len := fieldN b 24 8
  let n := min 128 (len - g.copied)
  let off : Word := BitVec.ofNat 64 g.copied
  if n = 0 then s.upGraph gn fun _ => g.done node next 0
  else match s.fwRead g.vf (fieldW b 8 + off) 3 n with
    | (s, .error _) => s.upGraph gn fun _ => g.done node next 0x0E
    | (s, .ok bs) => match s.fwWrite g.vf (fieldW b 16 + off) 3 bs with
      | (s, .error _) => s.upGraph gn fun _ => g.done node next 0x0E
      | (s, .ok _) =>
        if len ≤ g.copied + n then s.upGraph gn fun _ => g.done node next 0
        else s.upGraph gn fun _ => { g with copied := g.copied + n, since := some (g.since.getD s.tide) }

/-- The node that runs, when it has started: a graph pauses at a node boundary (R421). -/
def State.runningNode (s : State) (gn kind : Nat) : Option (Graph × Nat × List Byte) :=
  match s.graph? gn with
  | none => none
  | some g => match g.cur, g.since with
    | some node, some _ =>
      let b := g.nodes.getD node []
      if fieldN b 0 1 = kind && !g.ended && !(s.vf g.vf).suspended then some (g, node, b) else none
    | _, _ => none

/-- COPY_NODE: the next piece of FC1's copy. -/
def tryCopyNode (gn : Nat) (s : State) : Option State :=
  match s.runningNode gn 2 with
  | some (g, node, b) => some (s.copyPiece gn node g b)
  | none => s.startNode gn (· = 2) fun g node b s =>
    if 2 ^ 32 < fieldN b 24 8 then s.upGraph gn fun _ => g.done node (fieldN b 2 2) 2 else s.copyPiece gn node g b

def execCopyNode (graph : Nat) (s : State) : Out := .next ((tryCopyNode graph s).getD s)

/-- The test of a COND or a LOOP: whether (word & MASK) ≠ 0, or a status. -/
def State.condTest (s : State) (vf : Nat) (b : List Byte) : State × Except Nat Bool :=
  let va := fieldW b 8
  if va.toNat % 4 ≠ 0 then (s, .error 2)
  else match s.fwRead vf va 2 4 with
    | (s, .error _) => (s, .error 0x0E)
    | (s, .ok bs) => (s, .ok (((BitVec.ofNat 64 (leNat bs) : Word) &&& fieldW b 16) ≠ 0))

/-- COND. -/
def tryCond (gn : Nat) (s : State) : Option State :=
  s.startNode gn (· = 3) fun g node b s =>
    match s.condTest g.vf b with
    | (s, .error e) => s.upGraph gn fun _ => g.done node (fieldN b 2 2) e
    | (s, .ok t) => s.upGraph gn fun _ => g.done node (if t then fieldN b 2 2 else fieldN b 4 2) 0

def execCond (graph : Nat) (s : State) : Out := .next ((tryCond graph s).getD s)

/-- LOOP_NODE: one test, and the body or the successor. -/
def tryLoopNode (gn : Nat) (s : State) : Option State :=
  s.startNode gn (· = 4) fun g node b s =>
    let inLoop := g.stack.head?.any fun t => t.1 = node
    let g := if inLoop then g else { g with stack := (node, 0) :: g.stack }
    let n := ((g.stack.head?).map (·.2)).getD 0
    let next := fieldN b 2 2
    let leave (g : Graph) : Graph := { g with stack := g.stack.tail }
    if fieldN b 24 4 = 0 then s.upGraph gn fun _ => (leave g).done node next 2
    else match s.condTest g.vf b with
      | (s, .error e) => s.upGraph gn fun _ => (leave g).done node next e
      | (s, .ok t) =>
        if t && n < fieldN b 24 4 then
          s.upGraph gn fun _ => ({ g with stack := (node, n + 1) :: g.stack.tail } : Graph).done node (fieldN b 4 2) 0
        else s.upGraph gn fun _ => ({ (leave g) with passes := n } : Graph).done node next 0

def execLoopNode (graph : Nat) (s : State) : Out := .next ((tryLoopNode graph s).getD s)

/-- SIGNAL_NODE. -/
def trySignalNode (gn : Nat) (s : State) : Option State :=
  s.startNode gn (· = 5) fun g node b s =>
    let (s, st) := s.signal g.vf (fieldN b 8 8) (fieldW b 16) (fieldW b 24)
    s.upGraph gn fun _ => g.done node (fieldN b 2 2) st

def execSignalNode (graph : Nat) (s : State) : Out := .next ((trySignalNode graph s).getD s)

/-- WAIT_NODE: it starts, its condition holds, or its time is over. -/
def tryWaitNode (gn : Nat) (s : State) : Option State :=
  match s.runningNode gn 6 with
  | some (g, node, b) =>
    let next := fieldN b 2 2
    let t := fieldN b 40 8
    let late := t ≠ 0 && decide (g.since.getD 0 + t * 1024 ≤ s.tide)
    match s.poll g.vf (fieldN b 8 8) (fieldW b 16) (fieldW b 24) (fieldW b 32) with
    | (t, none) => some (t.upGraph gn fun _ => g.done node next 0x0E)
    | (t, some (_, true)) => some (t.upGraph gn fun _ => g.done node next 0)
    | (t, some (_, false)) => if late then some (t.upGraph gn fun _ => g.done node next 0x0D) else s.polled t
  | none => s.startNode gn (· = 6) fun g node b s =>
    if (fieldW b 16).toNat % 8 ≠ 0 || 1 < fieldN b 8 8 then s.upGraph gn fun _ => g.done node (fieldN b 2 2) 2
    else s.upGraph gn fun _ => { g with since := some s.tide }

def execWaitNode (graph : Nat) (s : State) : Out := .next ((tryWaitNode graph s).getD s)

/-! ## GRAPH (R382) -/

/-- The GRAPH of a slot's bytes: FC0 copies the node array. -/
def State.doGraph (s : State) (vf ring idx : Nat) (b : List Byte) (cores : Option (List Nat)) (strict : Bool) : State :=
  let va := fieldW b 24
  let n := fieldN b 32 4
  let entry := fieldN b 36 2
  if !fieldsOk b [(24, 38)] || va.toNat % 64 ≠ 0 || n = 0 || 4096 < n then s.endCmd vf ring idx 2 0 0
  else match s.fwRead vf va (n + 2) (64 * n) with
    | (s, .error _) => s.endCmd vf ring idx 0x0E 0 0
    | (s, .ok bs) =>
      let g : Graph :=
        { vf := vf, ring := ring, idx := idx, nodes := (List.range n).map fun i => (bs.drop (64 * i)).take 64,
          cur := if entry < n then some entry else none, prev := none, stack := [], execs := 0,
          first := if entry < n then none else some (0xFFFF, 0x12), prevFail := false, skipLoop := false, passes := 0, launch := none,
          copied := 0, since := none, running := [], ended := false, paused := false, cores := cores, strict := strict }
      { s with graphs := s.graphs ++ [g] }.upCmd vf ring idx fun c => { c with graph := some s.graphs.length }

/-- RESULT of a graph (R384). -/
def Graph.result (g : Graph) : Word :=
  BitVec.ofNat 64 (((g.first.map (·.1)).getD 0xFFFF) % 2 ^ 16 * 2 ^ 48 + g.passes % 2 ^ 32)

/-- A graph whose walk is over and whose launches are: its status. -/
def State.graphOver (s : State) (gn : Nat) : Option (Graph × Nat) :=
  match s.graph? gn with
  | none => none
  | some g =>
    let g := s.reap g
    if g.cur.isNone && g.running = [] then some (g, (g.first.map (·.2)).getD 0) else none

end Sys2Proof.Machine
end

