-- ==== Sys2Proof/Machine/Command.lean ====
section
/-! DEFINITION. The start of LAUNCH, INVOKE and GRAPH, captures and replays (R385, R386), the completion of commands (R377) and the
ring controls (R375). The bytes of a capture record are laid out here (log 37). -/

namespace Sys2Proof.Machine

/-! ## Captures (R385) -/

/-- A capture ends with a status. -/
def State.endCapture (s : State) (vf ring st : Nat) : State :=
  match (s.ring vf ring).cap with
  | none => s
  | some cap => (s.upRing vf ring fun r => { r with cap := none }).endCmd vf ring cap.cmd st 0 0

/-- Read several ranges of a function's space. -/
def State.readRegs (s : State) (vf : Nat) : List (Word × Nat) → State × Option (List (List Byte))
  | [] => (s, some [])
  | (va, n) :: t =>
    match s.fwRead vf va (n / 128 + 2) n with
    | (s, .error _) => (s, none)
    | (s, .ok bs) => match s.readRegs vf t with
      | (s, some r) => (s, some (bs :: r))
      | (s, none) => (s, none)

/-- A command that a running capture takes: its regions are read before it runs, and it runs as SERIAL. -/
def State.capBegin (s : State) (vf ring : Nat) (c : Cmd) : State :=
  match (s.ring vf ring).cap with
  | none => s
  | some cap =>
    if cap.left = 0 || cap.cur.isSome then s
    else match s.readRegs vf cap.regs with
      | (s, none) => s.endCapture vf ring 0x0E
      | (s, some bs) =>
        let head := (cap.regs.zip bs).flatMap fun e => natBytes e.1.1.toNat 8 ++ natBytes e.1.2 8 ++ e.2
        let now : Capture := { cap with cur := some c.seq, before := head, launches := [], nlaunch := 0 }
        (s.upRing vf ring fun r => { r with cap := some now }).upCmd vf ring c.seq fun c => { c with flags := c.flags ||| 2 }

/-- The bytes of a record: its size, the counts of regions and launches, the slot, the launches (modified record, argument block,
berth's digest), the regions as they were, and the digests of the regions as they are. -/
def recordBytes (slot launches before : List Byte) (nreg nlaunch : Nat) (digests : List Byte) : List Byte :=
  let n := 16 + 128 + launches.length + before.length + digests.length
  natBytes n 8 ++ natBytes nreg 2 ++ natBytes nlaunch 2 ++ zeros 4 ++ slot ++ launches ++ before ++ digests

/-- The end of a captured command: its record goes to the buffer, or the capture ends. -/
def State.capEnd (s : State) (vf ring : Nat) (c : Cmd) : State :=
  match (s.ring vf ring).cap with
  | none => s
  | some cap =>
    if cap.cur ≠ some c.seq then s
    else match s.readRegs vf cap.regs with
      | (s, none) => s.endCapture vf ring 0x0E
      | (s, some bs) =>
        let dig := bs.flatMap fun b => fit 64 (Config.shake256 b)
        let rec_ := recordBytes c.body cap.launches cap.before cap.regs.length cap.nlaunch dig
        if cap.bufsize < cap.used + rec_.length then s.endCapture vf ring 0x10
        else match s.fwWrite vf (cap.bufva + BitVec.ofNat 64 cap.used) (rec_.length / 128 + 2) rec_ with
          | (s, .error _) => s.endCapture vf ring 0x0E
          | (s, .ok _) =>
            let now : Capture :=
              { cap with used := cap.used + rec_.length, records := cap.records + 1, left := cap.left - 1, cur := none, before := [],
                         launches := [], nlaunch := 0 }
            let s := s.upRing vf ring fun r => { r with cap := some now }
            if now.left = 0 then s.endCapture vf ring 0 else s

/-- CAPTURE: it runs until its last captured command completes, and lets the next command start. What FC4 was told of an earlier capture of the
ring goes (R451). -/
def tryCapture (vf ring : Nat) (s : State) : Option State :=
  tryStart (· = 9) (fun c s =>
    let b := c.body
    let n := fieldN b 16 2
    let nreg := fieldN b 18 2
    if !fieldsOk b [(16, 20), (24, 104)] || n = 0 || 64 < n || 4 < nreg || (s.ring vf ring).cap.isSome then s.endCmd vf ring c.seq 2 0 0
    else
      let cap : Capture :=
        { cmd := c.seq, left := n, bufva := fieldW b 24, bufsize := fieldN b 32 8, used := 0, records := 0,
          regs := (List.range nreg).map fun i => (fieldW b (40 + 16 * i), fieldN b (48 + 16 * i) 8), cur := none, before := [],
          launches := [], nlaunch := 0 }
      let s : State := { s with placements := s.placements.filter fun p => !(p.vf = vf && p.ring = ring) }
      (s.upRing vf ring fun r => { r with cap := some cap }).upCmd vf ring c.seq fun c => { c with released := true }) vf ring s

def execCapture (vf ring : Nat) (s : State) : Out := .next ((tryCapture vf ring s).getD s)

/-! ## LAUNCH, INVOKE, GRAPH -/

/-- LAUNCH (R378). -/
def tryLaunch (vf ring : Nat) (s : State) : Option State :=
  tryStart (· = opLaunch) (fun c s => (s.capBegin vf ring c).doLaunch vf ring c.seq c.body none false) vf ring s

def execLaunch (vf ring : Nat) (s : State) : Out := .next ((tryLaunch vf ring s).getD s)

/-- INVOKE (R380). -/
def tryInvoke (vf ring : Nat) (s : State) : Option State :=
  tryStart (· = opInvoke) (fun c s => (s.capBegin vf ring c).doInvoke vf ring c.seq c.taccept c.body none none false) vf ring s

def execInvoke (vf ring : Nat) (s : State) : Out := .next ((tryInvoke vf ring s).getD s)

/-- GRAPH (R382). -/
def tryGraph (vf ring : Nat) (s : State) : Option State :=
  tryStart (· = opGraph) (fun c s => (s.capBegin vf ring c).doGraph vf ring c.seq c.body none false) vf ring s

def execGraph (vf ring : Nat) (s : State) : Out := .next ((tryGraph vf ring s).getD s)

/-! ## REPLAY (R386) -/

/-- The address of record `n` of a capture buffer. -/
def State.findRecord (s : State) (vf : Nat) (va : Word) : Nat → State × Option Word
  | 0 => (s, some va)
  | n + 1 =>
    match s.fwRead vf va 2 8 with
    | (s, .error _) => (s, none)
    | (s, .ok b) => if leNat b < 144 then (s, none) else s.findRecord vf (va + BitVec.ofNat 64 (leNat b)) n

/-- Skip the launches of a record. -/
def skipLaunches : Nat → List Byte → List Byte
  | 0, b => b
  | n + 1, b => skipLaunches n (b.drop (64 + fieldN b 56 4 + 64))

/-- The regions of a record: address, size, bytes; and what follows them. -/
def recordRegs : Nat → List Byte → List (Word × List Byte) × List Byte
  | 0, b => ([], b)
  | n + 1, b =>
    let sz := fieldN b 8 8
    let (r, t) := recordRegs n (b.drop (16 + sz))
    ((fieldW b 0, (b.drop 16).take sz) :: r, t)

/-- The cores that a placement names: a die mask and a core mask, 0 meaning any (R386). -/
def placementCores (p : Nat) : Option (List Nat) :=
  let dm := p % 256
  let cm := p / 256 % 65536
  some ((List.range 128).filter fun n => (dm = 0 || dm.testBit (n / 16)) && (cm = 0 || cm.testBit (n % 16)))

/-- The recorded command of record `n` of a buffer runs again as command `c` of a ring (R386): its regions are restored, and it runs in strict
mode on some cores. -/
def State.runRecord (s : State) (vf ring : Nat) (c : Cmd) (bufva : Word) (n : Nat) (cores : Option (List Nat)) : State :=
  match s.findRecord vf bufva n with
  | (s, none) => s.endCmd vf ring c.seq 2 0 0
  | (s, some va) => match s.fwRead vf va 2 8 with
    | (s, .error _) => s.endCmd vf ring c.seq 0x0E 0 0
    | (s, .ok h) =>
      let size := leNat h
      match s.fwRead vf va (size / 128 + 2) size with
      | (s, .error _) => s.endCmd vf ring c.seq 0x0E 0 0
      | (s, .ok r) =>
        let slot := (r.drop 16).take 128
        let nl := fieldN r 10 2
        let args := ((r.drop (144 + 64)).take 128)
        let (regs, rest) := recordRegs (fieldN r 8 2) (skipLaunches nl (r.drop 144))
        let back := regs.foldl (fun (a : State × Bool) g =>
          match a.1.fwWrite vf g.1 (g.2.length / 128 + 2) g.2 with
          | (s, .ok _) => (s, a.2)
          | (s, .error _) => (s, false)) (s, true)
        let op := fieldN slot 8 1
        if size < 144 then back.1.endCmd vf ring c.seq 2 0 0
        else if !back.2 then back.1.endCmd vf ring c.seq 0x0E 0 0
        else
          let want := regs.zipIdx.map fun e => (e.1.1, e.1.2.length, (rest.drop (64 * e.2)).take 64)
          let s := back.1.upCmd vf ring c.seq fun c => { c with regs := want }
          let s := if op = opLaunch then s.doLaunch vf ring c.seq slot cores true
            else if op = opInvoke then s.doInvoke vf ring c.seq c.taccept slot (if nl = 0 then none else some args) cores true
            else if op = opGraph then s.doGraph vf ring c.seq slot cores true
            else s.endCmd vf ring c.seq 2 0 0
          s.upCmd vf ring c.seq fun c => { c with launchid := 0 }

/-- REPLAY: on the cores that its placement names. -/
def tryReplay (vf ring : Nat) (s : State) : Option State :=
  tryStart (· = 0x0A) (fun c s =>
    let b := c.body
    if !fieldsOk b [(16, 40)] || 2 ^ 24 ≤ fieldN b 32 8 then s.endCmd vf ring c.seq 2 0 0
    else s.runRecord vf ring c (fieldW b 24) (fieldN b 16 8) (placementCores (fieldN b 32 4))) vf ring s

def execReplay (vf ring : Nat) (s : State) : Out := .next ((tryReplay vf ring s).getD s)

/-- The comparison of a REPLAY's regions with its record: a bit for each that differs. -/
def State.replayDiff (s : State) (vf : Nat) (c : Cmd) : State × Nat :=
  c.regs.zipIdx.foldl (fun (a : State × Nat) e =>
    let n := e.1.2.1
    match a.1.fwRead vf e.1.1 (n / 128 + 2) n with
    | (s, .ok bs) => (s, if fit 64 (Config.shake256 bs) = e.1.2.2 then a.2 else a.2 + 2 ^ e.2)
    | (s, .error _) => (s, a.2 + 2 ^ e.2)) (s, 0)

/-! ## Completion (R377) -/

/-- The final state, status, cause and RESULT of a running command whose work is over. -/
def State.cmdOver (s : State) (c : Cmd) : Option (Nat × Nat × Nat × Word) :=
  match c.overAs with
  | some st => some (st, c.status, c.cause, c.result)
  | none => match c.launch.bind s.launch?, c.graph with
    | some l, _ =>
      if l.ended then
        let (st, cause) := l.status.getD (0, 0)
        some (if st = 0 then 3 else if st = 0x0C then 6 else 4, st, cause, 0)
      else if s.allRetired l then some (3, 0, 0, 0) else none
    | none, some gn => match s.graphOver gn with
      | none => none
      | some (g, st) =>
        let node := (g.first.map (·.1)).getD 0
        let cause := ((s.launches.find? fun l =>
          l.graph = some gn && bitsN l.ident 15 0 = node + 1 && (l.status.map (·.1)) = some 0x0A).bind fun l => l.status.map (·.2)).getD 0
        some (if st = 0 then 3 else 4, st, if st = 0x0A then cause else 0, g.result)
    | none, none => none

/-- COMMAND_COMPLETE (R377): the command's effects perform at SYSTEM scope, then its entry becomes final. -/
def tryCommandComplete (vf ring idx : Nat) (s : State) : Option State :=
  match (s.ring vf ring).cmd? idx with
  | none => none
  | some c =>
    if c.state ≠ 2 || ring = fwRing || (s.vf vf).suspended then none
    else match s.cmdOver c with
      | none => none
      | some (st, status, cause, result) =>
        let s := s.releaseVf vf
        let s := match c.graph with
          | some gn => s.upGraph gn fun g => { g with ended := true }
          | none => s
        let ran := c.opcode = 0x0A && status ≠ 0x0C && (c.launch.isSome || c.graph.isSome)
        let (s, diff) := if ran then s.replayDiff vf c else (s, 0)
        let (st, status, result) :=
          if diff ≠ 0 then (4, 0x11, (BitVec.ofNat 64 diff : Word)) else (st, status, if c.opcode = 0x0A then 0 else result)
        let cause := if diff ≠ 0 then 0 else cause
        let s := s.capEnd vf ring c
        let s := s.upCmd vf ring idx fun c => { c with status := status, cause := cause, result := result }
        some (s.finishCmd vf ring idx st)

def execCommandComplete (vf ring idx : Nat) (s : State) : Out := .next ((tryCommandComplete vf ring idx s).getD s)

/-! ## Ring controls (R375) -/

/-- Whether RINGCTL reaches an enabled ring. -/
def State.ringOn (s : State) (vf ring : Nat) : Bool := s.ringPage vf ring && (s.ring vf ring).en

/-- HALT: acceptance stops. -/
def execHalt (vf ring : Nat) (s : State) : Out :=
  .next (if s.ringOn vf ring then s.upRing vf ring fun r => { r with state := 2 } else s)

/-- RESUME. -/
def execResume (vf ring : Nat) (s : State) : Out :=
  .next (if s.ringOn vf ring then s.upRing vf ring fun r => { r with state := 1, wrerr := false } else s)

/-- Every accepted command that has not started becomes CANCELLED, and so does a WAIT that still waits (R375, R422; log 87). -/
def State.cancelRing (s : State) (vf ring : Nat) : State :=
  ((s.ring vf ring).cmds.filter fun c => c.state = 1 || (c.state = 2 && c.opcode = 7 && c.overAs.isNone)).foldl (fun s c =>
    (s.upCmd vf ring c.seq fun c => { c with status := 0x0C }).finishCmd vf ring c.seq 6) s

/-- CANCEL. -/
def execCancel (vf ring : Nat) (s : State) : Out := .next (if s.ringOn vf ring then s.cancelRing vf ring else s)

/-- A running command ends with status CANCELLED, its launches under R310; RESULT is what a graph's walk, or the last read of a WAIT, has left
(R381, R384). The message of a FW.REQ leaves its mailbox, and no later answer of it reaches the command (R387, R390). -/
def State.killCmd (s : State) (vf ring : Nat) (c : Cmd) : State :=
  let last := ((c.graph.bind s.graph?).map fun g => (s.reap g).result).getD c.result
  let s := match c.launch with
    | some l => s.killLaunch l 0x0C 0
    | none => s
  let s := match c.graph.bind fun gn => (s.graph? gn).map fun g => (gn, g) with
    | some (gn, g) =>
      let s := g.running.foldl (fun (s : State) (e : Nat × Nat) => s.killLaunch e.1 0x0C 0) s
      s.upGraph gn fun g => { g with ended := true, cur := none }
    | none => s
  let s := if c.opcode = 9 then s.upRing vf ring fun r => { r with cap := none } else s
  let s := if c.opcode = 0x20 then
      { s with mail := if vf = 0 then s.mail.erase c.mail else s.mail, edits := s.edits.filter fun e => !(vf = 0 && e.q.ring = ring && e.q.seq = c.seq) }
    else s
  s.upCmd vf ring c.seq fun c => { c with status := 0x0C, cause := 0, result := last, overAs := some 6 }

/-- CANCEL, and every running command of a ring ends. -/
def State.killRing (s : State) (vf ring : Nat) : State :=
  let s := s.cancelRing vf ring
  ((s.ring vf ring).cmds.filter fun c => c.state = 2).foldl (fun s c => s.killCmd vf ring c) s

/-- KILL. -/
def execKill (vf ring : Nat) (s : State) : Out := .next (if s.ringOn vf ring then s.killRing vf ring else s)

/-- RESET: a halted ring with no running command is disabled. -/
def execReset (vf ring : Nat) (s : State) : Out :=
  let r := s.ring vf ring
  .next (if !s.ringOn vf ring then s
    else if r.state = 2 && r.cmds.all fun c => c.state ≠ 2 then
      s.upRing vf ring fun r => { r with en := false, state := 0, cmds := [], cap := none }
    else s.upRing vf ring fun r => { r with wrerr := true })

end Sys2Proof.Machine
end

