-- ==== Sys2Proof/Machine/Firmware.lean ====
section
/-! DEFINITION. Requests of the physical function to the firmware cores (R391, R410 to R423) and their replies. Each event is one
request with its payload; fields of a reply that the spec gives no place stand from byte 16 on (log 38). -/

namespace Sys2Proof.Machine

/-! ## Requests and replies (R391) -/

def repOk : Nat := 0x00
def repBadField : Nat := 0x01
def repNotPermitted : Nat := 0x02
def repSharedCode : Nat := 0x03
def repExternalWait : Nat := 0x20
def repTdiLocked : Nat := 0x21

/-- The answer of a request: status, and bytes 9 to 63 of the reply. -/
structure FwAns where
  status : Nat
  rest : List Byte := []
deriving DecidableEq, Repr

/-- An answer with 64-bit words from byte 16 on. -/
def FwAns.words (ws : List Word) : FwAns := { status := 0, rest := zeros 7 ++ ws.flatMap fun w => natBytes w.toNat 8 }

/-- The 64 bytes of a reply. -/
def replyBytes (kind core seq : Nat) (a : FwAns) : List Byte :=
  fit 64 (natBytes kind 2 ++ natBytes core 1 ++ zeros 1 ++ natBytes seq 4 ++ natBytes a.status 1 ++ a.rest)

/-- The FW.REQ command whose message stands first in a core's mailbox and that a request answers (R390, R391): TARGET, KIND, REPLYVA and
the sequence number are the slot's. The operands of the request are the payload, whose layout the spec does not give (log 38). -/
def State.asking (s : State) (q : FwReq) (core kind : Nat) : Option Cmd :=
  ((s.ring q.vf q.ring).cmd? q.seq).filter fun c =>
    c.state = 2 && c.overAs.isNone && c.opcode = 0x20 && c.mail.core = core && c.mail.kind = kind && fieldW c.body 24 = q.replyVa &&
      (s.mailbox core 0).head? = some c.mail

/-- The core takes the message out of its mailbox. -/
def State.takeMail (s : State) (c : Cmd) : State := { s with mail := s.mail.erase c.mail }

/-- A request is answered (R391): the reply is written at REPLYVA, and the FW.REQ command ends DONE with the reply's status as RESULT. A
command that has been killed gets none (R387). -/
def State.answer (s : State) (q : FwReq) (core kind : Nat) (a : FwAns) : State :=
  let bs := replyBytes kind core q.seq a
  if ((s.ring q.vf q.ring).cmd? q.seq).any fun c => c.state = 2 && c.overAs.isNone then
    let s := (s.fwWrite 0 q.replyVa 3 bs).1
    ({ s with replies := s.replies ++ [(q.ring, bs)] }).endCmd q.vf q.ring q.seq 0 0 (BitVec.ofNat 64 a.status)
  else s

/-- A request runs (R390, R391): the core takes its message, does what it asks and answers. Without that message at the head of the mailbox
there is no request. A VF's request ends NOT_PERMITTED and does nothing. -/
def fwRun (q : FwReq) (core kind : Nat) (body : State → State × FwAns) (s : State) : Out :=
  .next (match (if s.booted && q.vf = 0 then s.asking q core kind else none) with
    | none => s
    | some c =>
      let (s, a) := body (s.takeMail c)
      s.answer q core kind a)

/-- A request about a function (R410, R418): a disabled one gets BAD_FIELD, one that is being reset NOT_PERMITTED. -/
def aboutVf (vf : Nat) (body : State → State × FwAns) (s : State) : State × FwAns :=
  if !(s.vf vf).enabled || 4096 ≤ vf then (s, { status := repBadField })
  else if (s.vf vf).resetting then (s, { status := repNotPermitted })
  else body s

/-- Whether a function's TDI is CONFIG_LOCKED or RUN (R424). -/
def State.tdiLocked (s : State) (vf : Nat) : Bool := (s.vf vf).tdi = 1 || (s.vf vf).tdi = 2

/-- A condition that refuses a request, and the change that it makes otherwise. -/
def orElseDo (s : State) (bad : Bool) (st : Nat) (body : State × FwAns) : State × FwAns := if bad then (s, { status := st }) else body

/-! ## FC1 -/

/-- TOKGRANT_SET (R394). -/
def execTokgrantSet (q : FwReq) (vf grant : Nat) (s : State) : Out :=
  fwRun q 1 0x0101 (aboutVf vf fun s =>
    orElseDo s (65535 < grant) repBadField (s.upVf vf fun v => { v with grant := grant }, { status := 0 })) s

/-- VFCTL_SET (R412, R413): contexts created later take it. -/
def execVfctlSet (q : FwReq) (vf : Nat) (featmask : Word) (scopelimit : Nat) (dbgen : Bool) (s : State) : Out :=
  fwRun q 1 0x0102 (aboutVf vf fun s =>
    if 4 < scopelimit then (s, { status := repBadField })
    else if s.tdiLocked vf then (s, { status := repTdiLocked })
    else (s.upVf vf fun v => { v with featmask := featmask &&& 0x3F, scopelimit := some scopelimit, dbgen := dbgen }, { status := 0 })) s

/-- A sleeve that is not in use. -/
def Sleeve.free (n : Nat) : Sleeve := { num := n, kind := 0, slots := 1, owner := 0, cores := [], base := 0, limit := 0, drain := 0 }

/-- The sleeve of a number. -/
def State.sleeve (s : State) (n : Nat) : Sleeve := (s.sleeves.find? fun z => z.num = n).getD (Sleeve.free n)

/-- Replace a sleeve's record. -/
def State.putSleeve (s : State) (z : Sleeve) : State := { s with sleeves := (s.sleeves.filter fun y => y.num ≠ z.num) ++ [z] }

/-- Functions joined to a sleeve. -/
def State.joined (s : State) (n : Nat) : List Nat := (s.vfs.filter fun e => e.2.sleeve = some n).map (·.1)

/-- Whether a number names a sleeve (R408). -/
def sleeveNo (n : Nat) : Bool := decide (1 ≤ n) && decide (n ≤ 63)

/-- Whether a function joined to a sleeve is locked (R424). -/
def State.sleeveLocked (s : State) (n : Nat) : Bool := (s.joined n).any fun v => s.tdiLocked v

/-- DRAIN_SET (R315, R410). -/
def execDrainSet (q : FwReq) (sleeve bound : Nat) (s : State) : Out :=
  fwRun q 1 0x0103 (fun s =>
    if !sleeveNo sleeve || !(bound = 0 || (2 ^ 14 ≤ bound && bound ≤ 2 ^ 34)) then (s, { status := repBadField })
    else orElseDo s (s.sleeveLocked sleeve) repTdiLocked (s.putSleeve { s.sleeve sleeve with drain := bound }, { status := 0 })) s

/-! ## FC2: L2 controls (R361, R391) -/

/-- L2CLS_WRITE: reserved bits are ignored, a SOFTLIM above 128 is refused. Mask and limit are parts of the sleeve of the class's number (R408,
R424). -/
def execL2clsWrite (q : FwReq) (die cls : Nat) (value : Word) (s : State) : Out :=
  fwRun q 2 0x0201 (fun s =>
    if 8 ≤ die || 64 ≤ cls || 128 < bitsN value 39 32 then (s, { status := repBadField })
    else orElseDo s (s.sleeveLocked cls) repTdiLocked
      (s.upL2c die cls fun c => { c with softlim := bitsN value 39 32, waymask := value.extractLsb' 0 16 }, { status := 0 })) s

/-- L2MON_WRITE. -/
def execL2monWrite (q : FwReq) (die slice : Nat) (s : State) : Out :=
  fwRun q 2 0x0202 (fun s =>
    orElseDo s (8 ≤ die || 768 ≤ slice) repBadField ({ s with l2mon := vmod s.l2mon die fun _ => slice }, { status := 0 })) s

/-- Lines of the L2 that a test selects leave it, each counted for its class. -/
def State.l2out (s : State) (sel : Nat → L2Line → Bool) : State :=
  s.l2.foldl (fun s e => (e.2.filter fun l => sel (e.1 / 6144) l).foldl (fun s l => s.l2drop (e.1 / 6144) e.1 l) s) s

/-- L2FLUSH: every line of a class on a die is written back and invalidated. -/
def execL2flush (q : FwReq) (die cls : Nat) (s : State) : Out :=
  fwRun q 2 0x0203 (fun s =>
    orElseDo s (8 ≤ die || 64 ≤ cls) repBadField (s.l2out fun d l => d = die && l.cls = cls, { status := 0 })) s

/-- L2CNT_READ: L2OCC, L2FILL and L2VICT. -/
def execL2cntRead (q : FwReq) (die cls : Nat) (s : State) : Out :=
  fwRun q 2 0x0204 (fun s =>
    let c := s.l2c die cls
    let occ : Word := BitVec.ofNat 64 (s.l2occ die (vgetD s.l2mon die 0) cls * 2 ^ 32 + s.l2occDie die cls)
    orElseDo s (8 ≤ die || 64 ≤ cls) repBadField (s, FwAns.words [occ, c.fill, c.vict])) s

/-! ## FC2: sleeves (R408 to R411) -/

/-- A context is destroyed, its allotment zero-filled (R26, R418). -/
def State.destroy (s : State) (c : Nat) : State :=
  let k := s.ctx c
  let s := match k.core with
    | none => s
    | some core =>
      let s := s.releaseAll c
      s.upCore core fun h =>
        { h with
          spad := sclear h.spad (k.baseBlk * 16384) (k.endBlk * 16384)
          spadErr := h.spadErr.filter fun w => w < k.baseBlk * 2048 || k.endBlk * 2048 ≤ w
          dir := sclear h.dir k.baseBlk k.endBlk
          tiles := (List.range k.acount).foldl (fun v i => vmod v (k.abase + i) fun _ => Tile.zero) h.tiles
          bars := (List.range k.bcount).foldl (fun v i => vmod v (k.bbase + i) fun _ => Barrier.raw) h.bars }
  s.upCtx c fun _ => Ctx.blank

/-- Contexts of a function. -/
def State.ctxsOf (s : State) (vf : Nat) : List Nat :=
  (List.range s.ctxs.length).filter fun c => (s.ctx c).vf = vf && (s.ctx c).run ≠ .gone

/-- Cores from a 128-bit map. -/
def coresOf (m : Nat) : List Nat := (List.range 128).filter fun n => m.testBit n

/-- Whether two ranges have a byte in common. -/
def spansMeet (a b c d : Nat) : Bool := decide (a < d) && decide (c < b)

/-- Cores that left a sleeve and hold iterations are lease-pending until they are idle (R411). -/
def State.dropCores (s : State) (gone : List Nat) : State :=
  gone.foldl (fun s n => if s.residents n = [] then s else s.upCore n fun h => { h with leasePending := true, pendingSince := s.tide }) s

/-- The contexts of a core that hold an iteration which a checkpoint or a save can take off it. -/
def State.holders (s : State) (n : Nat) : List Nat :=
  (List.range s.ctxs.length).filter fun c => (s.ctx c).core = some n && (s.ctx c).iter.isSome && match (s.ctx c).run with
    | .running | .faulted | .halted | .paging _ => true
    | _ => false

/-- A core that left its sleeve: once it is idle its contexts are switched out, and it is free for its new sleeve; what still holds it after
60 s is checkpointed (R401, R411). -/
def State.settleCore (s : State) (n : Nat) : State :=
  let h := s.core n
  let leased := s.leases.any fun l => l.kind = .core && l.unit = n && l.open?
  let mine := (List.range s.ctxs.length).filter fun c => (s.ctx c).core = some n && (s.ctx c).run ≠ .gone
  if !h.leasePending || leased || !h.inService then s
  else if !(mine.all fun c => (s.ctx c).run = .idle && (s.ctx c).quiet) then
    (if h.pendingSince + 162000000000 ≤ s.tide then (s.holders n).foldl (fun s c => s.forceOut c) s else s)
  else if s.coreHeld n then s
  else (mine.foldl (fun s c => s.switchOut c) s).upCore n fun h => { h with leasePending := false }

/-- Whether a range holds what a function of a sleeve needs of it (R411): its window, and the device pages that its berths pin. -/
def Vf.within (v : Vf) (base limit : Nat) : Bool :=
  decide (base ≤ v.winBase) && decide (v.winLimit ≤ limit) && v.berths.all fun b => b.segs.all fun g => g.pages.all fun p =>
    !isDevice p || (decide (base ≤ p) && decide (p + 65536 ≤ limit))

/-- Retired channels whose range has left every sleeve no longer serve in WATCH (R448). -/
def State.settleRetired (s : State) : State :=
  let gone (l : Lease) : Bool := l.kind = .channel && l.state = 5 && l.outcome = 3 && s.withdrawn l.unit &&
    s.retired.any fun r => r.kind = .channel && r.unit = l.unit
  { s with leases := s.leases.map fun l => if gone l then { l with state := 6 } else l }

/-- SLEEVE_SET (R408, R409, R411): no range takes in what a retired channel took out of service (R448). -/
def State.setSleeve (s : State) (n kind slots owner coreMap base limit : Nat) : State × FwAns :=
  let z := s.sleeve n
  let js := s.joined n
  let cores := if kind = 0 then [] else coresOf coreMap
  let bad :=
    !sleeveNo n || 2 < kind || slots = 0 || 4 < slots || 2 ^ 128 ≤ coreMap ||
    4096 ≤ owner || (kind ≠ 0 && !(s.vf owner).enabled) || (kind = 0 && js ≠ []) ||
    (kind ≠ 0 && (base % 65536 ≠ 0 || limit % 65536 ≠ 0 || limit < base || 2 ^ 41 < limit)) ||
    (kind = 1 && (js.any (· ≠ owner) || ((s.vf owner).sleeve).any (· ≠ n))) ||
    (kind ≠ 0 && s.sleeves.any fun y => y.num ≠ n && y.kind ≠ 0 &&
      (cores.any (fun c => y.cores.contains c) || spansMeet base limit y.base y.limit)) ||
    (kind ≠ 0 && js.any fun v => !(s.vf v).within base limit) ||
    (kind ≠ 0 && s.retired.any fun r => r.kind = .channel && s.withdrawn r.unit &&
      spansMeet base limit (s.withdrawnAt r.unit) (s.withdrawnAt r.unit + 2 ^ 31))
  if bad then (s, { status := repBadField })
  else if (if kind = 1 then owner :: js else js).any fun v => s.tdiLocked v then (s, { status := repTdiLocked })
  else
    let gone := z.cores.filter fun c => !cores.contains c
    let s := s.putSleeve { z with num := n, kind := kind, slots := slots, owner := owner, cores := cores, base := base, limit := limit }
    let s := if kind = 1 then
        s.upVf owner fun v => { v with sleeve := some n, winBase := base, winLimit := limit }
      else s
    let same := (z.cores.filter fun c => (s.core c).inService) = cores.filter fun c => (s.core c).inService
    let s := s.dropCores gone
    ((if same then s else s.capChange n).settleRetired, { status := 0 })

def execSleeveSet (q : FwReq) (sleeve kind slots owner coreMap base limit : Nat) (s : State) : Out :=
  fwRun q 2 0x0205 (fun s => s.setSleeve sleeve kind slots owner coreMap base limit) s

/-- SLEEVE_JOIN (R409, R410): a zero limit leaves, once the function's contexts run nothing. -/
def execSleeveJoin (q : FwReq) (vf sleeve base limit : Nat) (s : State) : Out :=
  fwRun q 2 0x0206 (aboutVf vf fun s =>
    let z := s.sleeve sleeve
    let v := s.vf vf
    let mine := s.ctxsOf vf
    if s.tdiLocked vf then (s, { status := repTdiLocked })
    else if limit = 0 then
      orElseDo s (v.sleeve ≠ some sleeve || mine.any fun c => !((s.ctx c).run = .idle || ((s.ctx c).run = .saved && (s.ctx c).iter.isNone)))
        repBadField
        ((mine.foldl (fun s c => s.destroy c) s).upVf vf fun v => { v with sleeve := none, winBase := 0, winLimit := 0 }, { status := 0 })
    else
      let clash := (s.joined sleeve).any fun u => u ≠ vf && spansMeet base limit (s.vf u).winBase (s.vf u).winLimit
      orElseDo s (!sleeveNo sleeve || z.kind ≠ 2 || v.sleeve.any (· ≠ sleeve) || base % 65536 ≠ 0 || limit % 65536 ≠ 0 || limit ≤ base ||
          base < z.base || z.limit < limit || clash) repBadField
        (s.upVf vf fun v => { v with sleeve := some sleeve, winBase := base, winLimit := limit }, { status := 0 })) s

/-! ## FC2: access tables and page tables (R356, R360, R415) -/

/-- How many units of a target keep a table (log 6). -/
def matUnits : MatTarget → Nat
  | .hbm => 1024
  | .l2 => 6144
  | .scratchpad => 128
  | .csr => 8
  | .quay => 24

/-- The table that holds the entry of a level for an address. -/
def State.tableAt (s : State) (va level : Nat) : Nat → Nat → Option Nat
  | lvl, table =>
    if lvl ≤ level then (if lvl = level then some table else none)
    else
      let e : Word := BitVec.ofNat 64 (leNat (s.homeBytes 4096 (entryPa table lvl va) 8))
      if !bitN e 0 || bitN e 1 || malformed e lvl then none
      else match lvl with
        | 0 => none
        | n + 1 => s.tableAt va level n (bitsN e 51 8 * 256)

/-- Whether some access of a function to a physical range is under way: in a queue of a sequencer, or performed at CORE scope and not at its
home (R314). -/
def State.oldUse (s : State) (e : PtWait) : Bool :=
  let meets (pa n : Nat) : Bool := decide (e.lo < pa + n) && decide (pa < e.lo + e.size)
  (s.ctxs.any fun k => k.vf = e.vf && [Stream.x, .l, .c, .s].any fun st =>
    ((k.seq st).loadQ ++ (k.seq st).storeQ).any fun q => !q.isSp && q.kind ≠ .mark && meets q.pa q.len) ||
  s.cores.toList.any fun h => h.stores.any fun x => (s.ctx x.ctx).vf = e.vf && meets x.pa x.bytes.length

/-- Changes whose old translations and rights no access uses any more are reported done (R314). -/
def State.settleEdits (s : State) : State :=
  let (busy, done) := s.edits.partition fun e => s.oldUse e
  done.foldl (fun s e => s.answer e.q 2 e.kind { status := 0 }) { s with edits := busy }

/-- A request to FC2 that changes translations or rights (R314, R415, R420): as `fwRun`, but where the body names what it replaced, the answer
waits until no access uses that. -/
def fwEdit (q : FwReq) (kind : Nat) (body : State → State × FwAns × Option PtWait) (s : State) : Out :=
  .next (match (if s.booted && q.vf = 0 then s.asking q 2 kind else none) with
    | none => s
    | some c => match body (s.takeMail c) with
      | (s, a, none) => s.answer q 2 kind a
      | (s, a, some w) => if s.oldUse w then { s with edits := s.edits ++ [w] } else s.answer q 2 kind a)

/-- A refusal, with nothing to wait for. -/
def refuseEdit (s : State) (st : Nat) : State × FwAns × Option PtWait := (s, { status := st }, none)

/-- A request about a function, as `aboutVf` judges it. -/
def editVf (vf : Nat) (body : State → State × FwAns × Option PtWait) (s : State) : State × FwAns × Option PtWait :=
  if !(s.vf vf).enabled || 4096 ≤ vf then refuseEdit s repBadField
  else if (s.vf vf).resetting then refuseEdit s repNotPermitted
  else body s

/-- Every access of a function. -/
def PtWait.all (q : FwReq) (kind vf : Nat) : PtWait := { q := q, kind := kind, vf := vf, lo := 0, size := 2 ^ 52 }

/-- What an access that an entry admitted may touch. -/
def MatEntry.wait (e : MatEntry) (q : FwReq) : PtWait :=
  { q := q, kind := 0x0207, vf := bitsN e.w0 23 12, lo := bitsN e.w0 59 24 * 65536, size := (bitsN e.w1 59 24 - bitsN e.w0 59 24) * 65536 }

/-- MAT_WRITE (R415): a valid entry lies in its function's window unless it is marked as a shared window; for memory it then lies in the range
of its function's sleeve (log 90). The change is done once every access that passed the old entry has performed at MODULE scope. -/
def execMatWrite (q : FwReq) (target : MatTarget) (index entry : Nat) (w0 w1 : Word) (shared : Bool) (s : State) : Out :=
  fwEdit q 0x0207 (fun s =>
    let vf := bitsN w0 23 12
    let v := s.vf vf
    let lo := bitsN w0 59 24 * 65536
    let hi := bitsN w1 59 24 * 65536
    let valid := bitN w0 3
    let inMem := target = .hbm || target = .l2
    let old := s.mat.find? fun e => e.target = target && e.unit = index && e.index = entry
    let locked := (valid && s.tdiLocked vf) || old.any fun e => s.tdiLocked (bitsN e.w0 23 12)
    if matUnits target ≤ index || 256 ≤ entry || (valid && !v.enabled) then refuseEdit s repBadField
    else if valid && v.resetting then refuseEdit s repNotPermitted
    else if locked then refuseEdit s repTdiLocked
    else if valid && !shared && (lo < v.winBase || v.winLimit < hi) then refuseEdit s repNotPermitted
    else if valid && inMem && shared && !(v.sleeve.any fun n => decide ((s.sleeve n).base ≤ lo) && decide (hi ≤ (s.sleeve n).limit)) then
      refuseEdit s repNotPermitted
    else
      let rest := s.mat.filter fun e => !(e.target = target && e.unit = index && e.index = entry)
      let e : MatEntry :=
        { target := target, unit := index, index := entry, w0 := w0 &&& 0x0FFFFFFFFFFFF1FB, w1 := w1 &&& 0x0FFFFFFFFF000000,
          shared := shared }
      ({ s with mat := if valid then rest ++ [e] else rest }, { status := 0 }, old.map fun e => e.wait q)) s

/-- PT_EDIT (R314, R356, R424): of a locked function an invalid entry may be filled, and no valid one, leaf or table, changed. One entry of a function's tree. The translations it replaces leave every cache, and FC2 reports the edit done
once the accesses that used them have performed at MODULE scope. -/
def execPtEdit (q : FwReq) (vf : Nat) (va : Word) (level : Nat) (entry : Word) (s : State) : Out :=
  fwEdit q 0x0208 (editVf vf fun s =>
    if 4 < level || 2 ^ 56 ≤ va.toNat then refuseEdit s repBadField
    else match s.tableAt va.toNat level 4 (s.vf vf).root with
      | none => refuseEdit s repBadField
      | some t =>
        let p := entryPa t level va.toNat
        let old : Word := BitVec.ofNat 64 (leNat (s.homeBytes 4096 p 8))
        if s.tdiLocked vf && bitN old 0 then refuseEdit s repTdiLocked
        else
          let n := 2 ^ lvlShift level
          let w : PtWait := if bitN old 1 then { q := q, kind := 0x0208, vf := vf, lo := bitsN old 51 8 * 256, size := n }
            else .all q 0x0208 vf
          ((s.putEntry p entry).dropTlb vf (va.toNat / n * n) n, { status := 0 }, if bitN old 0 then some w else none)) s

/-! ## FC2: dirty tracking (R420) -/

/-- The leaves below a table: entry address, entry, first address mapped, size. -/
def State.leavesBelow (s : State) : Nat → Nat → Nat → List (Nat × Word × Nat × Nat)
  | lvl, table, va =>
    (s.tableSlots table (lvlEntries lvl)).flatMap fun i =>
      let p := table + 8 * i
      let e : Word := BitVec.ofNat 64 (leNat (s.homeBytes 4096 p 8))
      let a := va + i * 2 ^ lvlShift lvl
      if !bitN e 0 || malformed e lvl then []
      else if bitN e 1 then [(p, e, a, pageBytes lvl)]
      else match lvl with
        | 0 => []
        | n + 1 => s.leavesBelow n (bitsN e 51 8 * 256) a

/-- The leaves of a function. -/
def State.leaves (s : State) (vf : Nat) : List (Nat × Word × Nat × Nat) := s.leavesBelow 4 (s.vf vf).root 0

/-- D is cleared in leaves that a test selects. -/
def State.clearDirty (s : State) (vf : Nat) (sel : Nat → Nat → Bool) : State :=
  (s.leaves vf).foldl (fun s l => if bitN l.2.1 5 && sel l.2.2.1 l.2.2.2 then s.putEntry l.1 (l.2.1 &&& ~~~0x20) else s) s

/-- MIG_TRACK: D is cleared in every leaf, under the ordering of R314. -/
def execMigTrack (q : FwReq) (vf : Nat) (s : State) : Out :=
  fwEdit q 0x0209 (editVf vf fun s =>
    (((s.clearDirty vf fun _ _ => true).dropTlb vf 0 (2 ^ 56)).upVf vf fun v => { v with tracking := true }, { status := 0 },
      some (.all q 0x0209 vf))) s

/-- The bytes of a bitmap, the first bit lowest. -/
def bitBytes (bits : List Bool) : Nat → List Byte
  | 0 => []
  | n + 1 => BitVec.ofNat 8 (((bits.take 8).zipIdx.map fun e => if e.1 then 2 ^ e.2 else 0).sum) :: bitBytes (bits.drop 8) n

/-- MIG_DIRTY: one bit for each 64 KiB granule, then those D bits clear, under the ordering of R314. -/
def execMigDirty (q : FwReq) (vf : Nat) (va : Word) (count : Nat) (bitmapVa : Word) (s : State) : Out :=
  fwEdit q 0x020A (editVf vf fun s =>
    if 2 ^ 56 < va.toNat / 65536 * 65536 + count * 65536 || 2 ^ 56 ≤ va.toNat || 2 ^ 56 ≤ bitmapVa.toNat then refuseEdit s repBadField
    else
    let ls := (s.leaves vf).filter fun l => bitN l.2.1 5
    let lo := va.toNat / 65536 * 65536
    let bits := (List.range count).map fun i =>
      let a := lo + i * 65536
      ls.any fun l => decide (l.2.2.1 ≤ a) && decide (a < l.2.2.1 + l.2.2.2)
    let bs := bitBytes bits (cdiv count 8)
    match s.fwWrite 0 bitmapVa (bs.length / 128 + 2) bs with
    | (s, .error _) => refuseEdit s repBadField
    | (s, .ok _) =>
      ((s.clearDirty vf fun a n => spansMeet a (a + n) lo (lo + count * 65536)).dropTlb vf lo (count * 65536), { status := 0 },
        some (.all q 0x020A vf))) s

/-! ## FC2: migration (R421, R422) -/

/-- Whether a word lies outside every window that admits only the function. -/
def State.externalWord (s : State) (vf : Nat) (va : Word) : Bool :=
  match s.walk vf va.toNat with
  | .miss _ _ _ => true
  | .leaf _ e lvl =>
    let pa := bitsN e 51 8 * 256 + va.toNat % 2 ^ lvlShift lvl
    let holds (x : MatEntry) : Bool :=
      (x.target = .hbm || x.target = .l2) && bitN x.w0 3 && decide (bitsN x.w0 59 24 * 65536 ≤ pa) && decide (pa < bitsN x.w1 59 24 * 65536)
    !(s.mat.any fun x => holds x && bitsN x.w0 23 12 = vf && !x.shared) || s.mat.any fun x => holds x && bitsN x.w0 23 12 ≠ vf

/-- Whether a started collective entry waits for a rank on another module. -/
def State.externalColl (s : State) (c : Nat) : Option Nat :=
  match (s.ctx c).coll with
  | none => none
  | some r =>
    let m := s.comms.find? fun m => m.vf = (s.ctx c).vf && m.num = r.entry.comm
    let home := (m.bind fun m => (m.ranks[r.rank]?).map (·.fabric)).getD 0
    let far (p : Nat) : Bool := ((m.bind fun m => m.ranks[p]?).map fun (x : CommRank) => decide (x.fabric ≠ home)).getD false
    let waits := r.steps.zipIdx.any fun e => !r.done.contains e.2 && (far e.1.peer || (e.1.kind = 5 && far e.1.peer2))
    if !r.fin && waits then some r.entry.comm else none

/-- The external waits of a function (R422): addresses of words, and communicator numbers; a WAIT is pending from its acceptance on. -/
def State.externalWaits (s : State) (vf : Nat) : List Nat :=
  let cmds := (s.rings.filter fun r => r.vf = vf).flatMap fun r =>
    (r.cmds.filter fun c => (c.state = 1 || c.state = 2) && c.opcode = 7 && c.overAs.isNone).map fun c => fieldW c.body 24
  let nodes := s.graphs.filterMap fun g =>
    match g.cur, g.since with
    | some n, some _ =>
      let b := g.nodes.getD n []
      if g.vf = vf && !g.ended && fieldN b 0 1 = 6 then some (fieldW b 16) else none
    | _, _ => none
  ((cmds ++ nodes).filter fun a => s.externalWord vf a).map (·.toNat) ++ (s.ctxsOf vf).filterMap fun c => s.externalColl c

/-- Ascending order. -/
def insertNat (a : Nat) : List Nat → List Nat
  | [] => [a]
  | b :: t => if a ≤ b then a :: b :: t else b :: insertNat a t

/-- What of a function's contexts can be taken off its cores now: what runs is checkpointed, what has stopped is saved as it stands, and what is
idle once its commands have finished (R316, R421; log 84). -/
def State.stopOn (s : State) (vf : Nat) : State :=
  (s.ctxsOf vf).foldl (fun s c => match (s.ctx c).run with
    | .running => s.checkpoint c
    | .idle => if (s.ctx c).quiet then s.switchOut c else s
    | _ => s.saveStopped c) s

/-- A MIG.STOP ends once every context is saved: the function is SUSPENDED, and dirty tracking takes its last report (R421; log 88). -/
def State.settleStop (s : State) (vf : Nat) : State :=
  match (s.vf vf).stopReq with
  | none => s
  | some q =>
    let s := s.stopOn vf
    if (s.ctxsOf vf).all fun c => (s.ctx c).run = .saved then
      let dirty := ((s.leaves vf).filter fun l => bitN l.2.1 5).map fun l => (l.2.2.1, l.2.2.2)
      (s.upVf vf fun v => { v with suspended := true, stopReq := none, dirtyLog := dirty }).answer q 2 0x020B { status := 0 }
    else s

/-- MIG_STOP: refused while a wait is external; else the rings halt, the graphs pause, every running launch is checkpointed and every
context saved, and the function is SUSPENDED. -/
def execMigStop (q : FwReq) (vf : Nat) (s : State) : Out :=
  .next (match (if s.booted && q.vf = 0 then s.asking q 2 0x020B else none) with
    | none => s
    | some c =>
      let s := s.takeMail c
      let ws := (s.externalWaits vf).foldr insertNat []
      let say (st : Nat) (rest : List Byte) : State := s.answer q 2 0x020B { status := st, rest := rest }
      if !(s.vf vf).enabled || 4096 ≤ vf then say repBadField []
      else if (s.vf vf).resetting || (s.vf vf).stopReq.isSome then say repNotPermitted []
      else if ws ≠ [] then
        say repExternalWait (natBytes ws.length 1 ++ zeros 6 ++ (ws.take 5).flatMap fun w => natBytes w 8)
      else
        let stop (r : Ring) : Ring := if r.vf = vf && r.en then { r with state := 2 } else r
        let pause (g : Graph) : Graph := if g.vf = vf then { g with paused := true } else g
        let s : State := { s with rings := s.rings.map stop, graphs := s.graphs.map pause }
        (s.upVf vf fun v => { v with stopReq := some q }).settleStop vf)

/-- The state image of a function (R421): the save areas of its contexts, its ring registers, journals, binding tables, berth records and
controls, and the last report of dirty tracking. The order and the forms are the model's (log 88). -/
def State.stateImage (s : State) (vf : Nat) : List Byte :=
  let v := s.vf vf
  let ring (r : Ring) : List Byte :=
    natBytes r.num 1 ++ natBytes (b2n r.en + 2 * b2n r.a7) 1 ++ natBytes r.pubn 1 ++ natBytes r.log2 1 ++ natBytes r.wridx 8 ++ natBytes r.rdidx 8 ++
      natBytes r.base.toNat 8 ++ natBytes r.mirror.toNat 8 ++ r.cmds.flatMap fun c => fit 128 c.body ++ c.entry
  let berth (b : Berth) : List Byte :=
    natBytes b.num 2 ++ natBytes b.state 1 ++ natBytes b.image 8 ++ natBytes b.imageSize 8 ++ b.digest ++ b.recs.flatten ++
      b.segs.flatMap fun g => natBytes g.va.toNat 8 ++ natBytes g.size 8 ++ natBytes g.off 8
  ((s.ctxsOf vf).flatMap fun c =>
    let k := s.ctx c
    natBytes (ctxid c) 2 ++ sbytes (s.areaGet k.saveArea k.areaBytes) 0 k.areaBytes ++
      (k.binding.toList.flatMap fun w => natBytes w.toNat 8) ++ k.journal.flatMap JEntry.bytes) ++
  ((s.rings.filter fun r => r.vf = vf).flatMap ring) ++ v.berths.flatMap berth ++
  natBytes v.featmask.toNat 8 ++ natBytes (v.scopelimit.getD 5) 1 ++ natBytes (b2n v.dbgen) 1 ++ natBytes v.grant 4 ++ natBytes v.paging 1 ++
  (v.ranges.flatMap fun r => natBytes r.va.toNat 8 ++ natBytes r.pages 8 ++ natBytes (b2n r.rd + 2 * b2n r.w) 1) ++
  v.dirtyLog.flatMap fun e => natBytes e.1 8 ++ natBytes e.2 8

/-! ## FC2: paging policy (R359) -/

/-- PAGING_SET. -/
def execPagingSet (q : FwReq) (vf mode : Nat) (ranges : List DemandRange) (s : State) : Out :=
  fwRun q 2 0x020C (aboutVf vf fun s =>
    orElseDo s (2 < mode || 16 < ranges.length || ranges.any fun r => r.va.toNat % 65536 ≠ 0 || 2 ^ 56 < r.va.toNat + r.pages * 65536 || 2 ^ 56 ≤ r.va.toNat) repBadField
      (s.upVf vf fun v => { v with paging := mode, ranges := ranges }, { status := 0 })) s

/-- FAULT_DONE. -/
def execFaultDone (q : FwReq) (recno answer : Nat) (s : State) : Out :=
  fwRun q 2 0x020D (fun s =>
    orElseDo s (!(answer = 1 || answer = 2) || s.faults.all fun r => r.num ≠ recno) repBadField
      (s.answerRecord recno (answer = 1), { status := 0 })) s

/-! ## FC3: debugging (R321 to R323, R423) -/

/-- A debug request about a context (R423). -/
def aboutCtx (c : Nat) (body : State → State × FwAns) (s : State) : State × FwAns :=
  let k := s.ctx c
  if s.ctxs.length ≤ c || k.run = .gone then (s, { status := repBadField })
  else if !(s.vf k.vf).dbgen || s.tdiLocked k.vf || (s.vf k.vf).resetting then (s, { status := repNotPermitted })
  else body s

/-- Whether a context's state may be read and written: HALTED or saved. -/
def Ctx.open? (k : Ctx) : Bool := k.run = .halted || k.run = .saved

/-- Eight bytes of a context's scratchpad allotment at an offset, resident or saved. -/
def State.dbgScratch (s : State) (k : Ctx) (o : Nat) : List Byte :=
  if k.saved then sbytes (s.areaGet (k.areaSpad + o) 8) 0 8 else sbytes (s.core k.coreNo).spad (k.baseBlk * 16384 + o) 8

/-- Whether those bytes are uncorrectable (R348). -/
def State.dbgBad (s : State) (k : Ctx) (o : Nat) : Bool :=
  if k.saved then (s.badSector (k.areaSpad + o) 8).isSome
  else (s.core k.coreNo).spadErr.any fun w => decide ((k.baseBlk * 16384 + o) / 8 ≤ w) && decide (w ≤ (k.baseBlk * 16384 + o + 7) / 8)

/-- A logical tile of a context, resident or saved. -/
def State.dbgTile (s : State) (k : Ctx) (t : Nat) : Option Tile :=
  if k.acount ≤ t then none
  else if k.saved then some (s.savedTile k t) else some (vgetD (s.core k.coreNo).tiles (k.abase + t) Tile.zero)

/-- An element as two words: the residue, and the tag, check and count as the accumulator store holds them (R349). -/
def Elem.words (e : Elem) : List Word := [e.residue, BitVec.ofNat 64 e.tagWord]

/-- The bytes of a vector register or predicate file that a context's record or its save area holds. -/
def State.vecFile (s : State) (k : Ctx) : Sparse Byte :=
  if k.saved then s.areaGet (k.saveArea + areaVec) 132096 else vecCells k.v k.m

/-- A debugger changes the vector registers and predicates of a context, resident or saved. -/
def State.putVecFile (s : State) (c : Nat) (f : Sparse Byte) : State :=
  if (s.ctx c).saved then s.areaPut ((s.ctx c).saveArea + areaVec) 132096 f
  else s.upCtx c fun k => { k with v := f.filter fun e => e.1 < 131072, m := Vector.ofFn fun i : Fin 8 => predOf f i.val }

/-- DBG_ATTACH. -/
def execDbgAttach (q : FwReq) (ctx : Nat) (s : State) : Out :=
  fwRun q 3 0x0301 (aboutCtx ctx fun s => (s.upCtx ctx fun k => { k with dbg := true }, { status := 0 })) s

/-- Whether code at an address is in the context's private range, which a debugger may read and write. -/
def Ctx.codeAt (k : Ctx) (pa : Nat) : Bool :=
  pa % 8 = 0 && decide (k.csr.codebase.toNat ≤ pa) && decide (pa + 8 ≤ k.csr.codebound.toNat)

/-- What a debug read answers. None for an item that is not there, and for an uncorrectable scratchpad word (R348; log 82). -/
def State.dbgRead (s : State) (c : Nat) (item : DbgItem) : Option (List Word) :=
  let k := s.ctx c
  match item with
  | .csr n =>
    if 0x020 ≤ n then (s.dbgTile k (n - 0x020)).map fun _ => [s.readCsr c n] else if n ≤ 0x01D ∧ n ≠ 0x00F then some [s.readCsr c n] else none
  | .xreg st r => some [(k.seq st).rx r]
  | .pred st r => some [BitVec.ofNat 64 (b2n ((k.seq st).rp r))]
  | .pc st => some [(k.seq st).pc]
  | .scratch o => if o + 8 ≤ (k.endBlk - k.baseBlk) * 16384 ∧ !s.dbgBad k o then some [BitVec.ofNat 64 (leNat (s.dbgScratch k o))] else none
  | .bkpt st n => some [vgetD (k.seq st).bkpt n.toNat 0]
  | .frame o => if o + 8 ≤ 5120 then some [fieldW (k.frameNow c) o] else none
  | .tile t e =>
    if e < 16384 then (s.dbgTile k t).map fun x => (sget Elem.zero x.elems e).words
    else if e < 32768 then (s.dbgTile k t).map fun x => ((sget Elem.zero x.elems (e - 16384)).words).drop 1 else none
  | .code pa => if k.codeAt pa then some [s.codeNow pa] else none
  | .bt st n => some [(k.seq st).bt[n]]
  | .lc st n => some [((k.seq st).lc[n]).zeroExtend 64]
  | .vreg r o => if o + 8 ≤ 4096 then some [BitVec.ofNat 64 (leNat (sbytes (s.vecFile k) (vkey r.toNat o) 8))] else none
  | .mreg m w => if w < 16 then some [BitVec.ofNat 64 (leNat (sbytes (s.vecFile k) (131072 + 128 * m.val + 8 * w) 8))] else none

/-- DBG_READ. -/
def execDbgRead (q : FwReq) (ctx : Nat) (item : DbgItem) (s : State) : Out :=
  fwRun q 3 0x0302 (aboutCtx ctx fun s =>
    if !(s.ctx ctx).open? then (s, { status := repNotPermitted })
    else match s.dbgRead ctx item with
      | some ws => (s, FwAns.words ws)
      | none => (s, { status := repBadField })) s

/-- Change the tile of a context, resident or saved. -/
def State.dbgUpTile (s : State) (c t : Nat) (f : Tile → Tile) : State :=
  let k := s.ctx c
  if k.saved then s.putSavedTile k t (f (s.savedTile k t)) else s.upTile k.coreNo (k.abase + t) f

/-- Bytes of the scratchpad allotment of a context, resident or saved, with the directory entries of what they touch (R58, R196). -/
def State.dbgPutScratch (s : State) (c o : Nat) (bs : List Byte) : State :=
  let k := s.ctx c
  if k.saved then
    let dir := dirAfter (s.savedDir k) (keyed o bs)
    ((s.homeStore 0 4096 none 0 (k.areaSpad + o) bs).1).areaPut k.areaDir (8 * k.blocks) (dirCells dir)
  else s.upCore k.coreNo fun h => h.spWrite (keyed (k.baseBlk * 16384 + o) bs)

/-- A debugger changes eight bytes of the fault frame; a RESTART that it writes is where the stream goes on (R304, R309; log 89). -/
def State.putFrame (s : State) (c o : Nat) (w : Word) : State :=
  let k := s.ctx c
  let s := s.upCtx c fun k => { k with frame := { k.frame with patch := (k.frame.patch.filter fun p => p.1 ≠ o) ++ [(o, natBytes w.toNat 8)] } }
  let s := if 64 ≤ o && o < 320 && o % 64 = 0 then s.upSeq c (streamNo ((o - 64) / 64)) fun q => { q with pc := w } else s
  if k.saveArea = 0 then s else (s.homeStore 0 4096 none 0 (k.saveArea + o) (natBytes w.toNat 8)).1

/-- A debug write of one item: the state, or a status. Read-only CSRs keep their value; a breakpoint with IGN above 20 is refused. An element of a
tile is two words: its residue, and 16,384 further on its tag, check and count (R349; log 89). -/
def State.dbgWrite (s : State) (c : Nat) (item : DbgItem) (w : Word) : Except Nat State :=
  let k := s.ctx c
  match item with
  | .csr n => .ok (s.upCtx c fun k => { k with csr := k.csr.write n w })
  | .xreg st r => .ok (s.upSeq c st fun q => q.wx r w)
  | .pred st r => .ok (s.upSeq c st fun q => q.wp r (w ≠ 0))
  | .pc st => .ok (s.upSeq c st fun q => { q with pc := w })
  | .scratch o => if o + 8 ≤ (k.endBlk - k.baseBlk) * 16384 then .ok (s.dbgPutScratch c o (natBytes w.toNat 8)) else .error repBadField
  | .bkpt st n =>
    if 20 < bitsN w 57 52 then .error repBadField
    else .ok (s.upSeq c st fun q => { q with bkpt := vmod q.bkpt n.toNat fun _ => w &&& 0x83FFFFFFFFFFFFF8 })
  | .frame o => if o % 8 = 0 && o + 8 ≤ 5120 then .ok (s.putFrame c o w) else .error repBadField
  | .bt st n => .ok (s.upSeq c st fun q => { q with bt := q.bt.set n w })
  | .lc st n => .ok (s.upSeq c st fun q => { q with lc := q.lc.set n (w.extractLsb' 0 32) })
  | .vreg r o =>
    if o + 8 ≤ 4096 then .ok (s.putVecFile c (ssets 0 (s.vecFile k) (keyed (vkey r.toNat o) (natBytes w.toNat 8))))
    else .error repBadField
  | .mreg m i =>
    if i < 16 then
      .ok (s.putVecFile c (ssets 0 (s.vecFile k) (keyed (131072 + 128 * m.val + 8 * i) (natBytes w.toNat 8))))
    else .error repBadField
  | .tile t e =>
    if e < 32768 && (s.dbgTile k t).isSome then
      let i := e % 16384
      let f (x : Tile) : Tile :=
        let old := sget Elem.zero x.elems i
        let new := if e < 16384 then Elem.ofWords w old.tagWord else Elem.ofWords old.residue w.toNat
        { x with elems := sset Elem.zero x.elems i new }
      .ok (s.dbgUpTile c t f)
    else .error repBadField
  | .code pa =>
    if s.isShared pa then .error repSharedCode
    else if !k.codeAt pa then .error repBadField
    else
      let e : CodeEdit := { addr := pa, old := sbytes s.code pa 8 }
      .ok { (s.pokeHome 4096 pa (natBytes w.toNat 8)) with
              code := ssets 0 s.code (keyed pa (natBytes w.toNat 8)), codeEdits := s.codeEdits ++ [e] }

/-- DBG_WRITE. -/
def execDbgWrite (q : FwReq) (ctx : Nat) (item : DbgItem) (value : Word) (s : State) : Out :=
  fwRun q 3 0x0303 (aboutCtx ctx fun s =>
    if !(s.ctx ctx).open? then (s, { status := repNotPermitted })
    else match s.dbgWrite ctx item value with
      | .ok s => (s, { status := 0 })
      | .error e => (s, { status := e })) s

/-- DBG_RESUME: a halted context resumes, or its launch ends. -/
def execDbgResume (q : FwReq) (ctx : Nat) (abort : Bool) (s : State) : Out :=
  fwRun q 3 0x0304 (aboutCtx ctx fun s =>
    orElseDo s ((s.ctx ctx).stand ≠ .halted) repNotPermitted (if abort then s.endFault ctx else s.comeBack ctx, { status := 0 })) s

/-- DBG_DETACH: every EN bit clears. -/
def execDbgDetach (q : FwReq) (ctx : Nat) (s : State) : Out :=
  fwRun q 3 0x0305 (aboutCtx ctx fun s =>
    (s.upCtx ctx fun k =>
      let f (k : Ctx) (st : Stream) : Ctx := k.upSeq st fun q => { q with bkpt := q.bkpt.map fun w => w &&& ~~~0x8000000000000000 }
      { (f (f (f (f k .x) .l) .c) .s) with dbg := false }, { status := 0 })) s

/-- The 64 bytes that a log entry shows: an event has its code, function, context and value. -/
def LogEntry.bytes : LogEntry → List Byte
  | .raw b => fit 64 b
  | .event e vf ctx v =>
    let code := match e with
      | .fqLeftover => 1 | .maskedFeature => 2 | .keyEmpty => 3 | .accessDenied => 4 | .pteMalformed => 5 | .linkDown => 6
      | .dryStoreFull => 7 | .holdReport => 8 | .quayCleared => 9 | .imageMismatch => 10 | .frameReport => 11 | .killReport => 12
      | .applied => 13 | .ecrcDrop => 14 | .l2Repair => 15 | .arenaReport => 16 | .bootFailure => 17
    fit 64 (natBytes code 2 ++ natBytes vf 2 ++ zeros 4 ++ natBytes ctx 2 ++ zeros 6 ++ natBytes v.toNat 8)
  | .denied vf agent target unit pa =>
    let code := match target with
      | .hbm => 0 | .l2 => 1 | .scratchpad => 2 | .csr => 3 | .quay => 4
    fit 64 (natBytes 4 2 ++ natBytes vf 2 ++ natBytes agent 2 ++ natBytes code 2 ++ natBytes unit 8 ++ natBytes pa 8)

/-- LOG_READ (R419): the oldest entry of the physical function's error log, written behind the reply. -/
def execLogRead (q : FwReq) (s : State) : Out :=
  fwRun q 3 0x0306 (fun s =>
    match s.pflog with
    | [] => (s, { status := 0, rest := zeros 7 ++ natBytes 0 8 })
    | e :: _ =>
      let s := (s.fwWrite 0 (q.replyVa + 64) 3 e.bytes).1
      ({ s with pflog := s.pflog.drop 1, replies := s.replies ++ [(q.ring, e.bytes)] }, FwAns.words [1])) s

/-! ## FC7: quay shares and communicators (R416, R432) -/

/-- QBW_SET (R416): the share of a function in the tables of both directions. -/
def execQbwSet (q : FwReq) (quay vf share : Nat) (s : State) : Out :=
  fwRun q 7 0x0701 (aboutVf vf fun s =>
    let h := vgetD s.quays quay Quay.reset
    let rest := h.shares.filter fun e => e.1 ≠ vf
    if 24 ≤ quay || 240 < share then (s, { status := repBadField })
    else if s.tdiLocked vf then (s, { status := repTdiLocked })
    else if 240 < (rest.map (·.2)).sum + share || (share ≠ 0 && 64 ≤ rest.length) then (s, { status := repBadField })
    else
      let l := if share = 0 then rest else rest ++ [(vf, share)]
      let up (h : Quay) : Quay := { h with shares := l, sharesIn := l }
      ({ s with quays := vmod s.quays quay up }, { status := 0 })) s

/-- COMM_SET (R432). -/
def execCommSet (q : FwReq) (vf comm size localRank : Nat) (ranks : List CommRank) (s : State) : Out :=
  fwRun q 7 0x0702 (aboutVf vf fun s =>
    let started := s.ctxs.any fun k => k.vf = vf && k.coll.any fun r => r.entry.comm = comm
    if 65535 < comm || size < 2 || 256 < size || size ≤ localRank || ranks.length ≠ size || ranks.any fun r => decide (8 ≤ r.die) then
      (s, { status := repBadField })
    else if started then (s, { status := repNotPermitted })
    else
      let rest := s.comms.filter fun m => !(m.vf = vf && m.num = comm)
      ({ s with comms := rest ++ [{ vf := vf, num := comm, rank := localRank, ranks := ranks }] }, { status := 0 })) s

end Sys2Proof.Machine
end

