-- ==== Sys2Proof/Machine/Fabric.lean ====
section
/-! DEFINITION. The quays: the flit, the arbiter and the link layer (R416, R417, R427 to R429), and what other modules ask and answer
(R430, R431, R434 to R437; log 59). -/

namespace Sys2Proof.Machine

/-! ## The flit (R427) -/

/-- One bit of CRC-32C, and the CRC of a byte string (log 86). -/
def crcBit (c : BitVec 32) : BitVec 32 := if c.getLsbD 0 then (c >>> 1) ^^^ 0x82F63B78 else c >>> 1
def crc32c (bs : List Byte) : BitVec 32 :=
  ~~~ bs.foldl (fun c b => crcBit (crcBit (crcBit (crcBit (crcBit (crcBit (crcBit (crcBit (c ^^^ b.zeroExtend 32))))))))) 0xFFFFFFFF

/-- Bytes 0 to 251 of a flit, and all 256. -/
def flitHead (f : Flit) : List Byte :=
  natBytes f.vc 1 ++ natBytes f.ty 1 ++ natBytes f.fseq.toNat 2 ++ natBytes f.aseq.toNat 2 ++ natBytes (f.credVc % 4 + 4 * f.cred) 2 ++ zeros 4 ++
    fit flitPayload f.payload
def flitBytes (f : Flit) : List Byte := flitHead f ++ natBytes (crc32c (flitHead f)).toNat 4

/-- The flit that 256 bytes hold, and whether their CRC is right. -/
def flitOf (bs : List Byte) : Flit :=
  { vc := fieldN bs 0 1, ty := fieldN bs 1 1, fseq := BitVec.ofNat 12 (fieldN bs 2 2), aseq := BitVec.ofNat 12 (fieldN bs 4 2),
    credVc := fieldN bs 6 2 % 4, cred := fieldN bs 6 2 / 4, payload := (bs.drop 12).take flitPayload }
def flitCrcOk (bs : List Byte) : Bool := decide (fieldN bs 252 4 = (crc32c (bs.take 252)).toNat)

/-! ## The arbiter (R416, R417, R429) -/

/-- The share of a function on a quay (R416); firmware and link control hold 16 (R416, R429), under the number 4,096. -/
def fwMaster : Nat := 4096

def Quay.share (q : Quay) (m : Nat) : Nat := if m = fwMaster then 16 else ((q.shares.find? fun e => e.1 = m).map (·.2)).getD 0

/-- The master that a flit is charged to: VC0 is firmware's; on VC1 and VC3 its function, on VC2 that of the request it answers (R429). -/
def flitMaster (e : Nat × Flit) : Nat := if e.2.vc = 0 then fwMaster else e.1

/-- A count kept by VC, and the list with another count. -/
def vcCount (l : List (Nat × Nat)) (vc : Nat) : Nat := ((l.find? fun e => e.1 = vc).map (·.2)).getD 0
def vcSet (l : List (Nat × Nat)) (vc n : Nat) : List (Nat × Nat) := (l.filter fun e => e.1 ≠ vc) ++ if n = 0 then [] else [(vc, n)]

/-- Whether the receive credits of a VC let another flit leave (R429). -/
def Quay.mayUse (q : Quay) (vc : Nat) : Bool := decide (vcCount q.spent vc ≤ Config.vcCredits vc)

/-- The flits waiting that have a credit: no VC waits for another's (R429). -/
def Quay.ready (q : Quay) : List (Nat × Flit) := q.waiting.filter fun e => q.mayUse e.2.vc

/-- Masters with such flits, in the order of their oldest one. -/
def Quay.masters (q : Quay) : List Nat := (q.ready.map flitMaster).eraseDups

/-- The credits that the next flit returns: those of the lowest VC that owes some, as VC and number (R427). -/
def Quay.toReturn (q : Quay) : Nat × Nat := (([0, 1, 2, 3].map fun v => (v, vcCount q.owes v)).find? fun e => decide (0 < e.2)).getD (0, 0)

/-- What a reservation is owed, in 256ths of a flit. -/
def Quay.owed (q : Quay) (m : Nat) : Nat := ((q.deficit.find? fun e => e.1 = m).map (·.2)).getD 0

/-- The reservation whose owed flit falls due first: the time to twice 256 at its share decides. -/
def dueFirst (q : Quay) (a b : Nat) : Nat := if (512 - q.owed b) * q.share a < (512 - q.owed a) * q.share b then b else a

/-- What a reservation has of the flit times that no reservation is owed. -/
def Quay.spareOf (q : Quay) (m : Nat) : Int := ((q.spare.find? fun e => e.1 = m).map (·.2)).getD 0

/-- The reservation that has the more of them, once its share is added. -/
def Quay.richer (q : Quay) (a b : Nat) : Nat := if q.spareOf a + q.share a < q.spareOf b + q.share b then b else a

/-- How a flit time was given away (R417): owed to a reservation, spare to one, or to a function without one in its turn. -/
inductive FlitTime
  | owed | spare | turn
deriving DecidableEq, Repr

/-- The arbiter's choice for one flit time (R417): a backlogged reservation that is owed a whole flit, the one due first; else the
backlogged reservation whose part of the spare flit times is due; else the functions without one, in turn. -/
def Quay.choose (q : Quay) : Option (Nat × FlitTime) :=
  let ms := q.masters
  let res := ms.filter fun m => 0 < q.share m
  match res.filter fun m => 256 ≤ q.owed m with
  | m :: t => some (t.foldl (dueFirst q) m, .owed)
  | [] => match res with
    | m :: t => some (t.foldl q.richer m, .spare)
    | [] => match ms.filter fun m => q.rrNext < m with
      | m :: t => some (t.foldl min m, .turn)
      | [] => match ms with
        | [] => none
        | m :: t => some (t.foldl min m, .turn)

/-- What the reservations have after a flit time for master `m`: an owed flit is paid; a spare flit time is shared among the backlogged in
proportion to their shares, and `m` has used it. -/
def Quay.charge (q : Quay) (m : Nat) (how : FlitTime) : Quay :=
  let res := q.masters.filter fun x => 0 < q.share x
  match how with
  | .owed => { q with deficit := q.deficit.map fun d => if d.1 = m then (d.1, d.2 - 256) else d }
  | .spare =>
    let all := (res.map q.share).sum
    { q with spare := res.map fun x => (x, q.spareOf x + q.share x - if x = m then (all : Int) else 0) }
  | .turn => { q with rrNext := m }

/-- Every backlogged reservation is owed its share of a flit time more. -/
def Quay.accrue (q : Quay) : Quay :=
  { q with deficit := (q.masters.filter fun m => 0 < q.share m).map fun m => (m, q.owed m + q.share m) }

/-! ## Sending (R427 to R429) -/

/-- The last flits that a sender keeps (R428). -/
def kept (l : List Flit) : List Flit := l.drop (l.length - 512)

/-- A flit leaves with its sequence, the acknowledgement and the credits that it returns. -/
def Quay.emit (q : Quay) (f : Flit) : Quay :=
  let back := q.toReturn
  let f : Flit := { f with fseq := q.sendSeq, aseq := q.expect - 1, credVc := back.1, cred := back.2 }
  { q with sendSeq := q.sendSeq + 1, retry := kept (q.retry ++ [f]), sent := q.sent ++ [f], owes := vcSet q.owes back.1 0, ackDue := false }

/-- A flit of link control: 0 idle, 2 an acknowledgement, 3 a nak. -/
def linkFlit (ty : Nat) : Flit := { vc := 0, ty := ty, fseq := 0, aseq := 0, credVc := 0, cred := 0, payload := [] }

/-- What one flit time carries (R417, R427 to R429): a flit to send again, else the arbiter's choice, else an acknowledgement if something came in
since the last flit. With none of these the line carries an idle flit, which has no sequence and is not kept (log 59). -/
def Quay.flitTime (q : Quay) : Option Quay :=
  match q.resend with
  | f :: rest => some { q.accrue with resend := rest, sent := q.sent ++ [f], ackDue := false }
  | [] =>
    let q := q.accrue
    match q.choose with
    | none => if q.ackDue then some (q.emit (linkFlit 2)) else none
    | some (m, how) => match findIdx (fun e => flitMaster e = m && q.mayUse e.2.vc) q.waiting 0 with
      | none => none
      | some (i, e) =>
        let q := q.charge m how
        some (({ q with waiting := q.waiting.eraseIdx i, spent := vcSet q.spent e.2.vc (vcCount q.spent e.2.vc + 1) } : Quay).emit e.2)

/-- The idle flit that a quay's line carries otherwise. -/
def Quay.idle (q : Quay) : Flit := { linkFlit 0 with fseq := q.sendSeq, aseq := q.expect - 1 }

/-- QUAY_FLIT_SEND: a flit time is 1.2 ns, 81/25 tide cycles. The traffic of a SUSPENDED function stands still (R421). -/
def tryQuayFlitSend (n : Nat) (s : State) : Option State :=
  let q := s.quay n
  if 24 ≤ n || !q.up || q.retraining || 25 * s.tide + 25 ≤ q.free then none
  else
    let stands (e : Nat × Flit) : Bool := e.2.vc ≠ 0 && (s.vf e.1).suspended
    ({ q with waiting := q.waiting.filter fun e => !stands e } : Quay).flitTime.map fun x =>
      s.upQuay n fun _ => { x with waiting := x.waiting ++ q.waiting.filter stands, free := max x.free (25 * s.tide) + 81 }

def execQuayFlitSend (quay : Nat) (s : State) : Out := .next ((tryQuayFlitSend quay s).getD s)

/-! ## Retries and the link (R428) -/

/-- A nak that names the last good sequence, for VC0; its ASEQ is filled as it leaves. -/
def nakFlit : Flit := linkFlit 3

/-- The flits of a retry list after the one named. -/
def afterSeq (fseq : BitVec 12) (l : List Flit) : List Flit :=
  match findIdx (fun f : Flit => f.fseq = fseq) l 0 with
  | some (i, _) => l.drop (i + 1)
  | none => l

/-- A nak reaches the sender (R428, R446): every flit after the one named is sent again in order, the retry is charged to the quay, and
after 16 in a row FC7 retrains the link. -/
def State.nak (s : State) (n : Nat) (fseq : BitVec 12) : State :=
  let q := s.quay n
  if 24 ≤ n || !q.up then s
  else
    let train := !q.retraining && decide (16 ≤ q.naks + 1)
    (s.upQuay n fun q => { q with resend := afterSeq fseq q.retry, peerSeq := fseq, naks := q.naks + 1, retraining := q.retraining || train,
                                  since := if train then s.tide else q.since }).addScore .quay n 1

def execNakReceive (quay : Nat) (fseq : BitVec 12) (s : State) : Out := .next (s.nak quay fseq)

/-- Tide cycles in the millisecond that a link has to return (R428). -/
def retrainLimit : Nat := 2700000

/-! ## Traffic moves to other quays (R431, R441) -/

/-- Another quay of an entry that is open. -/
def State.otherQuay (s : State) (u : Nat) (p : PeerEntry) : Option Nat := p.quays.find? fun q => q ≠ u && s.quayOpen q

/-- Peer entries of every function that route through a quay. -/
def State.entriesOver (s : State) (u : Nat) : List (Nat × PeerEntry) :=
  s.vfs.flatMap fun e => (e.2.peers.filter fun p => p.quays.contains u).map fun p => (e.1, p)

/-- The quay that a flit of a function moves to: another one of the entry for the flit's own destination. -/
def State.moveTo (s : State) (u m : Nat) (f : Flit) : Option Nat :=
  if f.vc = 0 then none
  else ((s.entriesOver u).filter fun e => e.1 = m && e.2.dest = fieldN f.payload 2 2).findSome? fun e => s.otherQuay u e.2

/-- The function that a flit is charged to: for a message, that of its request. -/
def State.flitOwner (s : State) (f : Flit) : Nat :=
  if f.vc = 3 then ((s.reqs.find? fun r => r.tag = fieldN f.payload 16 8).map (·.vf)).getD 0 else fieldN f.payload 6 2

/-- Flits of a quay, each with its master, move to the other quays of their entries; what has none stays. Their requests move with them. -/
def State.moveFlits (s : State) (u : Nat) (fs : List (Nat × Flit)) : State :=
  let s := fs.foldl (fun s e => match s.moveTo u e.1 e.2 with
    | some v => s.putFlit v e.1 e.2
    | none => s) s
  let follow (r : PeerReq) : PeerReq :=
    if r.quay = u && r.resp.isNone then
      match fs.find? fun e => fieldN e.2.payload 16 8 = r.tag with
      | some e => { r with quay := (s.moveTo u e.1 e.2).getD u }
      | none => r
    else r
  { s with reqs := s.reqs.map follow }

/-- FC7 moves a quay's waiting traffic to the other quays of its entries. -/
def State.moveTraffic (s : State) (u : Nat) : State :=
  let fs := (s.quay u).waiting
  (s.moveFlits u fs).upQuay u fun q => { q with waiting := fs.filter fun e => (s.moveTo u e.1 e.2).isNone }

/-- Requests whose entries have every quay down complete with MEM_UNCORR (R431): a write is reported, with the physical address. -/
def State.failReqs (s : State) : State :=
  let dead (r : PeerReq) : Bool := r.resp.isNone && ((s.vf r.vf).peers.filter fun p => p.dest = r.dest).all s.entryDown
  let writes := s.reqs.filter fun r => dead r && r.op = 2
  let fail (r : PeerReq) : PeerReq := if dead r then { r with resp := some (true, []) } else r
  let s : State := { s with reqs := (s.reqs.filter fun r => !(dead r && r.op = 2)).map fail }
  writes.foldl (fun s r => match r.who with
    | some (c, source) => looseFault s c source (mkCause causeMemUncorr (BitVec.ofNat 64 r.pa))
    | none => s) s

/-- LINK_DOWN (R428, R431, R446): a link that retrains does not return within 1 ms. What its peer has not received goes over other quays. -/
def tryLinkDown (quay : Nat) (s : State) : Option State :=
  let q := s.quay quay
  if 24 ≤ quay || !q.retraining || s.tide < q.since + retrainLimit then none
  else
    let lost := (afterSeq q.peerSeq q.retry).filter fun f => 1 ≤ f.vc && f.ty = 1
    let s := s.upQuay quay fun q => { q with up := false, retraining := false, naks := 0, resend := [] }
    let s := ((s.moveFlits quay (lost.map fun f => (s.flitOwner f, f))).moveTraffic quay).failReqs
    some ((s.logPf (.event .linkDown 0 0 (BitVec.ofNat 64 quay))).addScore .quay quay 128)

def execLinkDown (quay : Nat) (s : State) : Out := .next ((tryLinkDown quay s).getD s)

/-- LINK_RETRAINED (R428): the link returns within 1 ms, with what it kept for a retry. -/
def execLinkRetrained (quay : Nat) (s : State) : Out :=
  let q := s.quay quay
  .next (if 24 ≤ quay || !q.retraining || q.since + retrainLimit ≤ s.tide then s
    else s.upQuay quay fun q => { q with retraining := false, naks := 0 })

/-! ## What other modules ask (R430, R437) -/

/-- FC7 writes a peer table entry: 256 slots, up to 24 quays. -/
def State.setPeer (s : State) (vf : Nat) (e : PeerEntry) : State :=
  if 256 ≤ e.slot || 65536 ≤ e.dest || 24 < e.quays.length || e.quays.any fun q => decide (24 ≤ q) then s
  else s.upVf vf fun v => { v with peers := (v.peers.filter fun p => p.slot ≠ e.slot) ++ if e.quays = [] then [] else [e] }

/-- FC7 maps an export. -/
def State.setExport (s : State) (n vf base : Nat) : State := { s with exports := (s.exports.filter fun e => e.1 ≠ n) ++ [(n, vf, base)] }

/-- What becomes of a peer's request: it waits, it is refused, or it is a local request of a function at an address. -/
inductive PeerTry
  | wait
  | refused
  | go (vf pa : Nat)
deriving DecidableEq, Repr

/-- A peer's request in its local form: the function and address of an export, where `n` bytes lie in one sector that no core has pinned and the
home admits a peer agent (R360, R430). A pinned line notes the request (R295); a channel in a hold makes it wait (R440). -/
def State.peerAsk (s : State) (num off n : Nat) (need : Need) : State × PeerTry :=
  match s.exports.find? fun e => e.1 = num with
  | none => (s, .refused)
  | some (_, vf, base) =>
    let pa := base + off
    if !isDevice pa || 128 < pa % 128 + n then (s, .refused)
    else if s.pinnedElsewhere 128 pa then (s.notePin 128 128 pa, .wait)
    else if s.channelHeld vf pa n (need = .wr) then (s, .wait)
    else if s.targetPass vf agPeer vf need pa then (s.served 128 (pa / 1024), .go vf pa)
    else (s.logDenied vf agPeer vf need pa, .refused)

/-- A request performs at its home: the code of the response (0 done, 2 uncorrectable), and its bytes. -/
def State.peerDo (s : State) (vf pa n op code : Nat) (data : List Byte) : State × Nat × List Byte :=
  let cls := s.classOf vf
  if op = 2 then
    match s.homeStore cls vf none vf pa (fit n data) with
    | (s, bad) => (if bad then s.chargeUncorr pa else s, if bad then 2 else 0, [])
  else if s.uncorrAt pa n then (s.chargeUncorr pa, 2, [])
  else
    let s := s.l2touch cls vf pa false
    let old := s.homeBytes vf pa n
    if op = 3 then
      let w := 8 * n
      let kind : QKind := if code = 0 then .cas else if code = 9 then .swap else .amo (code - 1)
      match atomicNew kind w (leNat old) (fieldN data 0 8 % 2 ^ w) (fieldN data 8 8 % 2 ^ w) with
      | some v => ((s.homeStore cls vf none vf pa (natBytes v n)).1, 0, old)
      | none => (s, 0, old)
    else (s, 0, old)

/-- An abort from another module reaches the steps that wait for its rank (R437). -/
def State.collAbort (s : State) (vf comm rank : Nat) : State := { s with aborted := (s.aborted ++ [(vf, comm, rank)]).eraseDups }

/-- A request that came on a quay (R429, R430): its response goes back on VC2, charged to the function of the request. It is done with when the flag
is set. -/
def State.serveRequest (s : State) (q : Nat) (f : Flit) : State × Bool :=
  let p := f.payload
  let op := fieldN p 0 1
  let n := fieldN p 24 8
  let answer (s : State) (vf code : Nat) (bs : List Byte) : State :=
    s.putFlit q vf (vcFlit 2 (transportHead (16 + op) code (fieldN p 4 2) vf 0 0 (fieldN p 16 8) bs.length ++ bs))
  if op = 4 then (s.collAbort (fieldN p 6 2) (fieldN p 8 4) (fieldN p 12 4), true)
  else if op = 0 || 3 < op || 128 < n then (answer s 0 1 [], true)
  else match s.peerAsk (fieldN p 8 4) (fieldN p 12 4) n (if op = 1 then .rd else if op = 2 then .wr else .both) with
    | (s, .wait) => (s, false)
    | (s, .refused) => (answer s 0 1 [], true)
    | (s, .go vf pa) =>
      let (s, code, bs) := s.peerDo vf pa n op (fieldN p 1 1) (p.drop 32)
      (answer s vf code bs, true)

/-- A part of a message that came on a quay (R434 to R436): the receive store takes it, or it stays and its credit with it. Once every byte is
accepted the sender is told. -/
def State.takeMessage (s : State) (q : Nat) (f : Flit) : State × Bool :=
  let p := f.payload
  let src := fieldN p 4 2
  let tag := fieldN p 16 8
  let size := fieldN p 24 8
  let mine (a : Arriving) : Bool := a.source = src && a.tag = tag
  let fresh : CollMsg :=
    { vf := fieldN p 6 2, comm := fieldN p 8 4, dst := fieldN p 32 2, src := fieldN p 34 2, tag := fieldN p 36 2, data := [] }
  let m := ((s.arriving.find? mine).map (·.msg)).getD fresh
  let more := (p.drop 40).take (min messageBytes (size - m.data.length))
  let known := ((s.comm? m.vf m.comm).bind fun k => k.ranks[m.dst]?).isSome
  let all : CollMsg := { m with data := m.data ++ more }
  let answer (s : State) (code : Nat) : State := s.putFlit q m.vf (vcFlit 2 (transportHead 21 code src m.vf 0 0 tag 0))
  let rest := s.arriving.filter fun a => !mine a
  if !known then (answer s 1, true)
  else if 8 * 2 ^ 20 < s.storeUsed (s.msgDie m) + more.length && !s.awaited m then (s, false)
  else if all.data.length < size then ({ s with arriving := rest ++ [{ source := src, tag := tag, size := size, msg := all }] }, true)
  else (answer { s with arriving := rest, recvStore := s.recvStore ++ [all] } 0, true)

/-- Whether an earlier flit of a quay that is still to be served holds a later one back: messages stay in order, and requests to one sector (R431,
R435). -/
def holdsBack (a b : Flit) : Bool :=
  a.vc = b.vc && (a.vc = 3 || (fieldN a.payload 8 4 = fieldN b.payload 8 4 && fieldN a.payload 12 4 / 128 = fieldN b.payload 12 4 / 128))

/-- The requests and messages that a quay has received are served as far as they can be; each returns its credit then (R429, R435). -/
def State.serveQuay (s : State) (n : Nat) : State :=
  (s.quay n).received.foldl (fun s f =>
    let before := (s.quay n).received.takeWhile fun g => g ≠ f
    if before.any fun g => holdsBack g f then s
    else
      let (s, done) := if f.vc = 1 then s.serveRequest n f else s.takeMessage n f
      if done then s.upQuay n fun q => { q with received := q.received.erase f, owes := vcSet q.owes f.vc (vcCount q.owes f.vc + 1) } else s) s

/-- A response: the request that it answers has performed (R287, R429). A write that failed is reported as any store that fails (R145). -/
def State.takeResponse (s : State) (f : Flit) : State :=
  let bad := fieldN f.payload 1 1 ≠ 0
  let tag := fieldN f.payload 16 8
  match s.reqs.find? fun r => r.tag = tag && r.resp.isNone with
  | none => s
  | some r =>
    if r.op = 2 then
      let s : State := { s with reqs := s.reqs.filter fun x => x.tag ≠ tag }
      match r.who with
      | some (c, source) => if bad then looseFault s c source (mkCause causeMemUncorr (BitVec.ofNat 64 r.pa)) else s
      | none => s
    else
      let put (x : PeerReq) : PeerReq := if x.tag = tag then { x with resp := some (bad, (f.payload.drop 32).take r.n) } else x
      { s with reqs := s.reqs.map put }

/-- FLIT_RECEIVE (R427, R428): a flit with a bad CRC or out of sequence is dropped and nakked; a VC above 3 is dropped and counted;
credits return, a nak resends, data is delivered. An idle flit has no sequence. -/
def execFlitReceive (quay : Nat) (f : Flit) (crcOk : Bool) (s : State) : Out :=
  let q := s.quay quay
  let idle := f.vc = 0 && f.ty = 0
  .next (if 24 ≤ quay || !q.up || q.retraining then s
    else if !crcOk || (f.fseq ≠ q.expect && !idle) then s.putFlit quay fwMaster nakFlit
    else if 3 < f.vc then s.upQuay quay fun q => { q with expect := q.expect + 1, dropped := q.dropped + 1 }
    else
      let s := s.upQuay quay fun q =>
        { q with expect := if idle then q.expect else q.expect + 1
                 spent := vcSet q.spent f.credVc (vcCount q.spent f.credVc - f.cred)
                 naks := if f.ty = 3 then q.naks else 0
                 peerSeq := f.aseq
                 ackDue := q.ackDue || f.ty = 1
                 owes := if f.ty = 1 && (f.vc = 0 || f.vc = 2) then vcSet q.owes f.vc (vcCount q.owes f.vc + 1) else q.owes
                 received := if f.ty = 1 && (f.vc = 1 || f.vc = 3) then q.received ++ [f] else q.received }
      if f.ty = 3 then s.nak quay f.aseq
      else if f.ty ≠ 1 then s
      else if f.vc = 2 then s.takeResponse f
      else s.serveQuay quay)

end Sys2Proof.Machine
end

