-- ==== Sys2Proof/Machine/Drydock.lean ====
section
/-! DEFINITION. FC4, the drydock manager (R438 to R451): leases, channel holds, outcomes, scores, retirement, and the search for the
core behind a silent corruption. What a pattern run puts out is an event's argument, since the patterns are part of the firmware image; digests,
faults and outcomes are worked out here (log 13). -/

namespace Sys2Proof.Machine

/-! ## Records (R438, R448) -/

/-- The 64 bytes of a lease record. -/
def Lease.bytes (l : Lease) : List Byte :=
  fit 64 (natBytes l.id 8 ++ natBytes (kindCode l.kind) 1 ++ natBytes l.state 1 ++ natBytes l.unit 2 ++ natBytes l.patset 2 ++
    natBytes l.outcome 1 ++ natBytes l.reason 1 ++ natBytes l.treq 8 ++ natBytes l.tgrant 8 ++ natBytes l.tend 8 ++
    natBytes l.score0 2 ++ natBytes l.score1 2 ++ natBytes l.holds 4 ++ fit 16 l.digest)

/-- The 32 bytes of a retirement record. -/
def Retired.bytes (r : Retired) : List Byte :=
  natBytes (kindCode r.kind) 1 ++ zeros 1 ++ natBytes r.unit 2 ++ zeros 4 ++ natBytes r.tide 8 ++ natBytes r.patset 2 ++
    natBytes r.score 2 ++ fit 12 r.digest

/-- How many units of a kind the module has (R438). -/
def unitCount : UnitKind → Nat
  | .core => 128
  | .quay => 24
  | .channel => 1024

/-- The lease with a number. -/
def State.lease? (s : State) (id : Nat) : Option Lease := s.leases.find? fun l => l.id = id

/-- Change a lease. -/
def State.upLease (s : State) (id : Nat) (f : Lease → Lease) : State :=
  { s with leases := s.leases.map fun l => if l.id = id then f l else l }

/-- Whether a unit is out of service. -/
def State.unitOut (s : State) (k : UnitKind) (u : Nat) : Bool :=
  (s.retired.any fun r => r.kind = k && r.unit = u) || (s.unitRec k u).outOfService ||
    (k = .core && !(s.core u).inService)

/-- Whether a unit serves, in WATCH or not: a unit out of service was never returned. -/
def State.serves (s : State) (k : UnitKind) (u : Nat) : Bool :=
  !(s.unitRec k u).outOfService && match k with
    | .channel => !s.channelGone u
    | _ => !s.unitOut k u

/-! ## Requests (R447) -/

/-- ROTATION_LEASE: a unit's rotation has come round. -/
def tryRotationLease (k : UnitKind) (u : Nat) (s : State) : Option State :=
  if unitCount k ≤ u || s.unitOut k u || (s.leases.any fun l => l.kind = k && l.unit = u && l.open?) || s.tide < s.rotationDue k u then
    none
  else some (s.requestLease k u 0)

def execRotationLease (k : UnitKind) (unit : Nat) (s : State) : Out := .next ((tryRotationLease k unit s).getD s)

/-- WATCH_LEASE (R444): 1/16 of the rotation period after a unit's SUSPECT. -/
def tryWatchLease (k : UnitKind) (u : Nat) (s : State) : Option State :=
  match (s.unitRec k u).watchDue with
  | none => none
  | some t =>
    if unitCount k ≤ u || s.unitOut k u || s.tide < t then none
    else some ((s.upUnit k u fun r => { r with watchDue := none }).requestLease k u 2)

def execWatchLease (k : UnitKind) (unit : Nat) (s : State) : Out := .next ((tryWatchLease k unit s).getD s)

/-- SCORE_DECAY (R446): every 2^32 cycles each score loses a sixteenth. -/
def tryScoreDecay (s : State) : Option State :=
  if s.tide / 2 ^ 32 < s.decayNo then none
  else
    let down (r : UnitRec) : UnitRec := { r with score := r.score - r.score / 16 }
    some { s with units := s.units.map down, decayNo := s.decayNo + 1 }

def execScoreDecay (s : State) : Out := .next ((tryScoreDecay s).getD s)

/-! ## Grants (R401, R439, R441) -/

/-- A lease is held. -/
def State.holdLease (s : State) (l : Lease) : State :=
  (s.upLease l.id fun x => { x with state := 3, tgrant := s.tide }).upUnit l.kind l.unit fun r =>
    { r with lastLease := s.tide, early := none }

/-- Whether no iteration is placed on a core and its contexts may be switched out. -/
def State.coreIdle (s : State) (n : Nat) : Bool := (s.residents n).all fun k => k.run = .idle && k.quiet

/-- Whether another core of the die is leased (R439). -/
def State.dieLeased (s : State) (n : Nat) : Bool := (List.range 16).any fun i => n / 16 * 16 + i ≠ n && (s.core (n / 16 * 16 + i)).leased

/-- The context of a lease's pattern run goes. -/
def State.endRun (s : State) (l : Lease) : State := match l.ctx with
  | some c => (s.destroy c).upLease l.id fun x => { x with ctx := none }
  | none => s

/-- A context whose streams wait for FC4's hand. -/
def Ctx.inHand (k : Ctx) : Ctx :=
  let out (k : Ctx) (st : Stream) : Ctx := k.upSeq st fun q => { q with exited := true }
  { out (out (out (out k .x) .l) .c) .s with run := .running }

/-- A pattern run starts (R439, R441): on a core a launch with a firmware identifier (R378), in a fresh strict context of function 0 with the whole
scratchpad and all tiles, whose words FC4 puts through; on a quay the pattern's VC0 flits. -/
def State.patternRun (s : State) (id : Nat) : State :=
  match s.lease? id with
  | none => s
  | some l => match l.kind with
    | .core =>
      let s := s.endRun l
      let s : State := { (s.upLease id fun x => { x with ident := fwLaunchId 4 s.fwLaunches }) with fwLaunches := s.fwLaunches + 1 }
      match s.createWith (1024, 32, 128) 0 l.unit (Sleeve.free 0) with
      | some (s, c) => (s.upCtx c Ctx.inHand).upLease id fun x => { x with ctx := some c }
      | none => s
    | .quay =>
      (Config.patternFlits (Config.patternSeed .quay + b2n l.retest)).foldl (fun s p => s.putFlit l.unit fwMaster (vcFlit 0 p)) s
    | .channel => s

/-- Whether the context of a lease's pattern run has met a fault of any cause (R439). -/
def State.patternFault (s : State) (l : Lease) : Bool := l.ctx.any fun c => (s.ctx c).csr.faultcause ≠ 0

/-- A core lease is granted once no iteration is placed on the core: its contexts are switched out. -/
def State.grantCore (s : State) (l : Lease) : Option State :=
  let n := l.unit
  if l.state ≠ 2 || !s.coreIdle n || s.coreHeld n || s.dieLeased n then none
  else
    let mine := (List.range s.ctxs.length).filter fun c => (s.ctx c).core = some n && (s.ctx c).run ≠ .gone
    let s := (mine.foldl (fun s c => s.switchOut c) s).upCore n fun h => { h with leased := true, leasePending := false }
    some ((s.patternRun l.id).holdLease l)

/-- A quay lease is granted once its traffic can move; that the peer end has granted its own is what the event says. -/
def State.grantQuay (s : State) (l : Lease) : Option State :=
  if l.state ≠ 1 || (s.entriesOver l.unit).any fun e => (s.otherQuay l.unit e.2).isNone then none
  else some ((((s.moveTraffic l.unit).upQuay l.unit fun q => { q with leased := true }).patternRun l.id).holdLease l)

/-- LEASE_GRANT. -/
def tryLeaseGrant (id : Nat) (s : State) : Option State :=
  match s.lease? id with
  | none => none
  | some l => match l.kind with
    | .core => s.grantCore l
    | .quay => s.grantQuay l
    | .channel => if l.state = 1 then some (s.holdLease l) else none

def execLeaseGrant (lease : Nat) (s : State) : Out := .next ((tryLeaseGrant lease s).getD s)

/-- LEASE_FORCE_CHECKPOINT (R401): 60 s after the request the remaining iterations are checkpointed, and those that have stopped are saved as they stand. -/
def tryLeaseForceCheckpoint (id : Nat) (s : State) : Option State :=
  match s.lease? id with
  | none => none
  | some l =>
    let mine := s.holders l.unit
    if l.kind ≠ .core || l.state ≠ 2 || s.tide < l.treq + 162000000000 || mine = [] then none
    else some (mine.foldl (fun s c => s.forceOut c) s)

def execLeaseForceCheckpoint (lease : Nat) (s : State) : Out := .next ((tryLeaseForceCheckpoint lease s).getD s)

/-- QUAY_LEASE_DEFER (R441): no other quay is up, or the peer has not answered for 2^24 cycles. -/
def tryQuayLeaseDefer (id : Nat) (s : State) : Option State :=
  match s.lease? id with
  | none => none
  | some l =>
    let stuck := (s.entriesOver l.unit).any fun e => (s.otherQuay l.unit e.2).isNone
    if l.kind ≠ .quay || l.state ≠ 1 || !(stuck || l.treq + 2 ^ 24 ≤ s.tide) then none
    else
      some ((s.upLease id fun x => { x with state := 7 }).upUnit .quay l.unit fun r =>
        { r with lastLease := s.tide, early := none })

def execQuayLeaseDefer (lease : Nat) (s : State) : Out := .next ((tryQuayLeaseDefer lease s).getD s)

/-! ## Channel holds (R440) -/

/-- The line number on its die of line `i` of a channel (R346). -/
def channelLine (c i : Nat) : Nat :=
  i * 128 + Nat.xor (c % 128) (Nat.xor (i % 128) (Nat.xor (i / 128 % 128) (i / 16384 % 128)))

/-- The sectors of a 64 KiB window of a channel. -/
def windowSectors (c w : Nat) : List Nat :=
  (List.range 64).flatMap fun i =>
    let line := c / 128 * 2 ^ 28 + channelLine c (w * 64 + i)
    (List.range 8).map fun j => line * 8 + j

/-- CHANNEL_HOLD: a window of a leased channel, 324,000 cycles after the last one, one channel of a stack at once. -/
def tryChannelHold (c w : Nat) (s : State) : Option State :=
  match s.leases.find? fun l => l.kind = .channel && l.unit = c && l.state = 3 with
  | none => none
  | some l =>
    let busy := s.holds.any fun h => h.channel / 32 = c / 32
    let soon := s.lastHold.any fun e => e.1 = c && decide (s.tide < e.2 + 324000)
    if 32768 ≤ w || busy || soon then none
    else
      let h : ChanHold := { channel := c, lease := l.id, window := w, since := s.tide }
      let s : State := { s with holds := s.holds ++ [h] }
      some (s.upLease l.id fun x => { x with holds := x.holds + 1 })

def execChannelHold (channel window : Nat) (s : State) : Out := .next ((tryChannelHold channel window s).getD s)

/-- CHANNEL_HOLD_END: the window is restored; what cannot be restored reads as MEM_UNCORR, and the outcome will be FAIL. -/
def tryChannelHoldEnd (c : Nat) (restored : Bool) (s : State) : Option State :=
  match s.holds.find? fun h => h.channel = c with
  | none => none
  | some h =>
    let s := { s with holds := s.holds.filter fun x => x.channel ≠ c, lastHold := sset 0 s.lastHold c s.tide }
    some (if restored then s
      else { (s.upLease h.lease fun x => { x with failed := true }) with uncorr := (s.uncorr ++ windowSectors c h.window).eraseDups })

def execChannelHoldEnd (channel : Nat) (restored : Bool) (s : State) : Out := .next ((tryChannelHoldEnd channel restored s).getD s)

/-! ## Retirement (R448) -/

/-- Every sleeve that holds a core loses it: a capacity change (R400). -/
def State.dropCore (s : State) (n : Nat) : State :=
  let hit := (s.sleeves.filter fun z => z.cores.contains n).map (·.num)
  let out (z : Sleeve) : Sleeve := { z with cores := z.cores.filter (· ≠ n) }
  let s := { (s.upCore n fun h => { h with inService := false, leased := false, leasePending := false }) with
    sleeves := s.sleeves.map out }
  hit.foldl (fun s z => s.capChange z) s

/-- FC7 moves what waits at a quay, removes it from every peer entry and clears its reservations, reporting the functions (R416, R431). -/
def State.dropQuay (s : State) (u : Nat) : State :=
  let q := s.quay u
  let s := s.moveTraffic u
  let cut (p : PeerEntry) : PeerEntry := { p with quays := p.quays.filter (· ≠ u) }
  let vfs := s.vfs.map fun e => (e.1, { e.2 with peers := e.2.peers.map cut })
  let off (q : Quay) : Quay := { q with up := false, leased := false, retraining := false, shares := [], sharesIn := [], deficit := [], spare := [] }
  let s := { s with vfs := vfs, quays := vmod s.quays u off }
  (q.shares ++ q.sharesIn.filter fun e => q.shares.all fun f => f.1 ≠ e.1).foldl (fun s e => s.logPf (.event .quayCleared e.1 0 (BitVec.ofNat 64 u))) s

/-- A unit leaves service: its retirement record, with the table signed again, or WATCH out of service when the table is full. A channel serves on in WATCH until its die's
highest 2 GiB is in no sleeve (`State.channelGone`). -/
def State.retireUnit (s : State) (k : UnitKind) (u patset : Nat) (digest : List Byte) : State × Bool :=
  let full := decide (1024 ≤ s.retired.length)
  let r : Retired := { kind := k, unit := u, tide := s.tide, patset := patset, score := (s.unitRec k u).score, digest := digest.take 12 }
  let s := if full then (s.upUnit k u fun r => { r with outOfService := true }).logPf (.event .dryStoreFull 0 0 (BitVec.ofNat 64 u))
    else { s with retired := s.retired ++ [r], tableSig := Config.sign ((s.retired ++ [r]).flatMap Retired.bytes) }
  (match k with
    | .core => s.dropCore u
    | .quay => s.dropQuay u
    | .channel => s, full)

/-! ## Outcomes (R443 to R445) -/

/-- A unit is free again. -/
def State.freeUnit (s : State) (k : UnitKind) (u : Nat) : State :=
  match k with
  | .core => s.upCore u fun h => { h with leased := false, leasePending := false }
  | .quay => s.upQuay u fun q => { q with leased := false }
  | .channel => { s with holds := s.holds.filter fun h => h.channel ≠ u }

/-- The digest of what a pattern run put out, and the golden digest of its seed; a retest has the seed plus 1 (R442). -/
def obsDigest (o : LeaseObs) : List Byte := fit 64 (Config.shake256 o.outputs)
def Lease.golden (l : Lease) : List Byte := fit 64 (Config.golden l.kind (Config.patternSeed l.kind + b2n l.retest))

/-- Whether the corrected events of a run pass the allowance of its kind (R443): core 0, channel 4 in a window, quay 16. -/
def aboveAllowance : UnitKind → List Nat → Bool
  | .core, ns => ns.any (0 < ·)
  | .channel, ns => ns.any (4 < ·)
  | .quay, ns => decide (16 < ns.sum)

/-- The outcome of a run (R440, R443): 1 PASS, 2 SUSPECT, 3 FAIL. -/
def State.outcomeOf (s : State) (l : Lease) (o : LeaseObs) : Nat :=
  if o.uncorrectable || l.failed || s.patternFault l || obsDigest o ≠ l.golden then 3 else if aboveAllowance l.kind o.corrected then 2 else 1

/-- A unit's score is set. -/
def State.setScore (s : State) (k : UnitKind) (u v : Nat) : State := s.upUnit k u fun r => { r with score := v }

/-- A lease ends: its record, with the tide if the unit is returned, and a watch if it leaves in WATCH. -/
def State.endLease (s : State) (l : Lease) (st outcome : Nat) (digest : List Byte) : State :=
  let score := (s.unitRec l.kind l.unit).score
  let s := s.endRun l
  let s := s.upLease l.id fun x =>
    { x with state := st, outcome := outcome, tend := if s.serves l.kind l.unit then s.tide else 0, score1 := score, digest := fit 16 digest }
  if st = 5 then s.upUnit l.kind l.unit fun r => { r with watchDue := some (s.tide + s.period l.kind / 16) } else s

/-- LEASE_OUTCOME: what the run showed decides (R443 to R445). -/
def tryLeaseOutcome (id : Nat) (o : LeaseObs) (s : State) : Option State :=
  match s.lease? id with
  | none => none
  | some l =>
    let k := l.kind
    let u := l.unit
    if l.state ≠ 3 then none
    else match s.outcomeOf l o, l.retest with
      | 1, false => some (((s.setScore k u ((s.unitRec k u).score / 2)).freeUnit k u).endLease l 4 1 (obsDigest o))
      | 2, false => some (((s.addScore k u 128).freeUnit k u).endLease l 5 2 (obsDigest o))
      | _, false =>
        let s := s.addScore k u 1024
        some ((s.upLease id fun x =>
          { x with retest := true, reason := max x.reason 3, failed := false, outcome := 3, score1 := (s.unitRec k u).score
                   digest := fit 16 (obsDigest o) }).patternRun id)
      | 3, true =>
        let (s, full) := s.retireUnit k u l.patset (obsDigest o)
        some (s.endLease l (if full || (k = .channel && !s.channelGone u) then 5 else 6) 3 (obsDigest o))
      | n, true => some (((s.addScore k u 256).freeUnit k u).endLease l 5 n (obsDigest o))

def execLeaseOutcome (lease : Nat) (o : LeaseObs) (s : State) : Out := .next ((tryLeaseOutcome lease o s).getD s)

/-- LEASE_HOLD_LIMIT (R439, R441): a unit held too long is returned; after a first FAIL it is returned in WATCH. -/
def tryLeaseHoldLimit (id : Nat) (s : State) : Option State :=
  match s.lease? id with
  | none => none
  | some l =>
    let lim := match l.kind with
      | .core => some (if l.retest then 2 ^ 29 else 2 ^ 28)
      | .quay => some (2 ^ 30)
      | .channel => none
    match lim with
    | none => none
    | some n =>
      if l.state ≠ 3 || s.tide < l.tgrant + n then none
      else some ((s.freeUnit l.kind l.unit).endLease l (if l.retest then 5 else 4) l.outcome l.digest)

def execLeaseHoldLimit (lease : Nat) (s : State) : Out := .next ((tryLeaseHoldLimit lease s).getD s)

/-! ## FW.REQ (R449) -/

/-- Bytes written behind a reply. -/
def State.behindReply (s : State) (q : FwReq) (bs : List Byte) : State := (s.fwWrite 0 (q.replyVa + 64) (bs.length / 128 + 2) bs).1

/-- LEASE_LIST. -/
def execLeaseList (q : FwReq) (k : Option UnitKind) (unit : Nat) (s : State) : Out :=
  fwRun q 4 0x0401 (fun s =>
    let ls := s.leases.filter fun l => match k with
      | none => true
      | some k => l.kind = k && l.unit = unit
    let bad := match k with
      | none => false
      | some k => decide (unitCount k ≤ unit)
    orElseDo s bad repBadField
      (s.behindReply q (ls.flatMap Lease.bytes), FwAns.words [BitVec.ofNat 64 ls.length])) s

/-- SCORE_READ: the score, STATE of the unit's last lease, and its last outcome. -/
def execScoreRead (q : FwReq) (k : UnitKind) (unit : Nat) (s : State) : Out :=
  fwRun q 4 0x0402 (fun s =>
    let mine := s.leases.filter fun l => l.kind = k && l.unit = unit
    let last := mine.getLast?
    let done := (mine.filter fun l => l.outcome ≠ 0).getLast?
    orElseDo s (unitCount k ≤ unit) repBadField
      (s, FwAns.words [BitVec.ofNat 64 (s.unitRec k unit).score, BitVec.ofNat 64 ((last.map (·.state)).getD 0),
        BitVec.ofNat 64 ((done.map (·.outcome)).getD 0)])) s

/-- RETIRE_LIST. -/
def execRetireList (q : FwReq) (s : State) : Out :=
  fwRun q 4 0x0403 (fun s =>
    (s.behindReply q (s.retired.flatMap Retired.bytes), FwAns.words [BitVec.ofNat 64 s.retired.length])) s

/-- DRY_CTL: the rotation period of a kind, as a power of two. -/
def execDryCtl (q : FwReq) (k : UnitKind) (period : Nat) (s : State) : Out :=
  fwRun q 4 0x0404 (fun s =>
    let i := match k with
      | .core => 0
      | .quay => 1
      | .channel => 2
    orElseDo s (period < 30 || 44 < period) repBadField ({ s with periods := vmod s.periods i fun _ => period }, { status := 0 })) s

/-! ## The search for a core (R451) -/

/-- Insert a core by its score, then its number. -/
def State.insertScore (s : State) (n : Nat) : List Nat → List Nat
  | [] => [n]
  | m :: t =>
    let a := (s.unitRec .core n).score
    let b := (s.unitRec .core m).score
    if a < b || (a = b && n ≤ m) then n :: m :: t else m :: s.insertScore n t

/-- Q1 and Q2: two sets of in-service cores outside the placement with the lowest scores. They are cores of the function's sleeve, as many in each as
the placement has where there are so many: DESIGN CHOICE (log 60). -/
def State.cleanSets (s : State) (p : Placement) : Option (List Nat × List Nat) :=
  let free := ((s.sleeveCores p.vf).filter fun n => !p.cores.contains n).foldr s.insertScore []
  let m := min p.cores.length (free.length / 2)
  if m = 0 then none else some (free.take m, (free.drop m).take m)

/-- The placement that FC1 logged last for a record of a function's ring. -/
def State.placement? (s : State) (vf ring n : Nat) : Option Placement :=
  (s.placements.filter fun p => p.vf = vf && p.ring = ring && p.record = n).getLast?

/-- The verdict of a search: the scores, the lease that CORE requests, and the reply. -/
def State.located (s : State) (x : Locating) (verdict unit : Nat) : State :=
  let s : State := { s with locating := none, rings := s.rings.filter fun r => !(r.vf = x.vf && r.num = fwRing) }
  let s := if verdict = 1 then (s.addScore .core unit 512).requestLease .core unit 4
    else if verdict = 2 then (((s.placement? x.vf x.ring x.record).map (·.cores)).getD []).foldl (fun s n => s.addScore .core n 64) s
    else s
  s.answer x.q 4 0x0405 (FwAns.words [BitVec.ofNat 64 verdict, BitVec.ofNat 64 unit])

/-- The search goes on in a set of cores, of which the retired are left out: it is down to one, or the lower half is next. -/
def State.search (s : State) (x : Locating) (set : List Nat) : State :=
  match (set.filter fun n => (s.sleeveCores x.vf).contains n).foldr insertNat [] with
  | [] => s.located x 3 0
  | [n] => s.located x 1 n
  | set => { s with locating := some { x with set := set, phase := 2, cores := set.take (set.length / 2), started := false } }

/-- FC4 replays the record on the cores of the search's next step, in strict mode and under a firmware identifier (R378, R386). -/
def State.startReplay (s : State) (x : Locating) : State :=
  let seq := s.fwLaunches
  let c : Cmd := { Cmd.accept x.vf fwRing seq s.tide (zeros 128) with opcode := 0x0A, state := 2, tstart := s.tide }
  let s := (s.upRing x.vf fwRing fun r => { r with cmds := [c] }).runRecord x.vf fwRing c x.bufva x.record (some x.cores)
  let n := if ((s.ring x.vf fwRing).cmd? seq).any fun c => c.graph.isSome then 4097 else 1
  { s with fwLaunches := seq + n, locating := some { x with seq := seq, started := true } }

/-- The digests of a replay's regions. -/
def State.regionDigests (s : State) (vf : Nat) : List (Word × Nat × List Byte) → State × List (List Byte)
  | [] => (s, [])
  | (va, n, _) :: t =>
    let (s, bs) := s.fwRead vf va (n / 128 + 2) n
    let (s, ds) := s.regionDigests vf t
    (s, (match bs with | .ok b => fit 64 (Config.shake256 b) | .error _ => []) :: ds)

/-- One step of a search (R451): a replay starts once none of its cores is leased; when it is over its digests decide. Of a set that is searched a
replay that a fault ends differs from the reference; any other that cannot run leaves the corruption UNRESOLVED (log 60). -/
def tryLocate (s : State) : Option State :=
  match s.locating with
  | none => none
  | some x =>
    if !x.started then
      if x.cores.any fun n => (s.core n).leased || (s.core n).leasePending then none else some (s.startReplay x)
    else match (s.ring x.vf fwRing).cmd? x.seq with
      | none => some (s.located x 3 0)
      | some c => if c.final then some (s.located x 3 0) else match s.cmdOver c with
        | none => none
        | some (_, status, _, _) =>
          if status ≠ 0 && !(status = 0x0A && 2 ≤ x.phase) then some (s.located x 3 0)
          else
            let s := s.releaseVf x.vf
            let s := match c.graph with
              | some gn => s.upGraph gn fun g => { g with ended := true }
              | none => s
            let (s, ds) := s.regionDigests x.vf c.regs
            let ds := if status = 0 then ds else []
            some (match x.phase with
              | 0 => { s with locating := some { x with ref := ds, phase := 1, cores := x.q2, started := false } }
              | 1 =>
                if ds ≠ x.ref then s.located x 3 0
                else if c.regs.map (·.2.2) = x.ref then s.located x 0 0
                else s.search x x.set
              | 2 =>
                if ds ≠ x.ref then s.search x x.cores
                else { s with locating := some { x with phase := 3, cores := x.set.filter fun n => !x.cores.contains n, started := false } }
              | _ => if ds ≠ x.ref then s.search x x.cores else s.located x 2 0)

/-- DRY_LOCATE (R451): FC4 takes the request, one at a time; a step of the search is made in each tide cycle, or as the event comes again. -/
def execDryLocate (q : FwReq) (ring : Nat) (bufVa : Word) (rec_ vf : Nat) (s : State) : Out :=
  .next (match s.locating with
    | some x => if x.q = q then (tryLocate s).getD s else s
    | none => match (if s.booted && q.vf = 0 then s.asking q 4 0x0405 else none) with
      | none => s
      | some c =>
        let s := s.takeMail c
        match s.placement? vf ring rec_ with
        | none => s.answer q 4 0x0405 { status := repBadField }
        | some p => match s.findRecord p.vf bufVa rec_ with
          | (s, none) => s.answer q 4 0x0405 { status := repBadField }
          | (s, some _) => match s.cleanSets p with
            | none => s.answer q 4 0x0405 (FwAns.words [3, 0])
            | some (q1, q2) =>
              { s with locating := some { q := q, ring := ring, vf := p.vf, bufva := bufVa, record := rec_, seq := 0, q2 := q2, set := p.cores,
                                          phase := 0, cores := q1, started := false, ref := [] } })

end Sys2Proof.Machine
end

