-- ==== Sys2Proof/Machine/Reset.lean ====
section
/-! DEFINITION. Keys, VF reset, attestation and TDISP (R414, R418, R419, R424 to R426), SR-IOV (R366), reset and boot (R452 to R456),
power (R457), and the writes of the host to registers (R367). -/

namespace Sys2Proof.Machine

/-! ## Keys (R414) -/

/-- The sectors that lines of a key index hold dirty. -/
def State.dirtyUnder (s : State) (vf : Nat) : List Nat :=
  s.l2.flatMap fun e => (e.2.filter fun l => l.key = vf).flatMap (·.dirty)

/-- L2 and RDC lines that hold a key index leave without a write-back: of their dirty sectors the channel keeps an earlier content, which is a
free value (log 85). -/
def State.dropKeyLines (s : State) (vf : Nat) : State :=
  let lost := (s.dirtyUnder vf).flatMap fun x => keyed (x * 128) ((List.range 128).map fun i => Config.lostByte s.tide (x * 128 + i))
  let s := s.l2out fun _ l => l.key = vf
  { s with mem := ssets 0 s.mem lost, rdc := s.rdc.filter fun r => r.vf ≠ vf }

/-- KEY_LOAD: wrapped under an established session, refused while the function has a context, a berth or an enabled ring. -/
def execKeyLoad (q : FwReq) (vf session : Nat) (wrapped : List Byte) (s : State) : Out :=
  fwRun q 5 0x0501 (aboutVf vf fun s =>
    let v := s.vf vf
    let inUse := s.ctxsOf vf ≠ [] || v.berths ≠ [] || s.rings.any fun r => r.vf = vf && r.en
    if !(s.sessions.any fun x => x.num = session && x.done && (x.vf = vf || x.vf = 0)) then (s, { status := repBadField })
    else if s.tdiLocked vf then (s, { status := repTdiLocked })
    else if inUse then (s, { status := repNotPermitted })
    else
      let s := s.dropKeyLines vf
      let s := { s with keys := sset 0 s.keys vf (Config.unwrapKey session wrapped + 1) }
      (s.zeroPage vf v.winBase (v.winLimit - v.winBase), { status := 0 })) s

/-! ## VF reset (R418, R419) -/

/-- The command entries of the report: each index-engine or merge command that was stopped. -/
def State.stopped (s : State) (vf : Nat) : List (List Byte) :=
  let entry (c seq kind applied : Nat) : List Byte :=
    fit 64 (natBytes 0x0602 2 ++ natBytes (ctxid c) 2 ++ natBytes kind 1 ++ zeros 3 ++ natBytes seq 8 ++ natBytes applied 4)
  (s.ctxsOf vf).flatMap fun c =>
    let k := s.ctx c
    (match k.ie with
      | some r => if r.ended then [] else [entry c r.seq (fieldN r.blk 16 1) (if fieldN r.blk 16 1 = 4 then r.applied else r.served)]
      | none => []) ++
    (match k.mu with
      | some r => if r.ended then [] else [entry c r.seq (fieldN r.blk 16 1) r.rows]
      | none => [])

/-- A VF reset, in the order of R418: 1 FLR, 2 VF.RESET, 3 TDISP ERROR. -/
def State.resetVf (s : State) (vf reason : Nat) : State :=
  let start := s.tide
  let recs := s.stopped vf
  let killed := (s.launches.filter fun l => l.vf = vf && l.live).length
  let rings := s.rings.filter fun r => r.vf = vf
  let cancelled := (rings.map fun r => (r.cmds.filter fun c => !c.final).length).sum
  let s := match (s.vf vf).stopReq with
    | some q => s.answer q 2 0x020B { status := repNotPermitted }
    | none => s
  let s := s.upVf vf fun v => { v with resetting := true, stopReq := none }
  let s := rings.foldl (fun s r =>
    let s := s.killRing vf r.num
    ((s.ring vf r.num).cmds.filter fun c => c.state = 2).foldl (fun s c => s.finishCmd vf r.num c.seq 6) s) s
  let s := (List.range s.launches.length).foldl (fun s l =>
    if ((s.launch? l).any fun x => x.vf = vf && x.live) then s.killLaunch l 0x0C 0 else s) s
  let s := (s.ctxsOf vf).foldl (fun s c => (s.abandonColl c).destroy c) s
  let s := (s.vf vf).berths.foldl (fun s b => s.freeBerth vf b.num) s
  let stopG (g : Graph) : Graph := if g.vf = vf then { g with ended := true, cur := none } else g
  let s := { ((s.dropTlb vf 0 (2 ^ 56)).dropKeyLines vf) with
    keys := sset 0 s.keys vf s.nextKey, nextKey := s.nextKey + 1, rings := s.rings.filter fun r => r.vf ≠ vf
    graphs := s.graphs.map stopG, faults := s.faults.filter (fun r => r.vf ≠ vf), reqs := s.reqs.filter fun r => r.vf ≠ vf }
  let head := fit 64 (natBytes 0x0601 2 ++ natBytes vf 2 ++ natBytes reason 1 ++ zeros 1 ++ natBytes recs.length 2 ++ natBytes start 8 ++
    natBytes s.tide 8 ++ natBytes killed 4 ++ natBytes cancelled 4)
  let s := (head :: recs).foldl (fun s b => s.logPf (.raw b)) s
  s.upVf vf fun v => { v with resetting := false, suspended := false, tdi := 0, tracking := false, dirtyLog := [] }

/-- VF_RESET (R418). -/
def execVfReset (q : FwReq) (vf : Nat) (s : State) : Out :=
  fwRun q 6 0x0601 (aboutVf vf fun s => orElseDo s (vf = 0) repBadField (s.resetVf vf 2, { status := 0 })) s

/-- TDISP_ERROR: the TDI moved to ERROR (R418). -/
def execTdispError (vf : Nat) (s : State) : Out :=
  .next (if s.booted && (s.vf vf).enabled && vf ≠ 0 then s.resetVf vf 3 else s)

/-- TDISP_REQUEST (R424): lock the interface, or let a locked one run. -/
def execTdispRequest (vf : Nat) (run : Bool) (s : State) : Out :=
  let v := s.vf vf
  .next (if !s.booted || !v.enabled || vf = 0 then s
    else if run then (if v.tdi = 1 then s.upVf vf fun v => { v with tdi := 2 } else s)
    else if v.tdi = 0 then s.upVf vf fun v => { v with tdi := 1 } else s)

/-! ## SR-IOV (R366) -/

/-- A function that the driver enables: FC2 holds a root table and a code range for it (log 6). -/
def Vf.enable (vf : Nat) : Vf :=
  { Vf.reset with enabled := true, root := rootOf vf, codebase := codeBaseOf vf, codebound := codeBaseOf (vf + 1) }

/-- One function that the driver disables owns no ring, context or key. -/
def State.disableVf (s : State) (vf : Nat) : State :=
  let s := s.resetVf vf 1
  { (s.upVf vf fun _ => Vf.reset) with keys := sset 0 s.keys vf 0, comms := s.comms.filter fun m => m.vf ≠ vf }

/-- SRIOV_VF_ENABLE. -/
def execSriovVfEnable (n : Nat) (s : State) : Out :=
  let off := (s.vfs.filter fun e => e.2.enabled && decide (n < e.1)).map (·.1)
  let new := ((List.range 4096).filter fun v => decide (1 ≤ v) && decide (v ≤ n) && !(s.vf v).enabled)
  .next (if !s.booted || 4095 < n then s
    else new.foldl (fun s v => s.upVf v fun _ => Vf.enable v) (off.foldl (fun s v => s.disableVf v) s))

/-! ## Attestation (R425, R426) -/

/-- Block 4 of a function: FEATMASK, SCOPELIMIT, DBGEN, sleeve record, MAT windows, quay shares; of the physical function: the sleeve
map. -/
def State.block4 (s : State) (vf : Nat) : List Byte :=
  let zb (z : Sleeve) : List Byte :=
    natBytes z.num 1 ++ natBytes z.kind 1 ++ natBytes z.slots 1 ++ natBytes z.owner 2 ++
      natBytes ((z.cores.map fun n => 2 ^ n).sum) 16 ++ natBytes z.base 8 ++ natBytes z.limit 8
  let v := s.vf vf
  Config.shake256 (if vf = 0 then s.sleeves.flatMap zb
    else
      natBytes v.featmask.toNat 8 ++ natBytes (v.scopelimit.getD 5) 1 ++ natBytes (b2n v.dbgen) 1 ++
        ((s.sleeves.filter fun z => v.sleeve = some z.num).flatMap zb) ++
        ((s.mat.filter fun e => bitsN e.w0 23 12 = vf).flatMap fun e => natBytes e.w0.toNat 8 ++ natBytes e.w1.toNat 8) ++
        (s.quays.toList.flatMap fun q => natBytes (q.share vf) 1))

/-- Berths in ascending order of number. -/
def insertBerth (b : Berth) : List Berth → List Berth
  | [] => [b]
  | c :: t => if b.num ≤ c.num then b :: c :: t else c :: insertBerth b t

/-- Block 3: the base region as it stands (R263). -/
def State.block3 (s : State) : List Byte := Config.shake256 ((List.range Config.baseWords).flatMap fun i => natBytes (s.baseWord i).toNat 16)

/-- The measurement blocks of a response, each an index byte and a digest. -/
def State.measurements (s : State) (vf : Nat) : List Byte :=
  let wcs := (((s.vf vf).berths.foldr insertBerth []).filterMap fun b => b.wcs.map (·.digest)).eraseDups
  let low := if vf = 0 then
      ((List.range 2).flatMap fun i => natBytes (i + 1) 1 ++ fit 64 (Config.bootMeasurement (i + 1) s.imageOk)) ++ natBytes 3 1 ++ fit 64 s.block3
    else []
  low ++ natBytes 4 1 ++ fit 64 (s.block4 vf) ++ wcs.zipIdx.flatMap fun e => natBytes (16 + e.2) 1 ++ fit 64 e.1

/-- What R425 states of an answer: the version is 1.3; the base algorithm fields are zero, and the extended ones name Falcon-1024 and SHAKE256;
slot 0 holds the certificate chain, with its digest. The order of these fields is the model's (log 12). -/
def spdmStated : Nat → List Byte
  | 0 => natBytes 0x13 1
  | 2 => natBytes 0 4 ++ natBytes 0 4 ++ natBytes Config.spdmFalcon.toNat 4 ++ natBytes Config.spdmShake.toNat 4
  | 3 => natBytes 0 1 ++ fit 64 (Config.shake256 Config.certChain)
  | 4 => natBytes 0 1 ++ Config.certChain
  | _ => []

/-- SPDM_REQUEST: `code` is the request's place in the list of R425. GET_MEASUREMENTS is 6; KEY_EXCHANGE, 7, opens a session, FINISH, 8,
establishes it, and END_SESSION, 9, ends it. -/
def execSpdmRequest (vf code : Nat) (s : State) : Out :=
  let n := (s.sessions.map (·.num)).foldl max 0
  let last := ((s.sessions.filter fun x => x.vf = vf).map (·.num)).foldl max 0
  let answer (b : List Byte) (s : State) : State := { s with replies := s.replies ++ [(vf, b)] }
  .next (if !s.booted || !(s.vf vf).enabled || 9 < code then s
    else if code = 6 then answer (s.measurements vf) s
    else if code = 7 then
      answer (Config.spdmAnswer vf code (n + 1)) { s with sessions := s.sessions ++ [{ vf := vf, num := n + 1 }] }
    else if code = 8 then
      let fin (x : Session) : Session := if x.vf = vf && x.num = last then { x with done := true } else x
      answer (Config.spdmAnswer vf code last) { s with sessions := s.sessions.map fin }
    else if code = 9 then
      answer (Config.spdmAnswer vf code last) { s with sessions := s.sessions.filter fun x => !(x.vf = vf && x.num = last) }
    else answer (spdmStated code ++ Config.spdmAnswer vf code n) s)

/-! ## Reset and boot (R452 to R456) -/

/-- What a rail supplies: nominal millivolts and peak amperes (R456); the module draws at most 15,000 W. -/
def Rail.millivolts : Rail → Nat
  | .auxiliary => 750 | .hbm => 1050 | .core => 400 | .serdes => 850
def Rail.peakAmps : Rail → Nat
  | .auxiliary => 40 | .hbm => 1300 | .core => 30000 | .serdes => 500
def maxWatts : Nat := 15000

/-- The next rail ramps, or the last one falls (R456). -/
def rampRail (up : List Rail) : List Rail := match railOrder.find? fun r => !up.contains r with
  | some r => up ++ [r]
  | none => up
def fallRail (up : List Rail) : List Rail := up.dropLast

/-- What a cold or warm reset keeps: memory outside the module, the retirement table, loaded images, the rails, what comes from outside. -/
def State.wipe (s : State) : State :=
  { State.reset with mem := s.mem.filter fun e => !isDevice e.1, retired := s.retired, tableSig := s.tableSig, imageOk := s.imageOk,
                     badImages := s.badImages, agenda := s.agenda, inputs := s.inputs, replies := s.replies, rails := s.rails, leases := [],
                     nextLease := 0, fwLaunches := 0 }

/-- Units of the retirement table are out of service from the start (R448): a channel's highest 2 GiB, which no sleeve holds, with it
(`State.channelGone`). -/
def State.readRetired (s : State) : State :=
  s.retired.foldl (fun s r => match r.kind with
    | .core => s.dropCore r.unit
    | .quay => s.dropQuay r.unit
    | .channel => s) s

/-- A unit that fails a stage of the boot is retired with PATSET 0 (R454). -/
def State.retireAtBoot (s : State) (k : UnitKind) (u : Nat) : State :=
  if unitCount k ≤ u || s.unitOut k u then s else (s.retireUnit k u 0 []).1

/-- The lease of the initial sweep on a unit. -/
def State.sweepLease (s : State) (k : UnitKind) (u : Nat) : Option Lease := s.leases.find? fun l => l.kind = k && l.unit = u

/-- A quay whose peer does not answer in the initial sweep is DEFERRED, and stays up (R441, R455). -/
def State.deferQuay (s : State) (u : Nat) : State := match s.sweepLease .quay u with
  | some l => s.upLease l.id fun l => { l with state := 7, outcome := 0, digest := zeros 16 }
  | none => s

/-- The run, and the retest if there is one, of a unit that does not simply pass the initial sweep (R443 to R445, R455). -/
def State.sweepUnit (s : State) (k : UnitKind) (u : Nat) (run retest : LeaseObs) : State := match s.sweepLease k u with
  | none => s
  | some l =>
    let s := s.upLease l.id fun l => { l with state := 3, outcome := 0, digest := zeros 16 }
    let s := (tryLeaseOutcome l.id run s).getD s
    if (s.lease? l.id).any fun l => l.retest && l.state = 3 then (tryLeaseOutcome l.id retest s).getD s else s

/-- Stages 4 and 5 (R453 to R455): training, the retirement table, and the initial sweep, which leases every unit in service whose link, if it is a
quay, has trained. -/
def State.bootOn (s : State) (o : BootObs) : State :=
  let s := o.badChannels.foldl (fun s c => s.retireAtBoot .channel c) s.readRetired
  let s := o.failed.foldl (fun s u => (s.logPf (.event .bootFailure (kindCode u.1) 0 (BitVec.ofNat 64 u.2))).retireAtBoot u.1 u.2) s
  let units := sweepUnits.filter fun u => !s.unitOut u.1 u.2 && (u.1 ≠ .quay || o.quayUp.contains u.2)
  let s : State := { s with
    leases := units.zipIdx.map fun e => passLease e.1.1 e.1.2 e.2, nextLease := units.length
    fwLaunches := (units.filter fun u => u.1 = .core).length
    quays := Vector.ofFn fun i : Fin 24 => if o.quayUp.contains i.val then s.quays[i] else { s.quays[i] with up := false } }
  let s := o.silent.foldl (fun s q => s.deferQuay q) s
  o.sweep.foldl (fun s u => s.sweepUnit u.1 u.2.1 u.2.2.1 u.2.2.2) s

/-- A signature that fails stops the order at stage 2 (R454): of the later stages nothing is done. An image that was found bad stays so. -/
def State.bootStop (s : State) (image : Nat) : State :=
  { s with booted := false, bootStage := 2, bootImage := image, pflog := [], msix := [], wcsBase := [], keys := []
           badImages := (s.badImages ++ [image]).eraseDups
           quays := s.quays.map fun q => { q with up := false } }

/-- The stages of R453. A bad image is replaced by a LOAD and a cold reset (R454). -/
def State.boot (s : State) (cold : Bool) (o : BootObs) : State :=
  let old := if cold then s.badImages.filter fun i => !s.imageOk.contains i else s.badImages
  let s := { s.wipe with badImages := old, rails := if cold then rampRail (rampRail (rampRail (rampRail s.rails))) else s.rails }
  match old, o.badImage with
  | i :: _, _ => s.bootStop i
  | [], some i => { s with imageOk := s.imageOk.filter (· ≠ i) }.bootStop i
  | [], none => s.bootOn o

/-- COLD_RESET: power comes on in the order of R456. -/
def execColdReset (o : BootObs) (s : State) : Out := .next (s.boot true o)

/-- WARM_RESET: the rails stay up. -/
def execWarmReset (o : BootObs) (s : State) : Out := .next (if s.powerOn then s.boot false o else s)

/-- SIDEBAND_COLD. -/
def execSidebandCold (o : BootObs) (s : State) : Out := .next (s.boot true o)

/-- SIDEBAND_WARM. -/
def execSidebandWarm (o : BootObs) (s : State) : Out := .next (if s.powerOn then s.boot false o else s)

/-- SIDEBAND_STATUS: the failing stage and image index (R454). -/
def execSidebandStatus (s : State) : Out := .next { s with sideband := BitVec.ofNat 64 (s.bootImage % 256 * 256 + s.bootStage) }

/-- SIDEBAND_LOAD: a new image, in force at the next cold reset. -/
def execSidebandLoad (image : Nat) (s : State) : Out := .next (if s.booted then s else { s with imageOk := s.imageOk ++ [image] })

/-- FLR: of a VF, a VF reset; of the physical function, a warm reset (R452), which meets what `State.bootObs` holds (log 60). -/
def execFlr (vf : Nat) (s : State) : Out :=
  .next (if vf = 0 then (if s.powerOn then s.boot false s.bootObs else s) else if s.booted && (s.vf vf).enabled then s.resetVf vf 1 else s)

/-- POWER_DOWN (R456): the rails fall in reverse order; only the secure store keeps what it holds. -/
def execPowerDown (s : State) : Out :=
  .next { s.wipe with rails := fallRail (fallRail (fallRail (fallRail s.rails))), booted := false, pflog := [], msix := [], wcsBase := [], keys := [] }

/-! ## Power (R457) -/

/-- A write to PWRSTAT: PWRLIMIT within its range. -/
def State.writePwr (s : State) (value : Word) : State :=
  let n := bitsN value 47 32
  if 1000 ≤ n ∧ n ≤ 15000 then { s with pwrstat := putBits s.pwrstat 47 32 n } else s

/-- PWRSTAT_WRITE. -/
def execPwrstatWrite (value : Word) (s : State) : Out := .next (s.writePwr value)

/-- POWER_WINDOW: at the end of each window of 2^20 tide cycles its estimate moves THROTTLE by at most one. -/
def tryPowerWindow (estimate : Nat) (s : State) : Option State :=
  if s.tide < (s.powerWindow + 1) * 2 ^ 20 then none
  else
    let lim := bitsN s.pwrstat 47 32
    let t := bitsN s.pwrstat 2 0
    let t := if lim < estimate then min 7 (t + 1) else if estimate * 10 < lim * 9 then t - 1 else t
    some { s with pwrstat := putBits (putBits s.pwrstat 31 16 (min 65535 estimate)) 2 0 t, powerWindow := s.powerWindow + 1 }

def execPowerWindow (estimate : Nat) (s : State) : Out := .next ((tryPowerWindow estimate s).getD s)

/-! ## Register writes of the host (R367, R368, R375) -/

/-- RINGCTL (R375). -/
def State.ringCtl (s : State) (vf ring : Nat) (value : Word) : Out :=
  match value.toNat with
  | 1 => execHalt vf ring s
  | 2 => execResume vf ring s
  | 3 => execCancel vf ring s
  | 4 => execKill vf ring s
  | 5 => execReset vf ring s
  | _ => .next (if s.ringOn vf ring then s.upRing vf ring fun r => { r with wrerr := true } else s)

/-- REGISTER_WRITE: a ring page register of BAR0, or PWRSTAT through BAR4; every other write is dropped. -/
def execRegisterWrite (vf bar offset : Nat) (value : Word) (s : State) : Out :=
  let ring := offset / 4096
  match bar, offset % 4096 with
  | 0, 0x000 => execWridxDoorbell vf ring value s
  | 0, 0x010 => .next (if s.ringPage vf ring && !(s.ring vf ring).en then s.upRing vf ring fun r => { r with base := value } else s)
  | 0, 0x018 => execRingcfgWrite vf ring value s
  | 0, 0x020 => execRdmirrorWrite vf ring value s
  | 0, 0x028 => s.ringCtl vf ring value
  | 4, _ => .next (if s.booted && vf = 0 && offset = 0x100 then s.writePwr value else s)
  | _, _ => .next s

end Sys2Proof.Machine
end

