-- ==== Sys2Proof/Machine/Scalar.lean ====
section
/-! DEFINITION. The scalar integer, immediate and predicate instructions (R108 to R113). -/

namespace Sys2Proof.Machine

/-! ## Register to register (R108) -/

def execAdd (g : Guard) (d a b : BitVec 5) (s : State) : Out :=
  runAlu (.add g d a b) g [a, b] [] (.x d) (fun x _ => x a + x b) s

def execSub (g : Guard) (d a b : BitVec 5) (s : State) : Out :=
  runAlu (.sub g d a b) g [a, b] [] (.x d) (fun x _ => x a - x b) s

def execAnd (g : Guard) (d a b : BitVec 5) (s : State) : Out :=
  runAlu (.and g d a b) g [a, b] [] (.x d) (fun x _ => x a &&& x b) s

def execOr (g : Guard) (d a b : BitVec 5) (s : State) : Out :=
  runAlu (.or g d a b) g [a, b] [] (.x d) (fun x _ => x a ||| x b) s

def execXor (g : Guard) (d a b : BitVec 5) (s : State) : Out :=
  runAlu (.xor g d a b) g [a, b] [] (.x d) (fun x _ => x a ^^^ x b) s

/-- The shift count: bits [5:0] of a register (R108). -/
def shCount (w : Word) : Nat := w.toNat % 64

def execShl (g : Guard) (d a b : BitVec 5) (s : State) : Out :=
  runAlu (.shl g d a b) g [a, b] [] (.x d) (fun x _ => x a <<< shCount (x b)) s

def execShr (g : Guard) (d a b : BitVec 5) (s : State) : Out :=
  runAlu (.shr g d a b) g [a, b] [] (.x d) (fun x _ => x a >>> shCount (x b)) s

def execSar (g : Guard) (d a b : BitVec 5) (s : State) : Out :=
  runAlu (.sar g d a b) g [a, b] [] (.x d) (fun x _ => (x a).sshiftRight (shCount (x b))) s

def execMul (g : Guard) (d a b : BitVec 5) (s : State) : Out :=
  runAlu (.mul g d a b) g [a, b] [] (.x d) (fun x _ => x a * x b) s

/-- Bits [127:64] of the unsigned product (R108). -/
def mulHiU (a b : Word) : Word := BitVec.ofNat 64 (a.toNat * b.toNat / 2 ^ 64)

/-- Bits [127:64] of the signed product (R108). -/
def mulHiS (a b : Word) : Word := BitVec.ofInt 64 (a.toInt * b.toInt / 2 ^ 64)

def execMulhu (g : Guard) (d a b : BitVec 5) (s : State) : Out :=
  runAlu (.mulhu g d a b) g [a, b] [] (.x d) (fun x _ => mulHiU (x a) (x b)) s

def execMulhs (g : Guard) (d a b : BitVec 5) (s : State) : Out :=
  runAlu (.mulhs g d a b) g [a, b] [] (.x d) (fun x _ => mulHiS (x a) (x b)) s

/-- Unsigned quotient, all ones by zero (R108). -/
def divU (a b : Word) : Word := if b = 0 then BitVec.allOnes 64 else BitVec.ofNat 64 (a.toNat / b.toNat)

/-- Unsigned remainder, the dividend by zero (R108). -/
def remU (a b : Word) : Word := if b = 0 then a else BitVec.ofNat 64 (a.toNat % b.toNat)

def execDivu (g : Guard) (d a b : BitVec 5) (s : State) : Out :=
  runAlu (.divu g d a b) g [a, b] [] (.x d) (fun x _ => divU (x a) (x b)) s

def execRemu (g : Guard) (d a b : BitVec 5) (s : State) : Out :=
  runAlu (.remu g d a b) g [a, b] [] (.x d) (fun x _ => remU (x a) (x b)) s

def execMin (g : Guard) (d a b : BitVec 5) (s : State) : Out :=
  runAlu (.min g d a b) g [a, b] [] (.x d) (fun x _ => if (x a).slt (x b) then x a else x b) s

def execMax (g : Guard) (d a b : BitVec 5) (s : State) : Out :=
  runAlu (.max g d a b) g [a, b] [] (.x d) (fun x _ => if (x a).slt (x b) then x b else x a) s

def execMinu (g : Guard) (d a b : BitVec 5) (s : State) : Out :=
  runAlu (.minu g d a b) g [a, b] [] (.x d) (fun x _ => if (x a).ult (x b) then x a else x b) s

def execMaxu (g : Guard) (d a b : BitVec 5) (s : State) : Out :=
  runAlu (.maxu g d a b) g [a, b] [] (.x d) (fun x _ => if (x a).ult (x b) then x b else x a) s

/-! ## Single operand and field instructions (R109) -/

/-- Leading zero bits among the low `n` bits of a word. -/
def clzFrom (w : Word) : Nat → Nat
  | 0 => 0
  | n + 1 => if w.getLsbD n then 0 else clzFrom w n + 1

/-- One bits among the low `n` bits of a word. -/
def popFrom (w : Word) : Nat → Nat
  | 0 => 0
  | n + 1 => b2n (w.getLsbD n) + popFrom w n

def execClz (g : Guard) (d a : BitVec 5) (s : State) : Out :=
  runAlu (.clz g d a) g [a] [] (.x d) (fun x _ => BitVec.ofNat 64 (clzFrom (x a) 64)) s

def execPopc (g : Guard) (d a : BitVec 5) (s : State) : Out :=
  runAlu (.popc g d a) g [a] [] (.x d) (fun x _ => BitVec.ofNat 64 (popFrom (x a) 64)) s

/-- The field of a word, zero- or sign-extended (R109). -/
def fieldOf (w : Word) (pos len : Nat) (sx : Bool) : Word :=
  let f := w.toNat / 2 ^ pos % 2 ^ len
  if sx && f / 2 ^ (len - 1) % 2 = 1 then BitVec.ofInt 64 ((f : Int) - (2 ^ len : Nat)) else BitVec.ofNat 64 f

/-- A word with a field replaced by the low bits of another (R109). -/
def insertField (old v : Word) (pos len : Nat) : Word :=
  let mask : Word := BitVec.ofNat 64 ((2 ^ len - 1) * 2 ^ pos)
  (old &&& ~~~mask) ||| ((v <<< pos) &&& mask)

def execBfx (g : Guard) (d a : BitVec 5) (pos : BitVec 6) (len : BitVec 7) (sx : Bool) (s : State) : Out :=
  runAlu (.bfx g d a pos len sx) g [a] [] (.x d) (fun x _ => fieldOf (x a) pos.toNat len.toNat sx) s

def execBfi (g : Guard) (d a : BitVec 5) (pos : BitVec 6) (len : BitVec 7) (s : State) : Out :=
  runAlu (.bfi g d a pos len) g [a, d] [] (.x d) (fun x _ => insertField (x d) (x a) pos.toNat len.toNat) s

def execMov (g : Guard) (d a : BitVec 5) (s : State) : Out :=
  runAlu (.mov g d a) g [a] [] (.x d) (fun x _ => x a) s

/-! ## Immediates (R110) -/

def execAddi (g : Guard) (d a : BitVec 5) (imm : BitVec 32) (s : State) : Out :=
  runAlu (.addi g d a imm) g [a] [] (.x d) (fun x _ => x a + sext32 imm) s

def execAndi (g : Guard) (d a : BitVec 5) (imm : BitVec 32) (s : State) : Out :=
  runAlu (.andi g d a imm) g [a] [] (.x d) (fun x _ => x a &&& sext32 imm) s

def execOri (g : Guard) (d a : BitVec 5) (imm : BitVec 32) (s : State) : Out :=
  runAlu (.ori g d a imm) g [a] [] (.x d) (fun x _ => x a ||| zext32 imm) s

def execXori (g : Guard) (d a : BitVec 5) (imm : BitVec 32) (s : State) : Out :=
  runAlu (.xori g d a imm) g [a] [] (.x d) (fun x _ => x a ^^^ zext32 imm) s

def execLi (g : Guard) (d : BitVec 5) (imm : BitVec 32) (s : State) : Out :=
  runAlu (.li g d imm) g [] [] (.x d) (fun _ _ => sext32 imm) s

def execLih (g : Guard) (d a : BitVec 5) (imm : BitVec 32) (s : State) : Out :=
  runAlu (.lih g d a imm) g [a] [] (.x d) (fun x _ => imm ++ (x a).extractLsb' 0 32) s

/-! ## Compares and predicate logic (R111, R112), and the choice (R113) -/

/-- A truth value as the word a predicate destination takes. -/
def ofBool (b : Bool) : Word := if b then 1 else 0

def execCmpEq (g : Guard) (pd : BitVec 3) (a b : BitVec 5) (s : State) : Out :=
  runAlu (.cmpEq g pd a b) g [a, b] [] (.p pd) (fun x _ => ofBool (x a == x b)) s

def execCmpNe (g : Guard) (pd : BitVec 3) (a b : BitVec 5) (s : State) : Out :=
  runAlu (.cmpNe g pd a b) g [a, b] [] (.p pd) (fun x _ => ofBool (x a != x b)) s

def execCmpLt (g : Guard) (pd : BitVec 3) (a b : BitVec 5) (s : State) : Out :=
  runAlu (.cmpLt g pd a b) g [a, b] [] (.p pd) (fun x _ => ofBool ((x a).slt (x b))) s

def execCmpLe (g : Guard) (pd : BitVec 3) (a b : BitVec 5) (s : State) : Out :=
  runAlu (.cmpLe g pd a b) g [a, b] [] (.p pd) (fun x _ => ofBool ((x a).sle (x b))) s

def execCmpLtu (g : Guard) (pd : BitVec 3) (a b : BitVec 5) (s : State) : Out :=
  runAlu (.cmpLtu g pd a b) g [a, b] [] (.p pd) (fun x _ => ofBool ((x a).ult (x b))) s

def execCmpLeu (g : Guard) (pd : BitVec 3) (a b : BitVec 5) (s : State) : Out :=
  runAlu (.cmpLeu g pd a b) g [a, b] [] (.p pd) (fun x _ => ofBool ((x a).ule (x b))) s

def execPand (g : Guard) (pd pa pb : BitVec 3) (na nb : Bool) (s : State) : Out :=
  runAlu (.pand g pd pa pb na nb) g [] [pa, pb] (.p pd) (fun _ p => ofBool ((p pa != na) && (p pb != nb))) s

def execPor (g : Guard) (pd pa pb : BitVec 3) (na nb : Bool) (s : State) : Out :=
  runAlu (.por g pd pa pb na nb) g [] [pa, pb] (.p pd) (fun _ p => ofBool ((p pa != na) || (p pb != nb))) s

def execPnot (g : Guard) (pd pa : BitVec 3) (s : State) : Out :=
  runAlu (.pnot g pd pa) g [] [pa] (.p pd) (fun _ p => ofBool (!p pa)) s

def execSel (g : Guard) (d a b : BitVec 5) (pp : BitVec 3) (np : Bool) (s : State) : Out :=
  runAlu (.sel g d a b pp np) g [a, b] [pp] (.x d) (fun x p => if p pp != np then x a else x b) s

end Sys2Proof.Machine
end

