-- ==== Sys2Proof/Machine/Dispatch.lean ====
section
/-! DEFINITION. The dispatcher: one arm per constructor of `Instr`. -/

namespace Sys2Proof.Machine

def exec (i : Instr) (s : State) : Host.Outcome State Fault Refusal :=
  match i with
  | .add g d a b => Sys2Proof.Machine.execAdd g d a b s
  | .sub g d a b => Sys2Proof.Machine.execSub g d a b s
  | .and g d a b => Sys2Proof.Machine.execAnd g d a b s
  | .or g d a b => Sys2Proof.Machine.execOr g d a b s
  | .xor g d a b => Sys2Proof.Machine.execXor g d a b s
  | .shl g d a b => Sys2Proof.Machine.execShl g d a b s
  | .shr g d a b => Sys2Proof.Machine.execShr g d a b s
  | .sar g d a b => Sys2Proof.Machine.execSar g d a b s
  | .mul g d a b => Sys2Proof.Machine.execMul g d a b s
  | .mulhu g d a b => Sys2Proof.Machine.execMulhu g d a b s
  | .mulhs g d a b => Sys2Proof.Machine.execMulhs g d a b s
  | .divu g d a b => Sys2Proof.Machine.execDivu g d a b s
  | .remu g d a b => Sys2Proof.Machine.execRemu g d a b s
  | .min g d a b => Sys2Proof.Machine.execMin g d a b s
  | .max g d a b => Sys2Proof.Machine.execMax g d a b s
  | .minu g d a b => Sys2Proof.Machine.execMinu g d a b s
  | .maxu g d a b => Sys2Proof.Machine.execMaxu g d a b s
  | .clz g d a => Sys2Proof.Machine.execClz g d a s
  | .popc g d a => Sys2Proof.Machine.execPopc g d a s
  | .bfx g d a pos len sx => Sys2Proof.Machine.execBfx g d a pos len sx s
  | .bfi g d a pos len => Sys2Proof.Machine.execBfi g d a pos len s
  | .mov g d a => Sys2Proof.Machine.execMov g d a s
  | .addi g d a imm => Sys2Proof.Machine.execAddi g d a imm s
  | .andi g d a imm => Sys2Proof.Machine.execAndi g d a imm s
  | .ori g d a imm => Sys2Proof.Machine.execOri g d a imm s
  | .xori g d a imm => Sys2Proof.Machine.execXori g d a imm s
  | .li g d imm => Sys2Proof.Machine.execLi g d imm s
  | .lih g d a imm => Sys2Proof.Machine.execLih g d a imm s
  | .cmpEq g pd a b => Sys2Proof.Machine.execCmpEq g pd a b s
  | .cmpNe g pd a b => Sys2Proof.Machine.execCmpNe g pd a b s
  | .cmpLt g pd a b => Sys2Proof.Machine.execCmpLt g pd a b s
  | .cmpLe g pd a b => Sys2Proof.Machine.execCmpLe g pd a b s
  | .cmpLtu g pd a b => Sys2Proof.Machine.execCmpLtu g pd a b s
  | .cmpLeu g pd a b => Sys2Proof.Machine.execCmpLeu g pd a b s
  | .pand g pd pa pb na nb => Sys2Proof.Machine.execPand g pd pa pb na nb s
  | .por g pd pa pb na nb => Sys2Proof.Machine.execPor g pd pa pb na nb s
  | .pnot g pd pa => Sys2Proof.Machine.execPnot g pd pa s
  | .sel g d a b pp np => Sys2Proof.Machine.execSel g d a b pp np s
  | .pbt g bd a imm => Sys2Proof.Machine.execPbt g bd a imm s
  | .bt g bd commit cn cp => Sys2Proof.Machine.execBt g bd commit cn cp s
  | .call g d bn => Sys2Proof.Machine.execCall g d bn s
  | .ret g a => Sys2Proof.Machine.execRet g a s
  | .loop g ld a icount bodylen => Sys2Proof.Machine.execLoop g ld a icount bodylen s
  | .brk g => Sys2Proof.Machine.execBrk g s
  | .trig g => Sys2Proof.Machine.execTrig g s
  | .exit g => Sys2Proof.Machine.execExit g s
  | .nop g => Sys2Proof.Machine.execNop g s
  | .cmtb g => Sys2Proof.Machine.execCmtb g s
  | .clrb g => Sys2Proof.Machine.execClrb g s
  | .vany g pd ma mb masked => Sys2Proof.Machine.execVany g pd ma mb masked s
  | .vall g pd ma mb masked => Sys2Proof.Machine.execVall g pd ma mb masked s
  | .ld g d a w u acq scope imm => Sys2Proof.Machine.execLd g d a w u acq scope imm s
  | .loadReturn ctx st => Sys2Proof.Machine.execLoadReturn ctx st s
  | .st g a b w rel scope imm => Sys2Proof.Machine.execSt g a b w rel scope imm s
  | .accessPerform what => Sys2Proof.Machine.execAccessPerform what s
  | .lds g d a w u imm => Sys2Proof.Machine.execLds g d a w u imm s
  | .sts g a b w imm => Sys2Proof.Machine.execSts g a b w imm s
  | .mark g => Sys2Proof.Machine.execMark g s
  | .fence g scope eng => Sys2Proof.Machine.execFence g scope eng s
  | .amoAdd g d a b scope w64 => Sys2Proof.Machine.execAmoAdd g d a b scope w64 s
  | .amoAnd g d a b scope w64 => Sys2Proof.Machine.execAmoAnd g d a b scope w64 s
  | .amoOr g d a b scope w64 => Sys2Proof.Machine.execAmoOr g d a b scope w64 s
  | .amoXor g d a b scope w64 => Sys2Proof.Machine.execAmoXor g d a b scope w64 s
  | .amoMin g d a b scope w64 => Sys2Proof.Machine.execAmoMin g d a b scope w64 s
  | .amoMax g d a b scope w64 => Sys2Proof.Machine.execAmoMax g d a b scope w64 s
  | .amoMinu g d a b scope w64 => Sys2Proof.Machine.execAmoMinu g d a b scope w64 s
  | .amoMaxu g d a b scope w64 => Sys2Proof.Machine.execAmoMaxu g d a b scope w64 s
  | .amoSwap g d a b scope w64 => Sys2Proof.Machine.execAmoSwap g d a b scope w64 s
  | .cas g d a b scope w64 => Sys2Proof.Machine.execCas g d a b scope w64 s
  | .pinRetry ctx st => Sys2Proof.Machine.execPinRetry ctx st s
  | .pinTimeout core line => Sys2Proof.Machine.execPinTimeout core line s
  | .tkwait g q0 q1 q2 => Sys2Proof.Machine.execTkwait g q0 q1 q2 s
  | .tkpost g q => Sys2Proof.Machine.execTkpost g q s
  | .tokenDeadlock ctx => Sys2Proof.Machine.execTokenDeadlock ctx s
  | .fqpush g d a => Sys2Proof.Machine.execFqpush g d a s
  | .sqpush g d a n => Sys2Proof.Machine.execSqpush g d a n s
  | .ypop g d => Sys2Proof.Machine.execYpop g d s
  | .qcancel g d a => Sys2Proof.Machine.execQcancel g d a s
  | .fqLeftover ctx => Sys2Proof.Machine.execFqLeftover ctx s
  | .iterationRetire ctx => Sys2Proof.Machine.execIterationRetire ctx s
  | .barInit g n expect => Sys2Proof.Machine.execBarInit g n expect s
  | .barArv g d n => Sys2Proof.Machine.execBarArv g d n s
  | .barExp g d a n arv => Sys2Proof.Machine.execBarExp g d a n arv s
  | .barWait g a n => Sys2Proof.Machine.execBarWait g a n s
  | .barTest g pd a n => Sys2Proof.Machine.execBarTest g pd a n s
  | .tideRd g d => Sys2Proof.Machine.execTideRd g d s
  | .regionTimed g lead chain => Sys2Proof.Machine.execRegionTimed g lead chain s
  | .tideBase g a => Sys2Proof.Machine.execTideBase g a s
  | .regionLocked g => Sys2Proof.Machine.execRegionLocked g s
  | .scheduleMiss ctx => Sys2Proof.Machine.execScheduleMiss ctx s
  | .regionRestart ctx => Sys2Proof.Machine.execRegionRestart ctx s
  | .csrr g d csr => Sys2Proof.Machine.execCsrr g d csr s
  | .csrw g a csr => Sys2Proof.Machine.execCsrw g a csr s
  | .jnlbaseApply ctx => Sys2Proof.Machine.execJnlbaseApply ctx s
  | .syscInfo g n => Sys2Proof.Machine.execSyscInfo g n s
  | .syscLog g => Sys2Proof.Machine.execSyscLog g s
  | .syscPrefault g => Sys2Proof.Machine.execSyscPrefault g s
  | .syscYield g => Sys2Proof.Machine.execSyscYield g s
  | .trap g imm => Sys2Proof.Machine.execTrap g imm s
  | .bkpt g imm => Sys2Proof.Machine.execBkpt g imm s
  | .opbind g d a b idx => Sys2Proof.Machine.execOpbind g d a b idx s
  | .bundleFetch ctx st addr => Sys2Proof.Machine.execBundleFetch ctx st addr s
  | .engineIssue ctx u => Sys2Proof.Machine.execEngineIssue ctx u s
  | .mma y aw bw acc koff => Sys2Proof.Machine.execMma y aw bw acc koff s
  | .mmaS y aw sp nm1 acc => Sys2Proof.Machine.execMmaS y aw sp nm1 acc s
  | .mmaC y bw asrc acc mm1 => Sys2Proof.Machine.execMmaC y bw asrc acc mm1 s
  | .accZero y acc anchor => Sys2Proof.Machine.execAccZero y acc anchor s
  | .accLd y w acc row0 => Sys2Proof.Machine.execAccLd y w acc row0 s
  | .accRd y w acc row0 rm wide => Sys2Proof.Machine.execAccRd y w acc row0 rm wide s
  | .accRdx y w acc row0 => Sys2Proof.Machine.execAccRdx y w acc row0 s
  | .accRebase y acc n => Sys2Proof.Machine.execAccRebase y acc n s
  | .accWm y d acc row => Sys2Proof.Machine.execAccWm y d acc row s
  | .accStat y d acc clr => Sys2Proof.Machine.execAccStat y d acc clr s
  | .tdRd y d kind index => Sys2Proof.Machine.execTdRd y d kind index s
  | .tfillZero y blk nm1 => Sys2Proof.Machine.execTfillZero y blk nm1 s
  | .tfillConst y fmt blk a nm1 => Sys2Proof.Machine.execTfillConst y fmt blk a nm1 s
  | .tfillIdent y fmt blk nm1 => Sys2Proof.Machine.execTfillIdent y fmt blk nm1 s
  | .matrixComplete ctx => Sys2Proof.Machine.execMatrixComplete ctx s
  | .vshape y shape => Sys2Proof.Machine.execVshape y shape s
  | .vld y vr port win xo vf mken mm => Sys2Proof.Machine.execVld y vr port win xo vf mken mm s
  | .vst y vr port win xo vf mken mm => Sys2Proof.Machine.execVst y vr port win xo vf mken mm s
  | .vmov y o => Sys2Proof.Machine.execVmov y o s
  | .vbcast y o => Sys2Proof.Machine.execVbcast y o s
  | .vadd y o => Sys2Proof.Machine.execVadd y o s
  | .vsub y o => Sys2Proof.Machine.execVsub y o s
  | .vmul y o => Sys2Proof.Machine.execVmul y o s
  | .vfma y o => Sys2Proof.Machine.execVfma y o s
  | .vmin y o => Sys2Proof.Machine.execVmin y o s
  | .vmax y o => Sys2Proof.Machine.execVmax y o s
  | .vabs y o => Sys2Proof.Machine.execVabs y o s
  | .vneg y o => Sys2Proof.Machine.execVneg y o s
  | .vand y o => Sys2Proof.Machine.execVand y o s
  | .vor y o => Sys2Proof.Machine.execVor y o s
  | .vxor y o => Sys2Proof.Machine.execVxor y o s
  | .vshl y o => Sys2Proof.Machine.execVshl y o s
  | .vshr y o => Sys2Proof.Machine.execVshr y o s
  | .viadd y o => Sys2Proof.Machine.execViadd y o s
  | .vimul y o => Sys2Proof.Machine.execVimul y o s
  | .vcmp y o => Sys2Proof.Machine.execVcmp y o s
  | .vsel y o => Sys2Proof.Machine.execVsel y o s
  | .vcvt y towin dst va dfmt vf rm pol dsmode => Sys2Proof.Machine.execVcvt y towin dst va dfmt vf rm pol dsmode s
  | .vred y o => Sys2Proof.Machine.execVred y o s
  | .vscan y o => Sys2Proof.Machine.execVscan y o s
  | .vtrn y o => Sys2Proof.Machine.execVtrn y o s
  | .vperm y o => Sys2Proof.Machine.execVperm y o s
  | .vext y vd va vb vf xo => Sys2Proof.Machine.execVext y vd va vb vf xo s
  | .vrcp y o => Sys2Proof.Machine.execVrcp y o s
  | .vrsq y o => Sys2Proof.Machine.execVrsq y o s
  | .vrcps y o => Sys2Proof.Machine.execVrcps y o s
  | .vrsqs y o => Sys2Proof.Machine.execVrsqs y o s
  | .vexp2 y o => Sys2Proof.Machine.execVexp2 y o s
  | .vlog2 y o => Sys2Proof.Machine.execVlog2 y o s
  | .vectorLand ctx u => Sys2Proof.Machine.execVectorLand ctx u s
  | .twdef g a b n => Sys2Proof.Machine.execTwdef g a b n s
  | .agset g a n => Sys2Proof.Machine.execAgset g a n s
  | .spbindIn g p agd scaled ags fmt layout fam => Sys2Proof.Machine.execSpbindIn g p agd scaled ags fmt layout fam s
  | .spbindOut g p agd fmt => Sys2Proof.Machine.execSpbindOut g p agd fmt s
  | .spbindOff g p => Sys2Proof.Machine.execSpbindOff g p s
  | .streamPortFetch ctx p => Sys2Proof.Machine.execStreamPortFetch ctx p s
  | .outputPortWrite ctx p => Sys2Proof.Machine.execOutputPortWrite ctx p s
  | .cpy y xd xs xn dir bar baren => Sys2Proof.Machine.execCpy y xd xs xn dir bar baren s
  | .cpyNd y mode win sag dag bar baren => Sys2Proof.Machine.execCpyNd y mode win sag dag bar baren s
  | .copyPiecePerform ctx idx piece => Sys2Proof.Machine.execCopyPiecePerform ctx idx piece s
  | .copyComplete ctx idx => Sys2Proof.Machine.execCopyComplete ctx idx s
  | .collStart g d a b comm reply => Sys2Proof.Machine.execCollStart g d a b comm reply s
  | .uop opc w0 w1 w2 pq arg => Sys2Proof.Machine.execUop opc w0 w1 w2 pq arg s
  | .ldeLoad core bank ctx => Sys2Proof.Machine.execLdeLoad core bank ctx s
  | .ldeVerify core bank => Sys2Proof.Machine.execLdeVerify core bank s
  | .gatherRows ctx => Sys2Proof.Machine.execGatherRows ctx s
  | .gatherElem ctx => Sys2Proof.Machine.execGatherElem ctx s
  | .scatterRows ctx => Sys2Proof.Machine.execScatterRows ctx s
  | .scatterAdd ctx => Sys2Proof.Machine.execScatterAdd ctx s
  | .mergeAdd ctx => Sys2Proof.Machine.execMergeAdd ctx s
  | .ieBatchComplete ctx => Sys2Proof.Machine.execIeBatchComplete ctx s
  | .sqCommandEnd ctx u => Sys2Proof.Machine.execSqCommandEnd ctx u s
  | .collEntryStart ctx => Sys2Proof.Machine.execCollEntryStart ctx s
  | .send ctx => Sys2Proof.Machine.execSend ctx s
  | .recv ctx => Sys2Proof.Machine.execRecv ctx s
  | .recvXadd ctx => Sys2Proof.Machine.execRecvXadd ctx s
  | .recvFadd ctx => Sys2Proof.Machine.execRecvFadd ctx s
  | .fwd ctx => Sys2Proof.Machine.execFwd ctx s
  | .collMessageArrive die m => Sys2Proof.Machine.execCollMessageArrive die m s
  | .collEntryEnd ctx => Sys2Proof.Machine.execCollEntryEnd ctx s
  | .faultStop ctx => Sys2Proof.Machine.execFaultStop ctx s
  | .frameClose ctx => Sys2Proof.Machine.execFrameClose ctx s
  | .holdAbortTimeout ctx => Sys2Proof.Machine.execHoldAbortTimeout ctx s
  | .faultRecordTimeout recno => Sys2Proof.Machine.execFaultRecordTimeout recno s
  | .restoreContext ctx core => Sys2Proof.Machine.execRestoreContext ctx core s
  | .placeIteration launch die => Sys2Proof.Machine.execPlaceIteration launch die s
  | .placeCohort launch => Sys2Proof.Machine.execPlaceCohort launch s
  | .triggerRelease launch => Sys2Proof.Machine.execTriggerRelease launch s
  | .periodStart => Sys2Proof.Machine.execPeriodStart s
  | .newcomerTimeout launch => Sys2Proof.Machine.execNewcomerTimeout launch s
  | .drainRedecide ctx => Sys2Proof.Machine.execDrainRedecide ctx s
  | .quantumExpire ctx => Sys2Proof.Machine.execQuantumExpire ctx s
  | .leaseGrant lease => Sys2Proof.Machine.execLeaseGrant lease s
  | .leaseForceCheckpoint lease => Sys2Proof.Machine.execLeaseForceCheckpoint lease s
  | .leaseOutcome lease o => Sys2Proof.Machine.execLeaseOutcome lease o s
  | .leaseHoldLimit lease => Sys2Proof.Machine.execLeaseHoldLimit lease s
  | .rotationLease k unit => Sys2Proof.Machine.execRotationLease k unit s
  | .watchLease k unit => Sys2Proof.Machine.execWatchLease k unit s
  | .scoreDecay => Sys2Proof.Machine.execScoreDecay s
  | .quayLeaseDefer lease => Sys2Proof.Machine.execQuayLeaseDefer lease s
  | .channelHold channel window => Sys2Proof.Machine.execChannelHold channel window s
  | .channelHoldEnd channel restored => Sys2Proof.Machine.execChannelHoldEnd channel restored s
  | .quayFlitSend quay => Sys2Proof.Machine.execQuayFlitSend quay s
  | .flitReceive quay f crcOk => Sys2Proof.Machine.execFlitReceive quay f crcOk s
  | .nakReceive quay fseq => Sys2Proof.Machine.execNakReceive quay fseq s
  | .linkDown quay => Sys2Proof.Machine.execLinkDown quay s
  | .wridxFetchadd vf ring addend => Sys2Proof.Machine.execWridxFetchadd vf ring addend s
  | .wridxDoorbell vf ring value => Sys2Proof.Machine.execWridxDoorbell vf ring value s
  | .ringcfgWrite vf ring value => Sys2Proof.Machine.execRingcfgWrite vf ring value s
  | .rdmirrorWrite vf ring value => Sys2Proof.Machine.execRdmirrorWrite vf ring value s
  | .halt vf ring => Sys2Proof.Machine.execHalt vf ring s
  | .resume vf ring => Sys2Proof.Machine.execResume vf ring s
  | .cancel vf ring => Sys2Proof.Machine.execCancel vf ring s
  | .kill vf ring => Sys2Proof.Machine.execKill vf ring s
  | .reset vf ring => Sys2Proof.Machine.execReset vf ring s
  | .registerWrite vf bar offset value => Sys2Proof.Machine.execRegisterWrite vf bar offset value s
  | .commandAccept vf ring => Sys2Proof.Machine.execCommandAccept vf ring s
  | .launch vf ring => Sys2Proof.Machine.execLaunch vf ring s
  | .invoke vf ring => Sys2Proof.Machine.execInvoke vf ring s
  | .graph vf ring => Sys2Proof.Machine.execGraph vf ring s
  | .berthLoad vf ring => Sys2Proof.Machine.execBerthLoad vf ring s
  | .berthDrop vf ring => Sys2Proof.Machine.execBerthDrop vf ring s
  | .berthFree vf berth => Sys2Proof.Machine.execBerthFree vf berth s
  | .signal vf ring => Sys2Proof.Machine.execSignal vf ring s
  | .wait vf ring => Sys2Proof.Machine.execWait vf ring s
  | .waitTimeout vf ring => Sys2Proof.Machine.execWaitTimeout vf ring s
  | .fenceCommand vf ring => Sys2Proof.Machine.execFenceCommand vf ring s
  | .nopCommand vf ring => Sys2Proof.Machine.execNopCommand vf ring s
  | .capture vf ring => Sys2Proof.Machine.execCapture vf ring s
  | .replay vf ring => Sys2Proof.Machine.execReplay vf ring s
  | .commandComplete vf ring idx => Sys2Proof.Machine.execCommandComplete vf ring idx s
  | .launchNode graph => Sys2Proof.Machine.execLaunchNode graph s
  | .copyNode graph => Sys2Proof.Machine.execCopyNode graph s
  | .cond graph => Sys2Proof.Machine.execCond graph s
  | .loopNode graph => Sys2Proof.Machine.execLoopNode graph s
  | .signalNode graph => Sys2Proof.Machine.execSignalNode graph s
  | .waitNode graph => Sys2Proof.Machine.execWaitNode graph s
  | .tokgrantSet q vf grant => Sys2Proof.Machine.execTokgrantSet q vf grant s
  | .vfctlSet q vf featmask scopelimit dbgen => Sys2Proof.Machine.execVfctlSet q vf featmask scopelimit dbgen s
  | .drainSet q sleeve bound => Sys2Proof.Machine.execDrainSet q sleeve bound s
  | .l2clsWrite q die cls value => Sys2Proof.Machine.execL2clsWrite q die cls value s
  | .l2monWrite q die slice => Sys2Proof.Machine.execL2monWrite q die slice s
  | .l2flush q die cls => Sys2Proof.Machine.execL2flush q die cls s
  | .l2cntRead q die cls => Sys2Proof.Machine.execL2cntRead q die cls s
  | .sleeveSet q sleeve kind slots owner coreMap base limit => Sys2Proof.Machine.execSleeveSet q sleeve kind slots owner coreMap base limit s
  | .sleeveJoin q vf sleeve base limit => Sys2Proof.Machine.execSleeveJoin q vf sleeve base limit s
  | .matWrite q target index entry w0 w1 shared => Sys2Proof.Machine.execMatWrite q target index entry w0 w1 shared s
  | .ptEdit q vf va level entry => Sys2Proof.Machine.execPtEdit q vf va level entry s
  | .migTrack q vf => Sys2Proof.Machine.execMigTrack q vf s
  | .migDirty q vf va count bitmapVa => Sys2Proof.Machine.execMigDirty q vf va count bitmapVa s
  | .migStop q vf => Sys2Proof.Machine.execMigStop q vf s
  | .pagingSet q vf mode ranges => Sys2Proof.Machine.execPagingSet q vf mode ranges s
  | .faultDone q recno answer => Sys2Proof.Machine.execFaultDone q recno answer s
  | .dbgAttach q ctx => Sys2Proof.Machine.execDbgAttach q ctx s
  | .dbgRead q ctx item => Sys2Proof.Machine.execDbgRead q ctx item s
  | .dbgWrite q ctx item value => Sys2Proof.Machine.execDbgWrite q ctx item value s
  | .dbgResume q ctx abort => Sys2Proof.Machine.execDbgResume q ctx abort s
  | .dbgDetach q ctx => Sys2Proof.Machine.execDbgDetach q ctx s
  | .logRead q => Sys2Proof.Machine.execLogRead q s
  | .leaseList q k unit => Sys2Proof.Machine.execLeaseList q k unit s
  | .scoreRead q k unit => Sys2Proof.Machine.execScoreRead q k unit s
  | .retireList q => Sys2Proof.Machine.execRetireList q s
  | .dryCtl q k period => Sys2Proof.Machine.execDryCtl q k period s
  | .dryLocate q ring bufVa rec vf => Sys2Proof.Machine.execDryLocate q ring bufVa rec vf s
  | .keyLoad q vf session wrapped => Sys2Proof.Machine.execKeyLoad q vf session wrapped s
  | .vfReset q vf => Sys2Proof.Machine.execVfReset q vf s
  | .qbwSet q quay vf share => Sys2Proof.Machine.execQbwSet q quay vf share s
  | .commSet q vf comm size localRank ranks => Sys2Proof.Machine.execCommSet q vf comm size localRank ranks s
  | .flr vf => Sys2Proof.Machine.execFlr vf s
  | .tdispError vf => Sys2Proof.Machine.execTdispError vf s
  | .coldReset o => Sys2Proof.Machine.execColdReset o s
  | .warmReset o => Sys2Proof.Machine.execWarmReset o s
  | .sidebandCold o => Sys2Proof.Machine.execSidebandCold o s
  | .sidebandWarm o => Sys2Proof.Machine.execSidebandWarm o s
  | .sidebandStatus => Sys2Proof.Machine.execSidebandStatus s
  | .sidebandLoad image => Sys2Proof.Machine.execSidebandLoad image s
  | .pwrstatWrite value => Sys2Proof.Machine.execPwrstatWrite value s
  | .powerWindow estimate => Sys2Proof.Machine.execPowerWindow estimate s
  | .holdAnswer ctx resume => Sys2Proof.Machine.execHoldAnswer ctx resume s
  | .rdcLineLeave die line => Sys2Proof.Machine.execRdcLineLeave die line s
  | .linkRetrained quay => Sys2Proof.Machine.execLinkRetrained quay s
  | .powerDown => Sys2Proof.Machine.execPowerDown s
  | .quantumCheckpoint ctx => Sys2Proof.Machine.execQuantumCheckpoint ctx s
  | .spdmRequest vf code => Sys2Proof.Machine.execSpdmRequest vf code s
  | .tdispRequest vf run => Sys2Proof.Machine.execTdispRequest vf run s
  | .sriovVfEnable n => Sys2Proof.Machine.execSriovVfEnable n s

end Sys2Proof.Machine
end

