-- ==== Sys2Proof/Machine/Input.lean ====
section
/-! DEFINITION. What reaches the module from outside without being an event of the opcode table: reads of its BARs (R365 to R368, R373),
writes of FC2's own registers (R361), FC7's tables and what other modules ask (R430, R437), and the errors that its checks find (R116, R348 to R354, R450). Log 74. -/

namespace Sys2Proof.Machine

/-! ## The host port -/

/-- An aligned 8-byte read of a BAR (R367): a ring page, a command journal, or the CSR blocks that BAR4 opens, of whose registers the spec
describes PWRSTAT alone; everything else reads zero. -/
def State.barRead (s : State) (vf bar off : Nat) : Word :=
  match bar with
  | 0 => s.ringRead vf (off / 4096) (off % 4096)
  | 2 => BitVec.ofNat 64 (leNat (((s.bar2Entry vf off).drop (off % 64 / 8 * 8)).take 8))
  | 4 => if vf = 0 && off = 0x100 then s.pwrstat else 0
  | _ => 0

/-- The completion of a read. After a failed stage 2 the physical function reads zero (R454). -/
def State.hostRead (s : State) (vf bar off : Nat) : State :=
  if !(s.vf vf).enabled then s
  else if s.booted then s.complete? vf (some (s.barRead vf bar off))
  else if s.bootStage = 2 then s.complete? vf (some 0) else s

/-- A TLP that fails ECRC is dropped and logged (R365). -/
def State.ecrcDrop (s : State) (vf : Nat) : State := s.logPf (.event .ecrcDrop vf 0 0)

/-- FC2 writes a counter of a class, which takes the value written (R361). -/
def State.setL2Count (s : State) (die cls : Nat) (vict : Bool) (v : Word) : State :=
  if 8 ≤ die || 64 ≤ cls then s
  else s.upL2c die cls fun c => if vict then { c with vict := v } else { c with fill := v }

/-! ## Other modules (R430, R437) -/

/-- A peer's read: its completion bears the value, or none where it is refused. One that has to wait gets no completion here: the other module makes
it again, and requests in flits wait at the quay (log 74). -/
def State.peerRead (s : State) (num off : Nat) : State := match s.peerAsk num off 8 .rd with
  | (s, .go vf pa) => match s.peerDo vf pa 8 1 0 [] with
    | (s, 0, bs) => s.complete? vf (some (BitVec.ofNat 64 (leNat bs)))
    | (s, _, _) => s.complete? vf none
  | (s, .refused) => s.complete? 0 none
  | (s, .wait) => s

/-- A peer's write performs at its home. -/
def State.peerWrite (s : State) (num off : Nat) (bs : List Byte) : State := match s.peerAsk num off bs.length .wr with
  | (s, .go vf pa) => (s.peerDo vf pa bs.length 2 0 bs).1
  | (s, _) => s

/-- The 256 bytes of a flit arrive at a quay (R427). -/
def State.flitBytes (s : State) (quay : Nat) (bs : List Byte) : State := match execFlitReceive quay (flitOf bs) (flitCrcOk bs) s with
  | .next s => s
  | _ => s

/-! ## Errors that the checks find (R450) -/

/-- FAULTADDR of an error in a register file (R450): bit 62 set; the register stands in the low bits (log 74). -/
def fileAddr (n : Nat) : Word := BitVec.ofNat 64 (2 ^ 62 + n)

/-- A word of a scratchpad can no longer be corrected (R348). -/
def State.spadBreak (s : State) (core word : Nat) : State :=
  if 2 ^ 21 ≤ word || (s.core core).spadErr.contains word then s else s.upCore core fun h => { h with spadErr := h.spadErr ++ [word] }

/-- A byte of the vector register file cannot be corrected: MEM_UNCORR at the engine that reads it (R450). -/
def State.vecBreak (s : State) (c : Nat) (w : EUnit) (byte : Nat) : State :=
  if (s.ctx c).run = .running then looseFault s c (EUnit.source w) (mkCause causeMemUncorr (fileAddr byte)) else s

/-- A parity error in an x register: its reader meets MEM_UNCORR, as of a load (R145, R450). -/
def State.regBreak (s : State) (c : Nat) (st : Stream) (r : BitVec 5) : State :=
  if (s.ctx c).run = .running && r ≠ 0 then
    let ord := (s.ctx c).order
    let s := s.upSeq c st fun q => { q with marks := (q.marks.filter fun m => m.reg ≠ r) ++ [{ reg := r, ord := ord, addr := fileAddr r.toNat }] }
    s.upCtx c fun k => { k with order := ord + 1 }
  else s

/-- A parity error in a bt, lc or predicate register: MEM_UNCORR at the stream's next word (R450). -/
def State.ctlBreak (s : State) (c : Nat) (st : Stream) : State :=
  if (s.ctx c).run = .running && !(s.seq c st).exited then
    let w := match s.wordAtPc c st with
      | .ok w => w
      | .error _ => 0
    preciseFault s c st (s.seq c st).pc w (mkCause causeMemUncorr (fileAddr 0))
  else s

/-- An event happens whose accesses to device memory fail on the on-die network: each meets MEM_UNCORR, as of its kind (R145, R243, R249, R254,
R450). -/
def State.netBreak (s : State) (i : Instr) : State :=
  if (encode i).isSome then s
  else match exec i { s with netBad := true } with
    | .next t => { s.keep t with netBad := false }
    | _ => s

/-- The fetch of a bundle fails there: it is poisoned, as an uncorrectable one (R114, R450). -/
def State.netFetch (s : State) (c : Nat) (st : Stream) (a : Nat) : State :=
  if (s.ctx c).core.isNone then s else { ({ s with netBad := true } : State).fetchBundle c st a with netBad := false }

/-- A parity error in an element's word of a physical tile is reported as ACC_CHECK of the tile's context (R349, R67). -/
def State.tagBreak (s : State) (core tile elem : Nat) : State :=
  match (List.range s.ctxs.length).find? fun c =>
      let k := s.ctx c
      k.core = some core && k.run = .running && decide (k.abase ≤ tile) && decide (tile < k.abase + k.acount) with
  | none => s
  | some c =>
    let i := tile - (s.ctx c).abase
    looseFault (s.noteAcc c i) c (EUnit.source .matrix) (accCheck i (elem % 16384))

/-- A parity error in a directory entry: it reads GENERAL with SPECIAL 1 (R450). -/
def State.dirBreak (s : State) (core : Nat) (tile : Bool) (n : Nat) : State :=
  s.upCore core fun h =>
    if tile then { h with tiles := vmod h.tiles n fun t => { t with general := true, special := true } }
    else if n < 1024 then { h with dir := sset 0 h.dir n (dirGeneral true) }
    else h

/-- The L2 line that holds a sector. -/
def State.l2Line? (s : State) (x : Nat) : Option L2Line :=
  (s.l2set (l2Index (x * 128))).find? fun l => l.line = lineOfDie (x * 128) && l.valid.contains x

/-- A sector of a channel: corrected, which is counted, or beyond correction, which a read of the channel then finds (R350). -/
def State.hbmError (s : State) (x : Nat) (bad : Bool) : State :=
  if !isDevice (x * 128) then s
  else if !bad then s.addScore .channel (s.channelAt (x * 128)) 1
  else if (s.l2Line? x).isSome || s.uncorr.contains x then s
  else { s with uncorr := s.uncorr ++ [x] }

/-- An error that a slice cannot correct (R353): a clean line is fetched again, a dirty sector is poisoned, in the slice and, once written
back, in the channel. -/
def State.l2Error (s : State) (x : Nat) : State :=
  match s.l2Line? x with
  | none => s
  | some l =>
    if !l.dirty.contains x then s.logPf (.event .l2Repair 0 0 (BitVec.ofNat 64 (x * 128)))
    else if s.uncorr.contains x then s
    else { s with uncorr := s.uncorr ++ [x] }

/-! ## All of them -/

/-- One input arrives. -/
def State.input (s : State) : Input → State
  | .hostRead vf bar off => s.hostRead vf bar off
  | .hostAtomic vf _ _ => if s.booted && (s.vf vf).enabled then s.complete? vf none else s
  | .ecrc vf => s.ecrcDrop vf
  | .l2Count die cls vict v => s.setL2Count die cls vict v
  | .icache c st a => if (s.ctx c).core.isSome then s.icacheRepair c st a else s
  | .corrected core => if core < 128 then s.addScore .core core 1 else s
  | .spadError core word => s.spadBreak core word
  | .vecError c w byte => s.vecBreak c w byte
  | .regError c st r => s.regBreak c st r
  | .ctlError c st => s.ctlBreak c st
  | .tagError core tile elem => s.tagBreak core tile elem
  | .dirError core tile n => s.dirBreak core tile n
  | .hbmError x bad => s.hbmError x bad
  | .l2Error x => s.l2Error x
  | .rdcError die line => s.dropCopy die line
  | .netError i => s.netBreak i
  | .netFetch c st a => s.netFetch c st a
  | .imageRead vf => if (s.vf vf).suspended then { s with replies := s.replies ++ [(0, s.stateImage vf)] } else s
  | .peerEntry vf e => s.setPeer vf e
  | .exportSet n vf base => s.setExport n vf base
  | .peerRead n off => s.peerRead n off
  | .peerWrite n off bs => s.peerWrite n off bs
  | .collAbort vf comm rank => s.collAbort vf comm rank
  | .bootFinds o => { s with bootObs := o }
  | .flitBytes quay bs => s.flitBytes quay bs

end Sys2Proof.Machine
end

