-- ==== Sys2Proof/Machine/Turn.lean ====
section
/-! DEFINITION. Whose turn it is: the events that may happen in a cycle and their order, the issue of one word by one sequencer
(R91, R114, R115, R322, R398), and the start of a tide cycle. Log 1. -/

namespace Sys2Proof.Machine

/-! ## The issue of one word -/

/-- What the checks of R91 read for a word of a stream. -/
def checkEnv (k : Ctx) (st : Stream) (w : Word) : CheckEnv :=
  { st := st, service := k.service, featmask := k.csr.featmask, entry := vgetD k.binding ((fld w 56 8).toNat - 0xC0) 0, timed := k.timed }

/-- Whether a breakpoint register matches an address (R322). -/
def bkptHits (b : Word) (pc : Word) : Bool :=
  let ign := bitsN b 57 52
  bitN b 63 && bitsN pc 51 0 / 2 ^ (3 + ign) = bitsN b 51 0 / 2 ^ (3 + ign)

/-- Whether a sequencer is about to issue at a breakpoint. -/
def Seq.atBkpt (q : Seq) : Bool := !q.micro.active && q.bkptSkip ≠ some q.pc && q.bkpt.toList.any fun b => bkptHits b q.pc

/-- The stall of a stream is over. -/
def State.unstall (s : State) (c : Nat) (st : Stream) : State := s.upSeq c st fun q => { q with stall := none }

/-- A word of a stream issues: the checks of R91, unless a routine of it already runs, and its meaning. -/
def State.runWord (s : State) (c : Nat) (st : Stream) (w : Word) : Out :=
  let k := s.ctx c
  let q := k.seq st
  match (if q.micro.active then none else checkWord (checkEnv k st w) w) with
  | some (code, detail) =>
    .next (preciseFault (s.unstall c st) c st q.pc w { code := code, detail := detail, addr := w })
  | none => match decode w with
    | .ok i => exec i s
    | .error _ => .next (preciseFault (s.unstall c st) c st q.pc w (mkCause causeReservedOpc w))

/-- One sequencer fetches and issues the word at its PC: poison first (R115), then breakpoints (R322), then the word. Execution in a bundle
approaches the next one, which is read ahead (R114). A poisoned bundle that raises its fault has issued: that it is one bundle is DESIGN CHOICE (log 67). -/
def State.issueAt (s : State) (c : Nat) (st : Stream) : Out :=
  let pc := (s.seq c st).pc
  let s := if (s.seq c st).loopBuf.any fun e => e.1 = pc.toNat then s
    else (s.fetchBundle c st pc.toNat).fetchBundle c st (pc.toNat / 64 * 64 + 64)
  match s.wordAtPc c st with
  | .error cause =>
    let s := s.upSeq c st fun q => { q with bundles := q.bundles.filter fun b => b.addr ≠ pc.toNat / 64 * 64 && b.addr ≠ pc.toNat }
    .next (preciseFault (s.unstall c st) c st pc 0 cause)
  | .ok w =>
    if (s.seq c st).atBkpt then .next (preciseFault (s.unstall c st) c st pc w (mkCause causeBkptMatch pc))
    else s.runWord c st w

/-! ## Whose turn it is (R398) -/

/-- Whether throttling withholds the scalar work of a context: an open timed region runs on (R457). -/
def State.held (s : State) (k : Ctx) : Bool := s.gated && !k.timed

/-- Whether a stream stands at a post that found its queue full, or at a QCANCEL. -/
def Seq.atPost (q : Seq) : Bool := match q.stall with
  | some (_, .post) => true
  | some (_, .cancel) => true
  | _ => false

/-- Whether a sequencer may issue in this cycle. Once every pipeline has had its turn, only a post that found its queue full is tried again,
since the takes of a cycle come before its posts (R29), and a QCANCEL after its pops (R161). -/
def State.canIssue (s : State) (c : Nat) (st : Stream) : Bool :=
  let k := s.ctx c
  let placed := match k.iter with
    | some it => decide (it.placed < s.tide)
    | none => k.service
  k.run = .running && k.core.isSome && placed && (!s.late || (k.seq st).atPost) && !(k.seq st).exited && !s.held k &&
    (k.pend.all fun p => p.tide = s.tide && p.source ≠ st.code) && (st ≠ .c || k.region.all fun r => r.missed.isNone)

/-- The contexts of a core whose sequencer of a stream may issue, and have not been tried in this cycle. -/
def State.issuers (s : State) (core : Nat) (st : Stream) (tried : List Nat) : List Nat :=
  (List.range s.ctxs.length).filter fun c => (s.ctx c).core = some core && s.canIssue c st && !tried.contains c

/-- The one of them that is next in round-robin order after the last that issued. -/
def State.pick (s : State) (core : Nat) (st : Stream) (tried : List Nat) : Option Nat :=
  let cs := s.issuers core st tried
  let last := vgetD (s.core core).lastIssue st.code 0
  match cs.find? fun c => decide (last ≤ c) with
  | some c => some c
  | none => cs.head?

/-- The first pipeline, numbered core × 4 + stream, at or after `n` that has a context to issue for. -/
def State.nextPipe (s : State) (n : Nat) : Option Nat :=
  let ps := (List.range s.ctxs.length).flatMap fun c => match (s.ctx c).core with
    | some core => ([Stream.x, .l, .c, .s].filter fun st => s.canIssue c st).map fun st => core * 4 + st.code
    | none => []
  (ps.filter fun p => decide (n ≤ p)).foldl (fun (m : Option Nat) p => match m with
    | none => some p
    | some x => some (min x p)) none

/-- A tide cycle starts: stalls are counted (R155), windows and held records settle (R236, R400), a core that left a sleeve is
given up once it is idle (R411), edits of page tables end (R314), a MIG.STOP saves what it can (R421), requests of other modules that waited are served (R430), journal writes that waited are made (R157), requests that met a pinned line come again (R295), FC4's search for a core goes on (R451), and a window of the power controller ends (R457); the other agents
move first. -/
def State.newCycle (s : State) : State :=
  let now := s.tide + 1
  let up (k : Ctx) : Ctx := ((k.countDead now).settleWins).settleCap
  let s := { s with tide := now, ctxs := s.ctxs.map up, turn := .agents, late := false, agenda := s.agenda ++ s.deferred, deferred := [] }
  let s := (List.range s.ctxs.length).foldl (fun s c => if (s.ctx c).jnlOut = [] then s else s.jnlFlush c (s.ctx c).jnlOut.length) s
  let s := s.keep s.settleEdits
  let s := s.vfs.foldl (fun s e => if e.2.stopReq.isSome then s.keep (s.settleStop e.1) else s) s
  let s := (List.range 24).foldl (fun s q => if (s.quay q).received = [] then s else s.serveQuay q) s
  let s := (List.range 128).foldl (fun s n => if (s.core n).leasePending then s.keep (s.settleCore n) else s) s
  let s := s.keep ((tryLocate s).getD s)
  (tryPowerWindow (Config.powerEstimate s.powerWindow) s).getD s

/-- The turn of the first pipeline from number `n` on that has work. -/
def State.nextTurn (s : State) (n : Nat) : Option Turn :=
  (s.nextPipe n).bind fun p => (s.pick (p / 4) (streamNo p) []).map fun c => .issue c (streamNo p) []

/-- The turn passes to the pipelines from number `n` on; after the last one to the posts that stood still, and then to what comes after
the streams in a cycle (R29, R34). -/
def State.rotate (s : State) (n : Nat) : State :=
  match s.nextTurn n with
  | some t => { s with turn := t }
  | none => { s with late := true, turn := if s.late then .agents else ({ s with late := true } : State).nextTurn 0 |>.getD .agents }

/-- After one sequencer has had its turn: the pipeline's work in this cycle is done, unless the word stood still, or a step of its routine is
not due, and another context is ready. -/
def State.afterIssue (s : State) (c : Nat) (st : Stream) (tried : List Nat) : State :=
  let q := s.seq c st
  let core := (s.ctx c).coreNo
  let pipe := core * 4 + st.code
  if q.stall.isNone || q.stall.any (fun w => w.2 = .step) then
    let s := s.upCore core fun h => { h with lastIssue := vmod h.lastIssue st.code fun _ => c + 1 }
    s.rotate (pipe + 1)
  else match s.pick core st (c :: tried) with
    | some d => { s with turn := .issue d st (c :: tried) }
    | none => s.rotate (pipe + 1)

/-- What a word's turn leaves: all that it did; or, where an access of it met a pinned line, a channel in a hold or another module's memory, that it
asked, and the word stands still (R287, R295, R440; log 25). -/
def State.issued (s : State) (c : Nat) (st : Stream) (t : State) : State :=
  if t.stands then t
  else (s.undone t).upSeq c st fun q => { q with stall := some ((s.wordAtPc c st).toOption.getD 0, .other) }

/-- The turn of one sequencer. A word that resumption issued without testing it is tested again from then on (R322). -/
def State.issueStep (s : State) (c : Nat) (st : Stream) (tried : List Nat) : Out :=
  if s.canIssue c st then
    let skip := (s.seq c st).bkptSkip = some (s.seq c st).pc
    match s.issueAt c st with
    | .next t =>
      let t := s.issued c st t
      let t := t.upSeq c st fun q => if skip && q.stall.isNone then { q with bkptSkip := none } else q
      .next (t.afterIssue c st tried)
    | o => o
  else .next (s.rotate ((s.ctx c).coreNo * 4 + st.code))

/-! ## The other agents -/

/-- Whether an event that the module itself brings about may happen now, and the state after it. -/
def tryEvent (i : Instr) (s : State) : Option State :=
  match i with
  | .loadReturn c st => tryLoadReturn c st s
  | .accessPerform w => tryAccessPerform w s
  | .pinRetry c st => tryPinRetry c st s
  | .pinTimeout c l => tryPinTimeout c l s
  | .tokenDeadlock c => tryTokenDeadlock c s
  | .fqLeftover c => tryFqLeftover c s
  | .iterationRetire c => tryIterationRetire c s
  | .scheduleMiss c => tryScheduleMiss c s
  | .regionRestart c => tryRegionRestart c s
  | .jnlbaseApply c => tryJnlbaseApply c s
  | .engineIssue c u => tryEngineIssue c u s
  | .matrixComplete c => tryMatrixComplete c s
  | .vectorLand c u => tryVectorLand c u s
  | .streamPortFetch c p => tryStreamPortFetch c p s
  | .outputPortWrite c p => tryOutputPortWrite c p s
  | .copyPiecePerform c i p => tryCopyPiece c i p s
  | .copyComplete c i => tryCopyComplete c i s
  | .ldeLoad h b c => tryLdeLoad h b c s
  | .ldeVerify h b => tryLdeVerify h b s
  | .gatherRows c => tryIeStart 1 c s
  | .gatherElem c => tryIeStart 2 c s
  | .scatterRows c => tryIeStart 3 c s
  | .scatterAdd c => tryIeStart 4 c s
  | .mergeAdd c => tryMergeAdd c s
  | .ieBatchComplete c => tryIeBatch c s
  | .sqCommandEnd c u => trySqEnd c u s
  | .collEntryStart c => tryCollEntryStart c s
  | .send c => tryCollStep 1 c s
  | .recv c => tryCollStep 2 c s
  | .recvXadd c => tryCollStep 3 c s
  | .recvFadd c => tryCollStep 4 c s
  | .fwd c => tryCollStep 5 c s
  | .collEntryEnd c => tryCollEntryEnd c s
  | .faultStop c => tryFaultStop c s
  | .frameClose c => tryFrameClose c s
  | .holdAbortTimeout c => tryHoldAbortTimeout c s
  | .faultRecordTimeout n => tryFaultRecordTimeout n s
  | .restoreContext c n => tryRestoreContext c n s
  | .placeIteration l d => tryPlaceIteration l d s
  | .placeCohort l => tryPlaceCohort l s
  | .triggerRelease l => tryTriggerRelease l s
  | .periodStart => tryPeriodStart s
  | .newcomerTimeout l => tryNewcomerTimeout l s
  | .drainRedecide c => tryDrainRedecide c s
  | .quantumExpire c => tryQuantumExpire c s
  | .quantumCheckpoint c => tryQuantumCheckpoint c s
  | .leaseGrant l => tryLeaseGrant l s
  | .leaseForceCheckpoint l => tryLeaseForceCheckpoint l s
  | .leaseHoldLimit l => tryLeaseHoldLimit l s
  | .rotationLease k u => tryRotationLease k u s
  | .watchLease k u => tryWatchLease k u s
  | .scoreDecay => tryScoreDecay s
  | .quayLeaseDefer l => tryQuayLeaseDefer l s
  | .channelHoldEnd c r => tryChannelHoldEnd c r s
  | .quayFlitSend q => tryQuayFlitSend q s
  | .linkDown q => tryLinkDown q s
  | .commandAccept v r => tryCommandAccept v r s
  | .launch v r => tryLaunch v r s
  | .invoke v r => tryInvoke v r s
  | .graph v r => tryGraph v r s
  | .berthLoad v r => tryBerthLoad v r s
  | .berthDrop v r => tryBerthDrop v r s
  | .berthFree v b => tryBerthFree v b s
  | .signal v r => trySignal v r s
  | .wait v r => tryWait v r s
  | .waitTimeout v r => tryWaitTimeout v r s
  | .fenceCommand v r => tryFenceCommand v r s
  | .nopCommand v r => tryNopCommand v r s
  | .capture v r => tryCapture v r s
  | .replay v r => tryReplay v r s
  | .commandComplete v r i => tryCommandComplete v r i s
  | .launchNode g => tryLaunchNode g s
  | .copyNode g => tryCopyNode g s
  | .cond g => tryCond g s
  | .loopNode g => tryLoopNode g s
  | .signalNode g => trySignalNode g s
  | .waitNode g => tryWaitNode g s
  | _ => none

/-- The events of a context's collective entry, which goes on while the context is saved (R319). -/
def collEvents (c : Nat) : List Instr := [.send c, .recv c, .recvXadd c, .recvFadd c, .fwd c, .collEntryEnd c, .collEntryStart c]

/-- The events of one context, in order: what lands, what performs, what issues, what faults and stops, what retires. -/
def State.ctxEvents (s : State) (c : Nat) : List Instr :=
  let k := s.ctx c
  match k.run with
  | .gone => []
  | .saved => collEvents c ++ [.holdAbortTimeout c] ++ match k.iter with
    | none => []
    | some it => match s.launch? it.launch with
      | none => []
      | some l => (s.launchCores l).map fun n => .restoreContext c n
  | _ =>
    let sts := [Stream.x, .l, .c, .s]
    [.faultStop c, .matrixComplete c, .vectorLand c .vector, .vectorLand c .sfu] ++
    (sts.flatMap fun st => [.accessPerform (.core c st), .loadReturn c st, .pinRetry c st]) ++
    (k.copies.zipIdx.flatMap fun e => if 128 * e.1.lead < e.1.count then [.copyPiecePerform c e.2 e.1.lead] else []) ++
    ((List.finRange 4).flatMap fun p => [.streamPortFetch c p, .outputPortWrite c p]) ++
    [.gatherRows c, .gatherElem c, .scatterRows c, .scatterAdd c, .mergeAdd c] ++ collEvents c ++
    [.engineIssue c .matrix, .engineIssue c .vector, .engineIssue c .sfu, .scheduleMiss c, .regionRestart c,
     .tokenDeadlock c, .frameClose c, .holdAbortTimeout c, .fqLeftover c, .iterationRetire c, .drainRedecide c, .quantumExpire c,
     .quantumCheckpoint c]

/-- What comes after the streams in a cycle, in the order of R34: copy completions in the order in which the copies issued, then the index
engine, then the merge unit; with them the posts of engines that a take of this cycle made room for (R29), a write to JNLBASE, and the restart of a region whose token arrived in this cycle (R171). -/
def State.lateEvents (s : State) (c : Nat) : List Instr :=
  let k := s.ctx c
  match k.run with
  | .gone => []
  | .saved => []
  | _ =>
    [.matrixComplete c, .vectorLand c .vector, .vectorLand c .sfu] ++ ((List.range k.copies.length).map fun i => .copyComplete c i) ++
    [.ieBatchComplete c, .sqCommandEnd c .ie, .sqCommandEnd c .mu, .jnlbaseApply c, .regionRestart c]

/-- The events of one core: stores on their way home, pins, the tenant banks. -/
def State.coreEvents (s : State) (n : Nat) : List Instr :=
  let h := s.core n
  ((List.range h.stores.length).map fun i => .accessPerform (.home n i)) ++ (h.pins.map fun p => .pinTimeout n p.line) ++
    ((List.range s.ctxs.length).filter fun c => (s.ctx c).core = some n && (s.ctx c).image.isSome).flatMap fun c =>
      [.ldeLoad n 0 c, .ldeLoad n 1 c, .ldeVerify n 0, .ldeVerify n 1]

/-- The events of one ring; FC4's own replays are not a ring's (R451). -/
def Ring.events (r : Ring) : List Instr :=
  let v := r.vf
  let n := r.num
  if n = fwRing then [] else
  [.launch v n, .invoke v n, .graph v n, .berthLoad v n, .berthDrop v n, .signal v n, .wait v n, .waitTimeout v n, .fenceCommand v n,
   .nopCommand v n, .capture v n, .replay v n] ++ (r.cmds.map fun c => .commandComplete v n c.seq) ++ [.commandAccept v n]

/-- The events of one walk. -/
def graphEvents (g : Nat) : List Instr := [.launchNode g, .copyNode g, .cond g, .loopNode g, .signalNode g, .waitNode g]

/-- The events of one launch. -/
def State.launchEvents (s : State) (n : Nat) : List Instr :=
  match s.launch? n with
  | none => []
  | some l =>
    if l.ended then []
    else
      [.triggerRelease n, .placeCohort n] ++ ((diesOf (s.launchCores l)).map fun d => .placeIteration n d) ++ [.newcomerTimeout n]

/-- The events of one lease. A quay's grant and every outcome come from outside. -/
def Lease.events (l : Lease) : List Instr :=
  if l.open? then
    (if l.kind = .quay then [.quayLeaseDefer l.id] else [.leaseGrant l.id]) ++ [.leaseForceCheckpoint l.id, .leaseHoldLimit l.id]
  else []

/-- Rotation and watch leases that may have fallen due (R444, R447). -/
def State.rotationEvents (s : State) : List Instr :=
  let kinds := [UnitKind.core, .quay, .channel]
  (kinds.flatMap fun k =>
    if s.tide < s.period k then [] else (List.range (unitCount k)).map fun u => .rotationLease k u) ++
  s.units.flatMap fun r =>
    (if r.early.isSome then [.rotationLease r.kind r.unit] else []) ++ if r.watchDue.isSome then [.watchLease r.kind r.unit] else []

/-- Everything that the module may bring about itself in this cycle, in the order in which it is tried. While the firmware cores are held in reset
(R454) there is nothing. -/
def State.events (s : State) : List Instr :=
  if !s.booted then [] else
  if s.late then (List.range s.ctxs.length).flatMap s.lateEvents else
  ((List.range s.ctxs.length).flatMap s.ctxEvents) ++
  (((s.ctxs.filterMap (·.core)).eraseDups ++ ((List.range 128).filter fun n => (s.core n).stores ≠ [])).eraseDups.flatMap s.coreEvents) ++
  ((List.range 24).map fun q => .quayFlitSend q) ++ ((List.range 24).map fun q => .linkDown q) ++
  (s.holds.filterMap fun h => if h.since + 32400 ≤ s.tide then some (.channelHoldEnd h.channel true) else none) ++
  (s.faults.map fun r => .faultRecordTimeout r.num) ++
  (s.rings.flatMap Ring.events) ++
  (s.vfs.flatMap fun e => e.2.berths.map fun b => .berthFree e.1 b.num) ++
  ((List.range s.graphs.length).flatMap graphEvents) ++
  ((List.range s.launches.length).flatMap s.launchEvents) ++
  (s.leases.flatMap Lease.events) ++ s.rotationEvents ++ [.periodStart, .scoreDecay]

/-- Whether an event may happen now: one that needs a pinned line or another module only asks, once (R287, R295). -/
def State.mayHappen (s : State) (i : Instr) : Bool := match tryEvent i s with
  | none => false
  | some t => t.stands || (s.waitOr (s.undone t)).isSome

/-- The first of these that can happen. -/
def State.nextEvent (s : State) : Option Instr := s.events.find? s.mayHappen

/-- Once no other agent has anything to do: the turn passes to the sequencers, or, after them, a tide cycle starts. -/
def State.agentsDone (s : State) : State := if s.late then s.newCycle else s.rotate 0

/-- Whether a constructor is an event and no instruction word. -/
def isEvent (i : Instr) : Bool := (encode i).isNone

/-- The resets that need no power beforehand (R452, R456). -/
def powersOn : Instr → Bool
  | .coldReset _ => true
  | .sidebandCold _ => true
  | _ => false

end Sys2Proof.Machine
end

