-- ==== Sys2Proof/Machine/Step.lean ====
section
/-! DEFINITION. The step of the module (log 1), and how a word is laid where the next step fetches. -/

namespace Sys2Proof.Machine

/-- What is left done by an event that led from one state to another. -/
def keepDone (s : State) : Out → Out
  | .next t => .next (s.keep t)
  | o => o

/-- An event from outside: what needed a pinned line or another module is put off to the next cycle (R287, R295; log 25). -/
def State.fromOutside (s : State) (i : Instr) : Out :=
  if !isEvent i || !(s.powerOn || powersOn i) then .next s
  else match exec i s with
    | .next t => .next (if t.stands then t else { s.undone t with deferred := s.deferred ++ [i] })
    | o => o

/-- One step: an event or an input from outside if one is due; else the turn's sequencer, or the first event the module brings about;
when there is none, the turn passes to the sequencers. -/
def step (s : State) : Host.Outcome State Fault Refusal :=
  match s.agenda with
  | i :: rest => ({ s with agenda := rest } : State).fromOutside i
  | [] =>
    if !s.powerOn then .fault .noPower
    else match s.inputs with
      | a :: rest => .next (({ s with inputs := rest } : State).input a)
      | [] => match s.turn with
        | .issue c st tried => s.issueStep c st tried
        | .agents => match s.nextEvent with
          | some i => keepDone s (exec i s)
          | none => .next s.agentsDone

/-- The stream that a word is placed in: the first that accepts it; a tenant opcode goes to the C stream. -/
def placeStream (w : Word) : Stream :=
  let o := (fld w 56 8).toNat
  if isUOpc o then .c else (streamsOf o (fld w 32 3).toNat).headD .x

/-- Where the word of `withFetchWord` stands. -/
def fetchPc : Nat := 0x1FC00000000

/-- A context whose stream `run` stands at `fetchPc` on core 0, with the other streams past their EXIT: an FC5 service context, with
every tenant opcode bound for every stream. No event of the model sets `Ctx.service`: the spec names none by which a service context comes to
exist (logs 36, 40). -/
def placedCtx (run : Stream) : Ctx :=
  let at' (k : Ctx) (st : Stream) : Ctx := k.upSeq st fun q => { q with pc := BitVec.ofNat 64 fetchPc, exited := st ≠ run }
  let k := { Ctx.blank with
    core := some 0, service := true, run := .running, saveArea := saveAreaOf 0,
    binding := Vector.replicate 64 (BitVec.ofNat 64 (0xF * 2 ^ 59 + 2 ^ 63)),
    csr := { Csrs.zero with
      codebase := BitVec.ofNat 64 fetchPc, codebound := BitVec.ofNat 64 (fetchPc + 64), splimit := 1024,
      accmap := BitVec.ofNat 64 (128 * 2 ^ 32 + 32 * 2 ^ 16), scopelimit := 4,
      jnlbase := 0x7F0000000002 } }
  at' (at' (at' (at' k .x) .l) .c) .s

/-- The state with an instruction word placed in the arena at the PC of a running context whose turn it is (log 40). -/
def State.withFetchWord (s : State) (nbits w : Nat) : State :=
  let v : Word := BitVec.ofNat 64 (w % 2 ^ nbits)
  { s with code := ssets 0 s.code (keyed fetchPc (bytesOfWord v)), ctxs := [placedCtx (placeStream v)], agenda := [], inputs := [],
           turn := .issue 0 (placeStream v) [], late := false }

end Sys2Proof.Machine
end

