-- ==== Sys2Proof/Safety.lean ====
section
/-! DEFINITION. What the claims are stated in: the invariant of a run, when a word may execute, the state after a word, and when a
run is safe. -/

namespace Sys2Proof.Machine

/-! ## The invariant -/

/-- The two byte stores are in canonical form: addresses strictly rising, no byte of value 0. -/
def State.Inv (s : State) : Prop := Memory.wf s.mem = true ∧ Memory.wf s.code = true

/-! ## Safe runs -/

/-- A step that goes on. -/
def State.goesOn (s : State) : Prop := ∃ t, step s = .next t

/-- A run of `n` steps that goes on at each of them. -/
def SafeRun : Nat → State → Prop
  | 0, _ => True
  | n + 1, s => ∃ t, step s = .next t ∧ SafeRun n t

/-! ## A word that may execute -/

/-- Stream `st` of context `c` has its turn. -/
def State.turnOf (s : State) (c : Nat) (st : Stream) : Bool :=
  decide (c < s.ctxs.length) && match s.turn with
    | .issue d u _ => d = c && u = st
    | .agents => false

/-- An unboosted word with a true guard meets nothing that holds it back: no shadow level is in use by its stream (R136), the
registers it reads and writes are owed by no load and no engine (R146, R233), and none of those it reads is marked (R145). -/
def State.runs (s : State) (c : Nat) (st : Stream) (g : Guard) (xs ws : List (BitVec 5)) : Bool :=
  let k := s.ctx c
  let q := k.seq st
  s.turnOf c st && g.boost = 0 && q.rp g.gp != g.gn && !(st = .x && k.boost.nonEmpty) && !(xs ++ ws).any (owed q) &&
    !engineBusy k st xs ws && (markOf q xs).isNone

/-- No slot of a transfer is pending (R122). -/
def State.noSlot (s : State) (c : Nat) (st : Stream) : Bool := (s.seq c st).xfer.isNone

/-- The stream's queues of loads and stores are empty. -/
def State.quiet (s : State) (c : Nat) (st : Stream) : Bool := (s.seq c st).loadQ = [] && (s.seq c st).storeQ = []

/-! ## The state after a word -/

/-- The word has completed: the sequencer stands at the next one (R122, R124). -/
def Seq.retire (q : Seq) : Seq := { q.advance with stall := none, ord := q.ord + 1 }

/-- The word has completed in stream `st` of context `c`. -/
def State.retire (s : State) (c : Nat) (st : Stream) : State := s.upSeq c st Seq.retire

/-- The word has completed and set the next PC itself. -/
def State.retireJump (s : State) (c : Nat) (st : Stream) : State :=
  s.upSeq c st fun q => { q with stall := none, ord := q.ord + 1 }

/-- The word stands, for a reason. -/
def State.stand (s : State) (c : Nat) (st : Stream) (i : Instr) (k : StallKind) : State :=
  s.upSeq c st fun q => { q with stall := some (wordOf i, k) }

/-- The word raises a precise fault. -/
def State.trapAt (s : State) (c : Nat) (st : Stream) (i : Instr) (e : Cause) : State :=
  preciseFault (s.upSeq c st fun q => { q with stall := none }) c st (s.seq c st).pc (wordOf i) e

/-- A register of the stream takes a value and the word completes. -/
def State.putX (s : State) (c : Nat) (st : Stream) (d : BitVec 5) (v : Word) : State :=
  (s.upSeq c st fun q => q.wx d v).retire c st

/-- A predicate of the stream takes a value and the word completes. -/
def State.putP (s : State) (c : Nat) (st : Stream) (d : BitVec 3) (v : Bool) : State :=
  (s.upSeq c st fun q => q.wp d v).retire c st

/-- What Commit leaves (R14): each register that has an entry of level 1 takes its value and is no longer marked, and level 2 becomes level 1 with its record. -/
def Committed (k k' : Ctx) : Prop :=
  let at1 (isP : Bool) (r : Nat) : Option Word := (k.boost.entries.find? fun e => e.lv = 1 && e.isP = isP && e.reg = r).map (·.val)
  (∀ r, (k'.seq .x).rx r = if r = 0 then 0 else (at1 false r.toNat).getD ((k.seq .x).rx r)) ∧
  (∀ r, (k'.seq .x).rp r = if r = 0 then true else ((at1 true r.toNat).map fun v => decide (v ≠ 0)).getD ((k.seq .x).rp r)) ∧
  (k'.seq .x).marks = ((k.seq .x).marks.filter fun m => (at1 false m.reg.toNat).isNone) ∧
  k'.boost = { entries := (k.boost.entries.filter fun e => e.lv = 2).map fun e => { e with lv := 1 }, rec1 := k.boost.rec2, rec2 := none } ∧
  (∃ q, k' = { (k.upSeq .x fun _ => q) with boost := k'.boost }) ∧ (k'.seq .x).bt = (k.seq .x).bt ∧ (k'.seq .x).loadQ = (k.seq .x).loadQ

/-- No load that writes a shadow entry is under way, and no entry of level 1 is poisoned (R134). -/
def Ctx.mayCommit (k : Ctx) : Bool := !k.boostLoads && k.boost.entries.all fun e => e.lv ≠ 1 || e.poison.isNone

/-! ## A word for an engine -/

/-- The engines of the context's core are free, none of its queues holds a word, and nothing that the word needs is lacking: it
issues in the cycle in which the C stream sends it (R180, R181, R306), and no word of its scratchpad holds an uncorrectable error. -/
def State.idle (s : State) (c : Nat) (y : Sync) : Bool :=
  let k := s.ctx c
  let h := s.core k.coreNo
  s.turnOf c .c && k.run = .running && k.core.isSome && decide (k.coreNo < 128) && k.pend = [] && !k.timed && k.region.isNone &&
    k.posts = [] && !s.gated && k.eqM = [] && k.eqV = [] && k.eqS = [] && s.ctxs.all (fun x => x.flight = []) && s.quiet c .c &&
    (s.seq c .c).marks = [] && k.canTake (syncWaits y) && k.canPost y.pq.toNat && decide (k.velems ≤ 1024) && decide (h.stageFree ≤ s.tide) &&
    decide (h.arrayFree ≤ s.tide) && decide (h.pathFree ≤ s.tide) && decide (h.vecFree ≤ s.tide) && decide (h.sfuFree ≤ s.tide) &&
    h.spadErr = []

/-- The word issues, the C stream goes on, and `n` cycles later the vector or special-function unit lands it: `u`. -/
def Lands (s : State) (c : Nat) (w : EUnit) (i : Instr) (n : Nat) (u : State) : Prop :=
  ∃ t, exec i s = .next t ∧ t.seq c .c = (s.seq c .c).retire ∧ exec (.vectorLand c w) { t with tide := s.tide + n } = .next u

/-- The word issues, the C stream goes on, and `n` cycles later the matrix engine completes it: `u`. -/
def Completes (s : State) (c : Nat) (i : Instr) (n : Nat) (t u : State) : Prop :=
  exec i s = .next t ∧ t.seq c .c = (s.seq c .c).retire ∧ exec (.matrixComplete c) { t with tide := s.tide + n } = .next u ∧
    (u.ctx c).flight = []

/-- A word lands after `n` cycles: the elements of register `vd` that `sel` selects are those of `g`, the others of `vd`, its bytes beyond the
last element of the shape (R18) and every other register keep their values, VSTAT gains the flags `fl`, and the other CSRs, predicates, x registers, scratchpads and memory stay. -/
def VecResult (s : State) (c : Nat) (w : EUnit) (i : Instr) (n : Nat) (vd : BitVec 5) (size : Nat) (sel : Nat → Bool) (g : Nat → Nat)
    (fl : Word) : Prop :=
  ∃ u, Lands s c w i n u ∧
    (∀ j < (s.ctx c).velems, (u.ctx c).velem vd.toNat size j = if sel j then g j else (s.ctx c).velem vd.toNat size j) ∧
    (∀ a, a < vkey vd.toNat 0 ∨ vkey vd.toNat ((s.ctx c).velems * size) ≤ a → sget 0 (u.ctx c).v a = sget 0 (s.ctx c).v a) ∧
    (u.ctx c).csr = { (s.ctx c).csr with vstat := (s.ctx c).csr.vstat ||| fl } ∧ (u.ctx c).m = (s.ctx c).m ∧
    (u.seq c .c).x = (s.seq c .c).x ∧ u.mem = s.mem ∧
    ∀ core, (u.core core).spad = (s.core core).spad ∧ (u.core core).tiles = (s.core core).tiles

/-- The flags that the selected elements of a list raise together. -/
def flagsOver (n : Nat) (sel : Nat → Bool) (g : Nat → Word) : Word :=
  ((List.range n).filter sel).foldl (fun a j => a ||| g j) 0

/-! ## Requests to the firmware (R391) -/

/-- The state in which a request has its effect: its message has left the mailbox. -/
def State.begun (s : State) (q : FwReq) : State :=
  match (s.ring q.vf q.ring).cmd? q.seq with
  | some c => s.takeMail c
  | none => s

/-- What follows a request of the physical function that core `core` answers with KIND `kind`. With no running FW.REQ whose message stands at
the head of that core's mailbox there is no request. Else its own effect leaves `u` and a 64-byte reply with the request's KIND, the core, the
sequence number and the status; the reply is written at REPLYVA, and the command that made the request ends DONE with the status as
RESULT. -/
def Answers (s : State) (q : FwReq) (i : Instr) (core kind st : Nat) (P : State → List Byte → Prop) : Prop :=
  (s.asking q core kind = none → exec i s = .next s) ∧
  ((s.asking q core kind).isSome → ∃ u r, P u r ∧ r.length = 64 ∧ fieldN r 0 2 = kind ∧ fieldN r 2 1 = core ∧ fieldN r 4 4 = q.seq % 2 ^ 32 ∧
    fieldN r 8 1 = st ∧
    let w := (u.fwWrite 0 q.replyVa 3 r).1
    exec i s = .next (({ w with replies := w.replies ++ [(q.ring, r)] } : State).endCmd q.vf q.ring q.seq 0 0 (BitVec.ofNat 64 st)))

end Sys2Proof.Machine
end

