-- ==== Sys2Proof/Certificates/Slice0/Obligations.lean ====
section
/-! DEFINITION. The statements for the provers. -/

open Sys2Proof Sys2Proof.Machine

/-! ## Reset and the whole machine -/

/-- What R7, R22, R34, R195, R452 to R457 give for reset: the tide, the firmware's tables, memory and scratchpad at 0, tiles and barriers
at their reset values. The values that the model chose are not stated here. Host memory at 0 is the model's choice (log 3). -/
def Obligations.ResetValues : Prop :=
  let s := State.reset
  s.tide = 0 ∧ (∀ pa, sget 0 s.mem pa = 0) ∧ (∀ n < 128, (s.core n).spad = [] ∧ (s.core n).dir = []) ∧
  (∀ n < 128, ∀ i < 32, vgetD (s.core n).tiles i Tile.zero = Tile.zero) ∧
  (∀ n < 128, ∀ b < 128, (vgetD (s.core n).bars b Barrier.raw).init = false) ∧
  s.rings = [] ∧ s.launches = [] ∧ s.sleeves = [] ∧ bitsN s.pwrstat 47 32 = 15000 ∧ Ctx.blank.csr.vshape = 0x00810020

/-- The reset state meets the invariant. -/
def Obligations.ResetMeetsInvariant : Prop := State.reset.Inv

/-- Every step, whatever it runs, keeps memory and the arena in canonical form, from every state that meets the invariant. -/
def Obligations.StepKeepsInvariant : Prop := ∀ s t : State, s.Inv → step s = .next t → t.Inv

/-- Every instruction and every event answers a next state in every state: none is refused, none faults; a step goes on unless the module has
no power and nothing waits on the agenda (R456). -/
def Obligations.StepGoesOn : Prop :=
  (∀ s : State, (s.agenda ≠ [] ∨ s.powerOn = true → s.goesOn) ∧ (s.agenda = [] ∧ s.powerOn = false → step s = .fault .noPower)) ∧
  (∀ (i : Instr) (s : State), ∃ t, exec i s = .next t)

/-- A step runs the decoded instruction: the sequencer whose turn it is fetches the bundle of its PC, with the one after it; when the word at
the PC decodes to `i`, no breakpoint register stops it and the checks of R91 pass, the step is `exec i`, after which the pipeline's turn is
over; what `exec i` did stands, or, where an access of it met a pinned line, a channel in a hold or another module's memory, the word has
only asked and stands still (R287, R295, R440). Who moves next is the model's order (log 1), and that one bundle is read ahead is its choice (log 67). -/
def Obligations.StepRunsDecoded : Prop :=
  ∀ (s : State) (c : Nat) (st : Stream) (tried : List Nat) (w : Word) (i : Instr),
    let pc := (s.seq c st).pc
    let f := (s.fetchBundle c st pc.toNat).fetchBundle c st (pc.toNat / 64 * 64 + 64)
    let tested (t : State) : State := t.upSeq c st fun q =>
      if decide ((s.seq c st).bkptSkip = some pc) && q.stall.isNone then { q with bkptSkip := none } else q
    s.agenda = [] → s.inputs = [] → s.powerOn = true → s.turn = .issue c st tried → s.canIssue c st = true →
    (s.seq c st).loopBuf = [] → (s.seq c st).micro.active = false → f.wordAtPc c st = .ok w → (f.seq c st).atBkpt = false →
    checkWord (checkEnv (f.ctx c) st w) w = none → decode w = .ok i →
    step s = match exec i f with
      | .next t => .next ((tested (s.issued c st t)).afterIssue c st tried)
      | o => o

/-- The word at an aligned PC inside the code bounds, of a bundle that the access table admits and that has no uncorrectable sector, is
the little-endian word of the arena's bytes there (R74, R114); a byte that a debugger or a placement changed since the iteration started reads
as it was, and one changed before reads as it is (R117). BUNDLE_FETCH enters the bundle with its poison tag, or a target with bits [2:0] set under its own address, poisoned with FETCH_RANGE,
and never faults. What admits a function to its code range is log 20. -/
def Obligations.FetchReadsArena : Prop :=
  (∀ (s : State) (c : Nat) (st : Stream), c < s.ctxs.length → (s.seq c st).pc.toNat % 8 = 0 → (s.seq c st).loopBuf = [] →
    (s.seq c st).bundles = [] → s.bundlePoison (s.ctx c) (s.seq c st).pc.toNat = none →
    let a := (s.seq c st).pc.toNat
    let f := s.fetchBundle c st a
    (s.codeEdits = [] → f.wordAtPc c st = .ok (BitVec.ofNat 64 (leNat (sbytes s.code a 8)))) ∧
    ∀ (e : CodeEdit) (it : Iter), s.codeEdits = [e] → (s.ctx c).iter = some it →
      (it.edits = 0 → f.wordAtPc c st = .ok (BitVec.ofNat 64 (leNat ((List.range 8).map fun i =>
        if e.addr ≤ a + i ∧ a + i < e.addr + e.old.length then e.old.getD (a + i - e.addr) 0 else sget 0 s.code (a + i))))) ∧
      (0 < it.edits → f.wordAtPc c st = .ok (BitVec.ofNat 64 (leNat (sbytes s.code a 8))))) ∧
  (∀ (s : State) (c : Nat) (st : Stream) (a : Word), c < s.ctxs.length → (s.ctx c).run = .running → (s.seq c st).bundles = [] →
    ∃ t, exec (.bundleFetch c st a) s = .next t ∧ t.mem = s.mem ∧ t.code = s.code ∧
      t.seq c st = { s.seq c st with bundles := [
        if a.toNat % 8 = 0 then { addr := a.toNat / 64 * 64, poison := s.bundlePoison (s.ctx c) a.toNat }
        else { addr := a.toNat, poison := some { code := 0x10, addr := a } }] })

/-! ## Encodings -/

/-- Words written out from the encoding tables decode to the instructions they stand for (the spec's own examples), and a word whose opcode is
reserved raises RESERVED_OPC before anything else is judged (R82, R91). -/
def Obligations.DecodeExamples : Prop :=
  (let g : Guard := { boost := 0, gn := false, gp := 0 }
  decode 0x0000A63800000000 = .ok (.add g 5 6 7) ∧ decode 0x0300640200002308 = .ok (.bfx g 3 4 8 12 true) ∧
  decode 0x302C890A00000010 = .ok (.ld { boost := 0, gn := true, gp := 3 } 4 9 2 true false 0 16) ∧
  decode 0x240020000000C805 = .ok (.loop g 1 0 100 5) ∧
  decode 0x6052090030414600 = .ok (.mma ⟨5, 2, 0, 9, 12⟩ 4 5 3 0) ∧
  decode 0x36006C2700000003 = .ok (.amoMaxu g 3 12 4 3 true) ∧
  decode 0x4601280200000082 = .ok (.barExp g 9 8 2 true) ∧
  decode 0x9B1005000085300A = .ok (.cpy ⟨1, 0, 0, 5, 0⟩ 4 5 6 0 2 true) ∧
  decode 0x7000000000408040 = .ok (.vshape ⟨0, 0, 0, 0, 0⟩ 0x408040) ∧
  decode 0xC400000000000000 = .ok (.uop 0xC4 0 0 0 0 0) ∧
  decode 0x4300DB0100000000 = .ok (.sqpush g 6 27 1) ∧ decode 0x2700000000000000 = .ok (.exit g)) ∧
  (∀ (e : CheckEnv) (w : Word), reservedOpc (w.extractLsb' 56 8).toNat = true →
    checkWord e w = some (0x01, 56) ∧ decode w = .error .reservedOpc)

/-- Decoding what the encoder writes for a well-formed instruction gives it back, with every operand at every value. -/
def Obligations.DecodeOfEncode : Prop := ∀ (i : Instr) (w : Word), i.wf = true → encode i = some w → decode w = .ok i

/-- Every word that decodes is the encoding of its instruction: no bit is dropped, and every unused bit is judged. -/
def Obligations.EncodeOfDecode : Prop := ∀ (w : Word) (i : Instr), decode w = .ok i → encode i = some w

/-! ## Scalar instructions (R108 to R113) -/

/-- x0 and p0 read as constants and discard writes; a word whose destination is x0 or p0 has its other effects all the same: the push and
the pop happen, and a load out of range faults (R10). -/
def Obligations.ConstantRegisters : Prop :=
  (∀ (q : Seq) (v : Word) (b : Bool), q.rx 0 = 0 ∧ q.wx 0 v = q ∧ q.rp 0 = true ∧ q.wp 0 b = q) ∧
  (∀ (s : State) (c : Nat) (st : Stream) (g : Guard) (a : BitVec 5) (imm : BitVec 32) (r : Word) (rest : List Word),
    (s.runs c st g [a] [0] = true → (s.ctx c).fq.length < 64 → (s.ctx c).jnlRoom = true → ∃ t, exec (.fqpush g 0 a) s = .next t ∧
      (t.ctx c).fq = (s.ctx c).fq ++ [{ word := (s.seq c st).rx a, seq := (s.ctx c).csr.jnlhead.toNat }] ∧ (t.seq c st).rx 0 = 0) ∧
    (s.runs c st g [] [0] = true → (s.ctx c).yq = r :: rest → ∃ t, exec (.ypop g 0) s = .next t ∧ (t.ctx c).yq = rest ∧ (t.seq c st).rx 0 = 0) ∧
    (s.runs c st g [a] [0] = true → bitsN ((s.seq c st).rx a + imm.signExtend 64) 63 56 ≠ 0 → exec (.ld g 0 a 3 false false 0 imm) s =
      .next (s.trapAt c st (.ld g 0 a 3 false false 0 imm) { code := 0x18, addr := (s.seq c st).rx a + imm.signExtend 64 })) ∧
    (s.runs c st g [a, a] [] = true → exec (.cmpNe g 0 a a) s = .next (s.retire c st)))

/-- The two-operand instructions of R108: OPC and SUB name them, IMM is 0; each completes with its result in xD, for every operand and
every D, x0 included (which discards it); division by zero gives all ones and the dividend; a poisoned source traps with MEM_UNCORR. -/
def Obligations.ScalarArithmetic : Prop :=
  (∀ w : Word, ∀ p ∈ [(0, 0, Instr.add), (0, 1, .sub), (0, 2, .and), (0, 3, .or), (0, 4, .xor), (0, 5, .shl), (0, 6, .shr), (0, 7, .sar),
      (1, 0, .mul), (1, 1, .mulhu), (1, 2, .mulhs), (1, 3, .divu), (1, 4, .remu), (2, 0, .min), (2, 1, .max), (2, 2, .minu), (2, 3, .maxu)],
    (fld w 56 8).toNat = p.1 → (fld w 32 3).toNat = p.2.1 →
      if fld w 54 2 ≠ 3 ∧ fld w 0 32 = 0 then decode w = .ok (p.2.2 (guardOf w) (fld w 45 5) (fld w 40 5) (fld w 35 5))
      else ∃ d, decode w = .error (.reservedField d)) ∧
  (∀ (s : State) (c : Nat) (st : Stream) (g : Guard) (d a b : BitVec 5), s.runs c st g [a, b] [d] = true →
    let x := (s.seq c st).rx a
    let y := (s.seq c st).rx b
    let put (v : Word) : Out := .next (s.putX c st d v)
    let n := y.toNat % 64
    exec (.add g d a b) s = put (x + y) ∧ exec (.sub g d a b) s = put (x - y) ∧ exec (.and g d a b) s = put (x &&& y) ∧
    exec (.or g d a b) s = put (x ||| y) ∧ exec (.xor g d a b) s = put (x ^^^ y) ∧ exec (.shl g d a b) s = put (x <<< n) ∧
    exec (.shr g d a b) s = put (x >>> n) ∧ exec (.sar g d a b) s = put (x.sshiftRight n) ∧ exec (.mul g d a b) s = put (x * y) ∧
    exec (.mulhu g d a b) s = put (BitVec.ofNat 64 (x.toNat * y.toNat / 2 ^ 64)) ∧
    exec (.mulhs g d a b) s = put (BitVec.ofInt 64 (x.toInt * y.toInt / 2 ^ 64)) ∧
    exec (.divu g d a b) s = put (if y = 0 then BitVec.allOnes 64 else x / y) ∧
    exec (.remu g d a b) s = put (if y = 0 then x else x % y) ∧
    exec (.min g d a b) s = put (if x.toInt ≤ y.toInt then x else y) ∧
    exec (.max g d a b) s = put (if x.toInt ≤ y.toInt then y else x) ∧
    exec (.minu g d a b) s = put (if x ≤ y then x else y) ∧ exec (.maxu g d a b) s = put (if x ≤ y then y else x)) ∧
  (∀ (s : State) (c : Nat) (st : Stream) (g : Guard) (d a b : BitVec 5) (m : Mark), s.turnOf c st = true → g.boost = 0 →
    (s.seq c st).rp g.gp ≠ g.gn → (st = .x → (s.ctx c).boost.entries = []) → (∀ r, owed (s.seq c st) r = false) →
    engineBusy (s.ctx c) st [a, b] [d] = false → markOf (s.seq c st) [a, b] = some m →
    ∀ i ∈ [Instr.add g d a b, .sub g d a b, .and g d a b, .or g d a b, .xor g d a b, .shl g d a b, .shr g d a b, .sar g d a b,
      .mul g d a b, .mulhu g d a b, .mulhs g d a b, .divu g d a b, .remu g d a b, .min g d a b, .max g d a b, .minu g d a b, .maxu g d a b],
      exec i s = .next (s.trapAt c st i { code := 0x1C, addr := m.addr }))

/-- The single-operand, field and immediate instructions of R109 and R110: a field is extracted bit by bit, with the bits above it
0 or copies of its top bit, and inserted bit by bit; a POS and
LEN outside the register are a reserved field with DETAIL 0. -/
def Obligations.ScalarFields : Prop :=
  (∀ w : Word,
    let g := guardOf w
    let d := fld w 45 5
    let a := fld w 40 5
    let o := (fld w 56 8).toNat
    let sub := (fld w 32 3).toNat
    let ok : Prop := fld w 54 2 ≠ 3 ∧ fld w 35 5 = 0
    let pos := (fld w 0 6).toNat
    let len := (fld w 6 7).toNat
    let legal : Prop := fld w 14 18 = 0 ∧ 1 ≤ len ∧ len ≤ 64 ∧ pos + len ≤ 64
    let reserved : Prop := ∃ d, decode w = .error (.reservedField d)
    (o = 0x03 → sub = 0 → if ok ∧ fld w 0 32 = 0 then decode w = .ok (.clz g d a) else reserved) ∧
    (o = 0x03 → sub = 1 → if ok ∧ fld w 0 32 = 0 then decode w = .ok (.popc g d a) else reserved) ∧
    (o = 0x03 → sub = 2 → if ok ∧ legal then decode w = .ok (.bfx g d a (fld w 0 6) (fld w 6 7) (bit w 13)) else reserved) ∧
    (o = 0x03 → sub = 3 → if ok ∧ legal ∧ bit w 13 = false then decode w = .ok (.bfi g d a (fld w 0 6) (fld w 6 7)) else reserved) ∧
    (o = 0x03 → ok → (sub = 2 ∧ ¬legal) ∨ (sub = 3 ∧ ¬(legal ∧ bit w 13 = false)) → reservedDetail w = some 0) ∧
    (o = 0x0A → sub = 0 → if ok ∧ fld w 0 32 = 0 then decode w = .ok (.mov g d a) else reserved)) ∧
  (∀ (s : State) (c : Nat) (st : Stream) (g : Guard) (d a : BitVec 5) (imm : BitVec 32) (pos : BitVec 6) (len : BitVec 7) (sx : Bool),
    (s.runs c st g [a] [d] = true →
      let x := (s.seq c st).rx a
      let put (v : Word) : Out := .next (s.putX c st d v)
      (∃ n : Nat, exec (.clz g d a) s = put (BitVec.ofNat 64 n) ∧ n ≤ 64 ∧ (∀ i, 64 - n ≤ i → x.getLsbD i = false) ∧
        (n < 64 → x.getLsbD (63 - n) = true)) ∧
      exec (.popc g d a) s = put (BitVec.ofNat 64 ((List.range 64).countP fun i => x.getLsbD i)) ∧
      (badPosLen pos len = false → ∃ v : Word, exec (.bfx g d a pos len sx) s = put v ∧
        (∀ i < len.toNat, v.getLsbD i = x.getLsbD (pos.toNat + i)) ∧
        (∀ i < 64, len.toNat ≤ i → v.getLsbD i = (sx && x.getLsbD (pos.toNat + len.toNat - 1)))) ∧
      exec (.mov g d a) s = put x ∧ exec (.addi g d a imm) s = put (x + imm.signExtend 64) ∧
      exec (.andi g d a imm) s = put (x &&& imm.signExtend 64) ∧ exec (.ori g d a imm) s = put (x ||| imm.zeroExtend 64) ∧
      exec (.xori g d a imm) s = put (x ^^^ imm.zeroExtend 64) ∧
      exec (.lih g d a imm) s = put (imm ++ x.extractLsb' 0 32)) ∧
    (s.runs c st g [a, d] [d] = true → badPosLen pos len = false → ∃ v : Word,
      exec (.bfi g d a pos len) s = .next (s.putX c st d v) ∧
      ∀ i < 64, v.getLsbD i = if pos.toNat ≤ i ∧ i < pos.toNat + len.toNat then ((s.seq c st).rx a).getLsbD (i - pos.toNat)
        else ((s.seq c st).rx d).getLsbD i) ∧
    (s.runs c st g [] [d] = true → exec (.li g d imm) s = .next (s.putX c st d (imm.signExtend 64))))

/-- The compares, the predicate logic and SEL (R111 to R113): their encodings, and the predicate or register each writes. SEL writes xD
whichever way its predicate falls. -/
def Obligations.PredicateResults : Prop :=
  (∀ w : Word,
    let g := guardOf w
    let o := (fld w 56 8).toNat
    let sub := (fld w 32 3).toNat
    let pd : BitVec 3 := fld w 45 3
    let a := fld w 40 5
    let b := fld w 35 5
    let level : Prop := fld w 54 2 ≠ 3
    let reserved : Prop := ∃ d, decode w = .error (.reservedField d)
    (∀ p ∈ [(0, Instr.cmpEq), (1, .cmpNe), (2, .cmpLt), (3, .cmpLe), (4, .cmpLtu), (5, .cmpLeu)], o = 0x0C → sub = p.1 →
      if level ∧ fld w 48 2 = 0 ∧ fld w 0 32 = 0 then decode w = .ok (p.2 g pd a b) else reserved) ∧
    (∀ p ∈ [(0, Instr.pand), (1, .por)], o = 0x0D → sub = p.1 →
      if level ∧ fld w 48 2 = 0 ∧ fld w 43 2 = 0 ∧ fld w 38 2 = 0 ∧ fld w 2 30 = 0
      then decode w = .ok (p.2 g pd (fld w 40 3) (fld w 35 3) (bit w 0) (bit w 1)) else reserved) ∧
    (o = 0x0D → sub = 2 → if level ∧ fld w 48 2 = 0 ∧ fld w 43 2 = 0 ∧ b = 0 ∧ fld w 0 32 = 0
      then decode w = .ok (.pnot g pd (fld w 40 3)) else reserved) ∧
    (o = 0x0B → sub = 0 → if level ∧ fld w 4 28 = 0 then decode w = .ok (.sel g (fld w 45 5) a b (fld w 0 3) (bit w 3)) else reserved) ∧
    (o = 0x0C → 5 < sub → reserved) ∧ (o = 0x0D → 2 < sub → reserved) ∧ (o = 0x0B → sub ≠ 0 → reserved)) ∧
  (∀ (s : State) (c : Nat) (st : Stream) (g : Guard) (pd pa pb : BitVec 3) (d a b : BitVec 5) (na nb : Bool),
    let x := (s.seq c st).rx a
    let y := (s.seq c st).rx b
    let p := (s.seq c st).rp pa
    let r := (s.seq c st).rp pb
    let put (v : Bool) : Out := .next (s.putP c st pd v)
    (s.runs c st g [a, b] [] = true →
      exec (.cmpEq g pd a b) s = put (decide (x = y)) ∧ exec (.cmpNe g pd a b) s = put (decide (x ≠ y)) ∧
      exec (.cmpLt g pd a b) s = put (decide (x.toInt < y.toInt)) ∧ exec (.cmpLe g pd a b) s = put (decide (x.toInt ≤ y.toInt)) ∧
      exec (.cmpLtu g pd a b) s = put (decide (x < y)) ∧ exec (.cmpLeu g pd a b) s = put (decide (x ≤ y))) ∧
    (s.runs c st g [] [] = true →
      exec (.pand g pd pa pb na nb) s = put ((p ^^ na) && (r ^^ nb)) ∧ exec (.por g pd pa pb na nb) s = put ((p ^^ na) || (r ^^ nb)) ∧
      exec (.pnot g pd pa) s = put (!p)) ∧
    (s.runs c st g [a, b] [d] = true → exec (.sel g d a b pa na) s = .next (s.putX c st d (if p ^^ na then x else y))))

/-- The frame of the scalar and predicate instructions, boosted forms apart: a word that completes changes one sequencer of one
context and nothing else of the machine; there, only its one destination among the x registers and predicates, and no bt register,
queue or breakpoint register; the lc registers only when a loop is active. Every byte of memory reads as before. -/
def Obligations.ScalarFrame : Prop :=
  ∀ (s t : State) (c : Nat) (st : Stream) (g : Guard) (d a b : BitVec 5) (pd pa pb : BitVec 3) (imm : BitVec 32) (na nb : Bool) (i : Instr),
    (s.runs c st g [a, b] [d] = true ∧
      i ∈ [.add g d a b, .sub g d a b, .and g d a b, .or g d a b, .xor g d a b, .shl g d a b, .shr g d a b, .sar g d a b, .mul g d a b,
        .mulhu g d a b, .mulhs g d a b, .divu g d a b, .remu g d a b, .min g d a b, .max g d a b, .minu g d a b, .maxu g d a b,
        .sel g d a b pa na, .clz g d a, .popc g d a, .mov g d a, .addi g d a imm, .andi g d a imm, .ori g d a imm, .xori g d a imm,
        .lih g d a imm, .li g d imm]) ∨
    (s.runs c st g [a, b] [] = true ∧ d = 0 ∧
      i ∈ [.cmpEq g pd a b, .cmpNe g pd a b, .cmpLt g pd a b, .cmpLe g pd a b, .cmpLtu g pd a b, .cmpLeu g pd a b,
        .pand g pd pa pb na nb, .por g pd pa pb na nb, .pnot g pd pa]) →
    exec i s = .next t →
      let q := s.seq c st
      let r := t.seq c st
      (∃ r', t = s.upSeq c st fun _ => r') ∧ (∀ e, e ≠ d → r.rx e = q.rx e) ∧
      ((∀ e, r.rp e = q.rp e) ∨ (d = 0 ∧ ∀ e, e ≠ pd → r.rp e = q.rp e)) ∧
      r.bt = q.bt ∧ r.loadQ = q.loadQ ∧ r.storeQ = q.storeQ ∧ r.bkpt = q.bkpt ∧ r.exited = q.exited ∧ r.micro = q.micro ∧
      (q.loops = [] → r.lc = q.lc) ∧ ∀ key pa, t.homeByte key pa = s.homeByte key pa

/-- A word whose guard is false has no effect but to complete; p0 gives the guards that are always and never false; a predicate is seen by the
next guard (R76). A boosted word reads its sources and its guard through its level and the one below it, and writes the entry of its level, not
the register; a boosted load that would fault poisons its entry (R14, R133, R134). -/
def Obligations.GuardsAndBoost : Prop :=
  (∀ (s : State) (c : Nat) (st : Stream) (g : Guard) (d a b : BitVec 5) (pd pa pb : BitVec 3) (imm : BitVec 32) (pos : BitVec 6) (w : BitVec 2) (scope : BitVec 3)
      (n : BitVec 7) (q0 : BitVec 4) (csr : BitVec 12) (na nb v : Bool),
    (g.gp = 0 → ((s.seq c st).rp g.gp = g.gn ↔ g.gn = true)) ∧ (c < s.ctxs.length → pd ≠ 0 → ((s.putP c st pd v).seq c st).rp pd = v) ∧
    (s.turnOf c st = true → g.boost = 0 → (s.seq c st).rp g.gp = g.gn →
      ∀ i ∈ [Instr.add g d a b, .sub g d a b, .and g d a b, .or g d a b, .xor g d a b, .shl g d a b, .shr g d a b, .sar g d a b, .mul g d a b,
        .mulhu g d a b, .mulhs g d a b, .divu g d a b, .remu g d a b, .min g d a b, .max g d a b, .minu g d a b, .maxu g d a b, .clz g d a,
        .popc g d a, .bfx g d a pos n na, .bfi g d a pos n, .addi g d a imm, .andi g d a imm, .ori g d a imm, .xori g d a imm, .li g d imm,
        .lih g d a imm, .mov g d a, .sel g d a b pa na, .cmpEq g pd a b, .cmpNe g pd a b, .cmpLt g pd a b, .cmpLe g pd a b, .cmpLtu g pd a b,
        .cmpLeu g pd a b, .pand g pd pa pb na nb, .por g pd pa pb na nb, .pnot g pd pa, .pbt g w a imm, .bt g w 0 na pa, .call g d w, .ret g a,
        .loop g w a 0 5, .brk g, .trig g, .exit g, .nop g, .cmtb g, .clrb g, .vany g pd pa pb na, .vall g pd pa pb na, .ld g d a w na nb scope imm,
        .st g a b w na scope imm, .lds g d a w na imm, .sts g a b w imm, .mark g, .fence g scope na, .amoAdd g d a b scope na,
        .amoAnd g d a b scope na, .amoOr g d a b scope na, .amoXor g d a b scope na, .amoMin g d a b scope na, .amoMax g d a b scope na,
        .amoMinu g d a b scope na, .amoMaxu g d a b scope na, .amoSwap g d a b scope na, .cas g d a b scope na, .tkwait g q0 q0 q0, .tkpost g q0,
        .fqpush g d a, .sqpush g d a 0, .ypop g d, .qcancel g d a, .barInit g n 1, .barArv g d n, .barExp g d a n na, .barWait g a n,
        .barTest g pd a n, .tideRd g d, .regionTimed g 0 na, .tideBase g a, .regionLocked g, .csrr g d csr, .csrw g a csr, .syscInfo g 0,
        .syscLog g, .syscPrefault g, .syscYield g, .trap g imm, .bkpt g imm, .opbind g d a b 0, .twdef g a b 0, .agset g a 0, .spbindIn g 0 0 na 0 0 0 nb,
        .spbindOut g 0 0 0, .spbindOff g 0, .collStart g d a b 0 na], exec i s = .next (s.retire c st))) ∧
  (∀ (s : State) (c : Nat) (g : Guard) (d a b : BitVec 5) (pd pa pb : BitVec 3) (imm : BitVec 32) (pos : BitVec 6) (len : BitVec 7) (u na nb : Bool)
      (w : BitVec 2) (pg key : Nat),
    let k := s.ctx c
    let q := s.seq c .x
    let L := g.boost.toNat
    let named (p : Bool) (r : Nat) : Option Shadow := k.boost.entries.find? fun e => e.lv = L && e.isP = p && e.reg = r
    let below (p : Bool) (r : Nat) : Option Shadow := k.boost.entries.find? fun e => e.lv = 1 && e.isP = p && e.reg = r
    let seen (p : Bool) (r : Nat) : Option Shadow := (named p r).orElse fun _ => below p r
    let x (r : BitVec 5) : Word := if r = 0 then 0 else ((seen false r.toNat).map (·.val)).getD (q.rx r)
    let p (r : BitVec 3) : Bool := if r = 0 then true else ((seen true r.toNat).map fun e => decide (e.val ≠ 0)).getD (q.rp r)
    let writes (i : Instr) (isP : Bool) (r : Nat) (v : Word) : Prop := ∃ t, exec i s = .next t ∧ t.seq c .x = q.retire ∧ t.mem = s.mem ∧
      if r = 0 then (t.ctx c).boost = k.boost else ∃ e, e.lv = L ∧ e.isP = isP ∧ e.reg = r ∧ e.val = v ∧ e.poison = none ∧
        (t.ctx c).boost.entries = e :: k.boost.entries.filter fun o => !(o.lv = L && o.isP = isP && o.reg = r)
    let flag (v : Bool) : Word := if v then 1 else 0
    s.turnOf c .x = true → g.boost = 1 ∨ g.boost = 2 → (∀ e ∈ k.boost.entries, e.poison = none) → (∀ r, owed q r = false) → q.marks = [] →
    (p g.gp = g.gn → ∀ i ∈ [Instr.add g d a b, .cmpEq g pd a b, .mov g d a, .li g d imm, .sel g d a b pa na, .ld g d a w u false 0 imm, .lds g d a w u imm],
      exec i s = .next (s.retire c .x)) ∧
    (p g.gp ≠ g.gn →
      (∀ i ∈ [(Instr.add g d a b, x a + x b), (.sub g d a b, x a - x b), (.and g d a b, x a &&& x b), (.or g d a b, x a ||| x b),
          (.xor g d a b, x a ^^^ x b), (.shl g d a b, x a <<< ((x b).toNat % 64)), (.shr g d a b, x a >>> ((x b).toNat % 64)),
          (.sar g d a b, (x a).sshiftRight ((x b).toNat % 64)), (.mul g d a b, x a * x b),
          (.mulhu g d a b, BitVec.ofNat 64 ((x a).toNat * (x b).toNat / 2 ^ 64)), (.mulhs g d a b, BitVec.ofInt 64 ((x a).toInt * (x b).toInt / 2 ^ 64)),
          (.divu g d a b, if x b = 0 then BitVec.allOnes 64 else x a / x b), (.remu g d a b, if x b = 0 then x a else x a % x b),
          (.min g d a b, if (x a).toInt ≤ (x b).toInt then x a else x b), (.max g d a b, if (x a).toInt ≤ (x b).toInt then x b else x a),
          (.minu g d a b, if x a ≤ x b then x a else x b), (.maxu g d a b, if x a ≤ x b then x b else x a), (.mov g d a, x a),
          (.addi g d a imm, x a + imm.signExtend 64), (.andi g d a imm, x a &&& imm.signExtend 64), (.ori g d a imm, x a ||| imm.zeroExtend 64),
          (.xori g d a imm, x a ^^^ imm.zeroExtend 64), (.lih g d a imm, imm ++ (x a).extractLsb' 0 32), (.li g d imm, imm.signExtend 64),
          (.sel g d a b pa na, if p pa ^^ na then x a else x b)], writes i.1 false d.toNat i.2) ∧
      (∃ v, writes (.clz g d a) false d.toNat v) ∧ (∃ v, writes (.popc g d a) false d.toNat v) ∧
      (badPosLen pos len = false → (∃ v, writes (.bfx g d a pos len u) false d.toNat v) ∧ ∃ v, writes (.bfi g d a pos len) false d.toNat v) ∧
      (∀ i ∈ [(Instr.cmpEq g pd a b, decide (x a = x b)), (.cmpNe g pd a b, decide (x a ≠ x b)), (.cmpLt g pd a b, decide ((x a).toInt < (x b).toInt)),
          (.cmpLe g pd a b, decide ((x a).toInt ≤ (x b).toInt)), (.cmpLtu g pd a b, decide (x a < x b)), (.cmpLeu g pd a b, decide (x a ≤ x b)),
          (.pand g pd pa pb na nb, (p pa ^^ na) && (p pb ^^ nb)), (.por g pd pa pb na nb, (p pa ^^ na) || (p pb ^^ nb)), (.pnot g pd pa, !p pa)],
        writes i.1 true pd.toNat (flag i.2)) ∧
      ((s.checkVa k.core k.vf .rd (x a + imm.signExtend 64) (2 ^ w.toNat)).2 = .ok (pg, key) → ∃ t e, exec (.ld g d a w u false 0 imm) s = .next t ∧
        (t.seq c .x).loadQ = q.loadQ ++ [e] ∧ e.kind = .ld ∧ e.va = x a + imm.signExtend 64 ∧ e.pa = pg ∧ e.reg = d ∧ e.boost = L ∧ (t.seq c .x).x = q.x) ∧
      (∀ e, (s.checkVa k.core k.vf .rd (x a + imm.signExtend 64) (2 ^ w.toNat)).2 = .error e → d ≠ 0 → ∃ t o, exec (.ld g d a w u false 0 imm) s = .next t ∧
        o ∈ (t.ctx c).boost.entries ∧ o.lv = L ∧ o.isP = false ∧ o.reg = d.toNat ∧ o.poison = some e ∧ (t.ctx c).pend = k.pend ∧ (t.seq c .x).x = q.x)))

/-! ## Control flow (R118 to R140) -/

/-- Prepared transfers (R118 to R122): PBT stores base + IMM × 8; BT without boost, CALL and RET leave two slots and then transfer, CALL with
the address after its slots in xD; a BT with COMMIT commits or clears the shadow levels by its direction, and a poisoned commit raises the
recorded fault; after the slots a taken transfer stands at its target, another at the word after them. Inside an active body CALL, RET and
a BT in its last two words raise LOOP_STATE, and a transfer ends the loops whose bodies do not hold its target, with their lc registers as they
were (R126). That BT and CALL take the target that the bt register holds as they issue is the model's choice (log 67). -/
def Obligations.Transfers : Prop :=
  (∀ (s : State) (c : Nat) (st : Stream) (g : Guard) (d a : BitVec 5) (b : BitVec 2) (imm : BitVec 32) (cn : Bool) (cp : BitVec 3),
    let q := s.seq c st
    (s.runs c st g [a] [] = true → ∃ t, exec (.pbt g b a imm) s = .next t ∧
      (t.seq c st).bt = q.bt.set b.toNat ((if a = 0 then q.pc else q.rx a) + imm.signExtend 64 * 8) ∧ (t.seq c st).x = q.x) ∧
    (s.runs c st g [] [] = true → s.noSlot c st = true →
      (inBodyEnd q = false → exec (.bt g b 0 cn cp) s = .next ((s.upSeq c st fun q => { q with
        pc := q.pc + 8
        xfer := some { slots := 2, taken := q.rp cp != cn, target := if q.rp cp != cn then q.bt[b.toNat] else q.pc + 24 } }).retireJump c st)) ∧
      (inBodyEnd q = true → exec (.bt g b 0 cn cp) s =
        .next (s.trapAt c st (.bt g b 0 cn cp) { code := 0x09, addr := wordOf (.bt g b 0 cn cp) }))) ∧
    (s.runs c st g [] [d] = true → s.noSlot c st = true → q.loops = [] → ∃ t, exec (.call g d b) s = .next t ∧
      (t.seq c st).rx d = (if d = 0 then 0 else q.pc + 24) ∧ (t.seq c st).pc = q.pc + 8 ∧
      (t.seq c st).xfer = some { slots := 2, target := q.bt[b.toNat], taken := true }) ∧
    (s.runs c st g [a] [] = true → s.noSlot c st = true → q.loops = [] →
      exec (.ret g a) s = .next ((s.upSeq c st fun q => { q with
        pc := q.pc + 8, xfer := some { slots := 2, target := q.rx a, taken := true } }).retireJump c st)) ∧
    (s.noSlot c st = true → q.loops ≠ [] →
      (s.runs c st g [] [d] = true → exec (.call g d b) s = .next (s.trapAt c st (.call g d b) { code := 0x09, addr := wordOf (.call g d b) })) ∧
      (s.runs c st g [a] [] = true → exec (.ret g a) s = .next (s.trapAt c st (.ret g a) { code := 0x09, addr := wordOf (.ret g a) })))) ∧
  (∀ (s : State) (c : Nat) (g : Guard) (b cm : BitVec 2) (cn : Bool) (cp : BitVec 3), s.turnOf c .x = true → g.boost = 0 →
    (s.seq c .x).rp g.gp ≠ g.gn → s.noSlot c .x = true → inBodyEnd (s.seq c .x) = false → cm = 1 ∨ cm = 2 →
    let k := s.ctx c
    let q := s.seq c .x
    let taken : Bool := q.rp cp != cn
    let commits : Bool := decide (cm = 1) == taken
    let go (u : State) : State := (u.upSeq c .x fun q => { q with
      pc := q.pc + 8, xfer := some { slots := 2, taken := taken, target := if taken then q.bt[b.toNat] else q.pc + 24 } }).retireJump c .x
    (commits = false → exec (.bt g b cm cn cp) s = .next (go (s.upCtx c Ctx.clearBoost))) ∧
    (commits = true → k.mayCommit = true →
      ∃ k', Committed k k' ∧ exec (.bt g b cm cn cp) s = .next (go (s.upCtx c fun _ => k'))) ∧
    (∀ e x, commits = true → k.boostLoads = false → (k.boost.entries.filter fun o => o.lv = 1 && o.poison.isSome) = [e] → e.poison = some x →
      exec (.bt g b cm cn cp) s = .next (s.trapAt c .x (.bt g b cm cn cp) x))) ∧
  (∀ (q : Seq) (t : Word),
    let p := ({ q with xfer := some { slots := 1, target := t, taken := true } } : Seq).advance
    p.pc = t ∧ p.lc = q.lc ∧ p.loops = q.loops.dropWhile (fun e => !(decide (e.start.toNat ≤ t.toNat) && decide (t.toNat < e.stop.toNat))) ∧
      (p.loops = [] → p.loopBuf = []) ∧ (p.loops ≠ [] → p.loopBuf = q.loopBuf)) ∧
  (∀ (q : Seq) (t : Word), q.loops = [] →
    let p := ({ q with xfer := some { slots := 2, target := t, taken := true } } : Seq).advance
    let n := ({ q with xfer := some { slots := 2, target := t, taken := false } } : Seq).advance
    p.pc = q.pc + 8 ∧ p.advance.pc = t ∧ p.advance.xfer = none ∧ n.advance.pc = q.pc + 16 ∧ n.advance.xfer = none)

/-- LOOP and BRK (R124 to R127): the count and the body are entered, a count of 0 skips the body, a count of 2^32 or more raises LOOP_COUNT
with the count in FAULTADDR, BRK leaves the innermost body; the word before the end passes back to the start with one trip less while
trips remain. -/
def Obligations.Loops : Prop :=
  (∀ (s : State) (c : Nat) (st : Stream) (g : Guard) (ld : BitVec 2) (a : BitVec 5) (icount : BitVec 23) (len : BitVec 9),
    let q := s.seq c st
    let n := if a = 0 then icount.toNat else (q.rx a).toNat
    let stop := q.pc + 8 + BitVec.ofNat 64 (8 * len.toNat)
    (s.runs c st g [a] [] = true → s.noSlot c st = true → q.loops = [] →
      (0 < n → n < 2 ^ 32 → ∃ t, exec (.loop g ld a icount len) s = .next t ∧ (t.seq c st).pc = q.pc + 8 ∧
        (t.seq c st).lc = q.lc.set ld.toNat (BitVec.ofNat 32 n) ∧
        (t.seq c st).loops = [{ lc := ld, start := q.pc + 8, stop := stop }] ∧ (t.seq c st).x = q.x) ∧
      (n = 0 → ∃ t, exec (.loop g ld a icount len) s = .next t ∧ (t.seq c st).pc = stop ∧ (t.seq c st).loops = [] ∧
        (t.seq c st).lc = q.lc) ∧
      (2 ^ 32 ≤ n → exec (.loop g ld a icount len) s =
        .next (s.trapAt c st (.loop g ld a icount len) { code := 0x0A, addr := BitVec.ofNat 64 n }))) ∧
    (s.runs c st g [] [] = true → s.noSlot c st = true → ∀ e, q.loops = [e] →
      ∃ t, exec (.brk g) s = .next t ∧ (t.seq c st).pc = e.stop ∧ (t.seq c st).loops = [])) ∧
  (∀ (q : Seq) (e : LoopEntry), q.loops = [e] → q.xfer = none → q.pc + 8 = e.stop → q.lc[e.lc.toNat] ≠ 0 →
    q.advance.lc[e.lc.toNat] = q.lc[e.lc.toNat] - 1 ∧
    (q.lc[e.lc.toNat] ≠ 1 → q.advance.pc = e.start ∧ q.advance.loops = [e]) ∧
    (q.lc[e.lc.toNat] = 1 → q.advance.pc = e.stop ∧ q.advance.loops = []))

/-- NOP, with either guard value (R132); TRIG, EXIT, CMTB, CLRB and the votes (R130, R131, R137, R139): each completes with its effect; CMTB
commits: every register and predicate with a level-1 entry takes its value, and level 2 becomes level 1; where an entry of level 1 is poisoned, its
recorded fault is raised in place of the commit and the stop clears both levels (R134); CLRB clears both levels and changes no register. -/
def Obligations.EndsAndVotes : Prop :=
  (∀ (s : State) (c : Nat) (st : Stream) (g : Guard) (pd ma mb : BitVec 3) (masked : Bool), s.runs c st g [] [] = true →
    let k := s.ctx c
    let q := s.seq c st
    let on (i : Nat) : Bool := !masked || k.mbit mb.toNat i
    exec (.nop g) s = .next (s.retire c st) ∧
    (s.quiet c st = true → s.ownHome c st 3 = true → ∃ t, exec (.trig g) s = .next t ∧ (t.ctx c).iter = k.iter.map (fun it => { it with trig := true }) ∧
      (t.seq c st).x = q.x) ∧
    (s.noSlot c st = true → q.loadQ = [] → q.marks = [] → k.region = none →
      ∃ t, exec (.exit g) s = .next t ∧ (t.seq c st).exited = true ∧ (t.seq c st).x = q.x ∧ t.mem = s.mem) ∧
    (k.mayCommit = true → ∃ k', Committed k k' ∧ exec (.cmtb g) s = .next ((s.upCtx c fun _ => k').retire c st)) ∧
    exec (.clrb g) s = .next ((s.upCtx c Ctx.clearBoost).retire c st) ∧
    (predBusy k ma = false → predBusy k mb = false →
      exec (.vany g pd ma mb masked) s = .next (s.putP c st pd ((List.range k.velems).any fun i => on i && k.mbit ma.toNat i)) ∧
      exec (.vall g pd ma mb masked) s = .next (s.putP c st pd ((List.range k.velems).all fun i => !on i || k.mbit ma.toNat i)))) ∧
  (∀ (s : State) (c : Nat) (g : Guard), s.turnOf c .x = true → g.boost = 0 → (s.seq c .x).rp g.gp ≠ g.gn →
    let k := s.ctx c
    let cleared := s.upCtx c Ctx.clearBoost
    (k.mayCommit = true → ∃ k', Committed k k' ∧ exec (.cmtb g) s = .next ((s.upCtx c fun _ => k').retire c .x)) ∧
    (∀ e x, k.boostLoads = false → (k.boost.entries.filter fun o => o.lv = 1 && o.poison.isSome) = [e] → e.poison = some x →
      let f := s.trapAt c .x (.cmtb g) x
      exec (.cmtb g) s = .next f ∧ (k.run = .running → k.pend = [] → x.code ≠ 0 →
        ∃ u, exec (.faultStop c) { f with tide := s.tide + 1 } = .next u ∧ (u.ctx c).run = .stopping ∧ (u.ctx c).boost.entries = [])) ∧
    exec (.clrb g) s = .next (cleared.retire c .x) ∧ (cleared.ctx c).boost.entries = [] ∧ (cleared.seq c .x).x = (s.seq c .x).x ∧
      (cleared.seq c .x).p = (s.seq c .x).p ∧ (cleared.ctx c).boostLoads = false) ∧
  (∀ w : Word, (fld w 56 8).toNat = 0x28 → if fld w 54 2 = 0 ∧ fld w 0 50 = 0 then decode w = .ok (.nop (guardOf w)) else ∃ e, decode w = .error e) ∧
  (decode 0x2800000000000000 = .ok (.nop { boost := 0, gn := false, gp := 0 }) ∧
    ∀ (s : State) (c : Nat) (st : Stream) (g : Guard), s.turnOf c st = true → g.boost = 0 →
      exec (.nop g) s = .next (s.retire c st))

/-! ## Loads, stores and atomics (R143 to R152, R287 to R298) -/

/-- LD, ST, AMO and CAS whose address passes R144 enter their queues in program order, with the physical address found, and complete as words;
the registers keep their values until the access performs (R146, R147, R151, R152, R288). An address above bit 55 raises ADDR_RANGE, then a
misaligned one MISALIGNED, then one that no translation serves, or whose leaf lacks the right that the access needs, XLATE_FAULT, then one that
its target refuses ACCESS_DENIED, each precise, with the address in FAULTADDR. -/
def Obligations.MemoryIssue : Prop :=
  (∀ (s : State) (c : Nat) (st : Stream) (g : Guard) (d a b : BitVec 5) (w : BitVec 2) (u ord w64 : Bool) (scope : BitVec 3)
    (imm : BitVec 32) (pa key : Nat),
    let k := s.ctx c
    let q := s.seq c st
    let va := q.rx a + imm.signExtend 64
    let n := if w64 then 8 else 4
    (s.runs c st g [a] [d] = true → (s.checkVa k.core k.vf .rd va (2 ^ w.toNat)).2 = .ok (pa, key) →
      ∃ t e, exec (.ld g d a w u ord scope imm) s = .next t ∧ (t.seq c st).loadQ = q.loadQ ++ [e] ∧ (t.seq c st).x = q.x ∧
        (t.seq c st).storeQ = q.storeQ ∧
        e = { ord := q.ord, kind := .ld, va := va, pa := pa, len := 2 ^ w.toNat, key := key, reg := d, ext := u, ordered := ord,
              scope := (k.effScope scope.toNat).1 }) ∧
    (s.runs c st g [a, b] [] = true → (s.checkVa k.core k.vf .wr va (2 ^ w.toNat)).2 = .ok (pa, key) →
      ∃ t e, exec (.st g a b w ord scope imm) s = .next t ∧ (t.seq c st).storeQ = q.storeQ ++ [e] ∧ (t.seq c st).x = q.x ∧
        (t.seq c st).loadQ = q.loadQ ∧
        e = { ord := q.ord, kind := .st, va := va, pa := pa, len := 2 ^ w.toNat, key := key, ordered := ord,
              scope := (k.effScope scope.toNat).1, data := q.rx b }) ∧
    (s.runs c st g [a, b, d] [d] = true → (s.checkVa k.core k.vf .both (q.rx a) n).2 = .ok (pa, key) →
      ∀ p ∈ [(Instr.amoAdd g d a b scope w64, QKind.amo 0), (.amoAnd g d a b scope w64, .amo 1), (.amoOr g d a b scope w64, .amo 2),
          (.amoXor g d a b scope w64, .amo 3), (.amoMin g d a b scope w64, .amo 4), (.amoMax g d a b scope w64, .amo 5),
          (.amoMinu g d a b scope w64, .amo 6), (.amoMaxu g d a b scope w64, .amo 7), (.amoSwap g d a b scope w64, .swap),
          (.cas g d a b scope w64, .cas)],
        ∃ t e, exec p.1 s = .next t ∧ (t.seq c st).storeQ = q.storeQ ++ [e] ∧ (t.seq c st).loadQ = q.loadQ ++ [e] ∧
          (t.seq c st).x = q.x ∧
          e = { ord := q.ord, kind := p.2, va := q.rx a, pa := pa, len := n, key := key, reg := d, ordered := true,
                scope := (k.effScope scope.toNat).1, data := q.rx b, old := q.rx d })) ∧
  (∀ (s : State) (c : Nat) (st : Stream) (g : Guard) (d a b : BitVec 5) (w : BitVec 2) (u acq : Bool) (scope : BitVec 3) (imm : BitVec 32),
    let va := (s.seq c st).rx a + imm.signExtend 64
    let e : Cause := { code := if bitsN va 63 56 ≠ 0 then 0x18 else 0x19, addr := va }
    bitsN va 63 56 ≠ 0 ∨ va.toNat % 2 ^ w.toNat ≠ 0 →
    (s.runs c st g [a] [d] = true →
      exec (.ld g d a w u acq scope imm) s = .next (s.trapAt c st (.ld g d a w u acq scope imm) e)) ∧
    (s.runs c st g [a, b] [] = true →
      exec (.st g a b w acq scope imm) s = .next (s.trapAt c st (.st g a b w acq scope imm) e))) ∧
  (∀ (s : State) (c : Nat) (st : Stream) (g : Guard) (d a b : BitVec 5) (w : BitVec 2) (u ord w64 : Bool) (scope : BitVec 3) (imm : BitVec 32)
    (i : Instr) (need : Need) (va : Word) (n : Nat),
    let k := s.ctx c
    let q := s.seq c st
    let amo : List Instr := [.amoAdd g d a b scope w64, .amoAnd g d a b scope w64, .amoOr g d a b scope w64, .amoXor g d a b scope w64,
      .amoMin g d a b scope w64, .amoMax g d a b scope w64, .amoMinu g d a b scope w64, .amoMaxu g d a b scope w64, .amoSwap g d a b scope w64,
      .cas g d a b scope w64]
    (i = .ld g d a w u ord scope imm ∧ s.runs c st g [a] [d] = true ∧ need = .rd ∧ va = q.rx a + imm.signExtend 64 ∧ n = 2 ^ w.toNat) ∨
      (i = .st g a b w ord scope imm ∧ s.runs c st g [a, b] [] = true ∧ need = .wr ∧ va = q.rx a + imm.signExtend 64 ∧ n = 2 ^ w.toNat) ∨
      (i ∈ amo ∧ s.runs c st g [a, b, d] [d] = true ∧ need = .both ∧ va = q.rx a ∧ n = if w64 then 8 else 4) →
    (bitsN va 63 56 ≠ 0 ∨ va.toNat % n ≠ 0 →
      exec i s = .next (s.trapAt c st i { code := if bitsN va 63 56 ≠ 0 then 0x18 else 0x19, addr := va })) ∧
    (bitsN va 63 56 = 0 → va.toNat % n = 0 →
      ((∀ m, k.core = some m → ∀ e ∈ (s.core m).tlb, e.hit k.vf va.toNat need = false) →
        (∃ bad l t, s.walk k.vf va.toNat = .miss bad l t) ∨
          (∃ p e l, s.walk k.vf va.toNat = .leaf p e l ∧ ((need = .rd ∧ e.getLsbD 2 = false) ∨ (need ≠ .rd ∧ e.getLsbD 3 = false))) →
        ∃ u : State, u.ctxs = s.ctxs ∧ exec i s = .next (u.trapAt c st i { code := 0x1A, addr := va, wr := decide (need ≠ .rd) })) ∧
      (∀ u pa key, s.translate k.core k.vf va.toNat need = (u, some (pa, key)) → u.targetPass k.vf 4 key need pa = false →
        exec i s = .next ((u.logDenied k.vf 4 key need pa).trapAt c st i { code := 0x1B, addr := va }))))

/-- LDS and STS (R24, R148): inside the allotment and aligned they enter their queues with the physical offset; an offset of 2^24 or more raises
ALLOT_RANGE, then a misaligned one MISALIGNED, then one outside the allotment ALLOT_RANGE, each precise. MARK stands in both queues (R149).
FENCE, once its stream's accesses have performed, no store of the core lies in a line that another context has pinned, no write to another module
awaits its acknowledgement and no channel is in a hold, completes: at CORE
scope nothing else changes but the count of a clamp; at DIE or wider every store of its stream goes home, with ENG every store of the
context's engines and copies too, and at MODULE or wider the die's copies of the function are dropped (R150, R289, R297). MARK and FENCE
raise the oldest marked load first (R145). -/
def Obligations.ScratchpadAndFence : Prop :=
  ∀ (s : State) (c : Nat) (st : Stream) (g : Guard) (d a b : BitVec 5) (w : BitVec 2) (u eng : Bool) (scope : BitVec 3) (imm : BitVec 32),
    let k := s.ctx c
    let q := s.seq c st
    let o := q.rx a + imm.signExtend 64
    let n := 2 ^ w.toNat
    let p := k.baseBlk * 16384 + o.toNat
    let range : Cause := { code := 0x1D, addr := kindAddr 1 o.toNat }
    let bad : Option Cause := if 2 ^ 24 ≤ o.toNat then some range else if o.toNat % n ≠ 0 then some { code := 0x19, addr := o }
      else if k.endBlk * 16384 < p + n then some range else none
    let marked (m : Mark) : Cause := { code := 0x1C, addr := m.addr }
    let e := k.effScope scope.toNat
    (s.runs c st g [a] [d] = true →
      (bad = none → exec (.lds g d a w u imm) s = .next ((s.upSeq c st fun q => { q with
        loadQ := q.loadQ ++ [{ ord := q.ord, kind := .lds, va := o, pa := p, len := n, ext := u, reg := d }] }).retire c st)) ∧
      ∀ x, bad = some x → exec (.lds g d a w u imm) s = .next (s.trapAt c st (.lds g d a w u imm) x)) ∧
    (s.runs c st g [a, b] [] = true →
      (bad = none → exec (.sts g a b w imm) s = .next ((s.upSeq c st fun q => { q with
        storeQ := q.storeQ ++ [{ ord := q.ord, kind := .sts, va := o, pa := p, len := n, data := q.rx b }] }).retire c st)) ∧
      ∀ x, bad = some x → exec (.sts g a b w imm) s = .next (s.trapAt c st (.sts g a b w imm) x)) ∧
    (s.runs c st g [] [] = true →
      (q.marks = [] → exec (.mark g) s = .next ((s.upSeq c st fun q => { q with
        loadQ := q.loadQ ++ [{ ord := q.ord, kind := .mark }], storeQ := q.storeQ ++ [{ ord := q.ord, kind := .mark }] }).retire c st)) ∧
      (∀ m, oldestMark q.marks = some m → exec (.mark g) s = .next (s.trapAt c st (.mark g) (marked m)) ∧
        (s.quiet c st = true → exec (.fence g scope eng) s = .next (s.trapAt c st (.fence g scope eng) (marked m)))) ∧
      (s.quiet c st = true → q.marks = [] →
        (e.1 = 0 → exec (.fence g scope eng) s = .next ((s.upCtx c fun k => k.countClamp e.2).retire c st)) ∧
        (1 ≤ e.1 → s.reqs = [] → s.holds = [] → (∀ x ∈ (s.core k.coreNo).stores, ∀ y ∈ (s.core k.coreNo).pins, y.ctx = c ∨ x.inLine y.line = false) →
          ∃ t, exec (.fence g scope eng) s = .next t ∧ t.seq c st = q.retire ∧
            (∀ x ∈ (t.core k.coreNo).stores, x.ctx = c → x.ag ≠ some st ∧ (eng = true → x.ag ≠ none)) ∧
            (3 ≤ e.1 → ∀ r ∈ t.rdc, ¬(r.die = dieOf k.coreNo ∧ r.vf = k.vf)))))

/-- The data of a load returns to its register (R146, R148): from the scratchpad, or from device memory at home on the core's own die,
when no earlier access stands before it. The entry leaves the queue. When an entry performs, the spec leaves open (log 2). -/
def Obligations.LoadReturns : Prop :=
  ∀ (s : State) (c : Nat) (st : Stream) (e : QEntry) (rest : List QEntry), c < s.ctxs.length → (s.ctx c).alive = true →
    (s.seq c st).loadQ = e :: rest → (s.seq c st).storeQ = [] → (∀ x ∈ rest, x.ord ≠ e.ord) → e.refused = false → e.reg ≠ 0 → e.boost = 0 →
    let core := (s.ctx c).coreNo
    (e.kind = .lds → ∃ t, exec (.loadReturn c st) s = .next t ∧
      (t.seq c st).rx e.reg = loadValue e.ext (sbytes (s.core core).spad e.pa e.len) ∧ (t.seq c st).loadQ = rest ∧ t.mem = s.mem) ∧
    (e.kind = .ld → e.ordered = false → isDevice e.pa = true → homeDie e.pa = dieOf core → s.uncorr = [] → s.netBad = false → s.holds = [] →
      (s.core core).stores = [] → s.pinnedElsewhere core e.pa = false →
      ∃ t, exec (.loadReturn c st) s = .next t ∧ (t.seq c st).rx e.reg = loadValue e.ext (s.homeBytes e.key e.pa e.len) ∧
        (t.seq c st).loadQ = rest ∧ t.mem = s.mem)

/-- A store of the scratchpad performs on its bytes alone, and one of memory at CORE scope before it reaches its home; there its bytes
read as stored under its key, and every byte outside them as before (R148, R287, R352). When a store reaches its home, the spec leaves
open (log 65). -/
def Obligations.Stores : Prop :=
  (∀ (s : State) (c : Nat) (st : Stream) (e : QEntry) (rest : List QEntry), c < s.ctxs.length → (s.ctx c).alive = true →
    (s.ctx c).coreNo < 128 → (s.seq c st).storeQ = e :: rest → (s.seq c st).loadQ = [] → (∀ x ∈ rest, x.ord ≠ e.ord) → e.refused = false →
    let core := (s.ctx c).coreNo
    (e.kind = .sts → ∃ t, exec (.accessPerform (.core c st)) s = .next t ∧ (t.seq c st).storeQ = rest ∧ t.mem = s.mem ∧
      (∀ i < e.len, sget 0 (t.core core).spad (e.pa + i) = BitVec.ofNat 8 (e.data.toNat / 256 ^ i)) ∧
      (∀ o, o < e.pa ∨ e.pa + e.len ≤ o → sget 0 (t.core core).spad o = sget 0 (s.core core).spad o)) ∧
    (e.kind = .st → e.ordered = false → isDevice e.pa = true → s.pinnedElsewhere core e.pa = false →
      ∃ t, exec (.accessPerform (.core c st)) s = .next t ∧ (t.seq c st).storeQ = rest ∧ t.mem = s.mem ∧
        (t.core core).stores = (s.core core).stores ++
          [{ ctx := c, ag := some st, seen := [], pa := e.pa, bytes := natBytes e.data.toNat e.len, key := e.key, va := e.va }])) ∧
  (∀ (s : State) (core : Nat) (e : CStore) (rest : List CStore), core < 128 → (s.core core).stores = e :: rest → (s.core core).pins = [] →
    s.holds = [] → s.uncorr = [] → s.netBad = false → isDevice e.pa = true → s.keyAt e.key ≠ 0 →
    ∃ t, exec (.accessPerform (.home core 0)) s = .next t ∧ (t.core core).stores = rest ∧
      (∀ i < e.bytes.length, t.homeByte e.key (e.pa + i) = e.bytes.getD i 0) ∧
      ∀ a, a < e.pa ∨ e.pa + e.bytes.length ≤ a → t.homeByte e.key a = s.homeByte e.key a)

/-- An atomic at the head of both queues, at DIE scope or wider on its own die's memory: xD takes the old value, and the new value, by R151 and
R152 at its width, stands at the home (R294). -/
def Obligations.Atomics : Prop :=
  (∀ (s : State) (c : Nat) (st : Stream) (e : QEntry), c < s.ctxs.length → (s.ctx c).alive = true → (s.ctx c).coreNo < 128 →
    (s.seq c st).loadQ = [e] → (s.seq c st).storeQ = [e] → e.refused = false → e.reg ≠ 0 → e.len = 4 ∨ e.len = 8 →
    (∃ n < 8, e.kind = .amo n) ∨ e.kind = .swap ∨ e.kind = .cas → 1 ≤ e.scope → s.keyAt e.key ≠ 0 → isDevice e.pa = true → homeDie e.pa = dieOf (s.ctx c).coreNo →
    s.uncorr = [] → s.netBad = false → s.holds = [] → s.reqs = [] → (∀ n < 128, (s.core n).stores = [] ∧ (s.core n).pins = []) →
    let old := leNat (s.homeBytes e.key e.pa e.len)
    ∃ t, exec (.loadReturn c st) s = .next t ∧ (t.seq c st).rx e.reg = BitVec.ofNat 64 old ∧ (t.seq c st).loadQ = [] ∧
      (t.seq c st).storeQ = [] ∧
      leNat (t.homeBytes e.key e.pa e.len) =
        (atomicNew e.kind (8 * e.len) old (e.data.toNat % 2 ^ (8 * e.len)) (e.old.toNat % 2 ^ (8 * e.len))).getD old) ∧
  (∀ (w64 : Bool) (old opd expect : Nat), let w := if w64 then 64 else 32
    old < 2 ^ w → opd < 2 ^ w → expect < 2 ^ w →
    let x := BitVec.ofNat w old
    let y := BitVec.ofNat w opd
    atomicNew (.amo 0) w old opd expect = some (x + y).toNat ∧ atomicNew (.amo 1) w old opd expect = some (x &&& y).toNat ∧
    atomicNew (.amo 2) w old opd expect = some (x ||| y).toNat ∧ atomicNew (.amo 3) w old opd expect = some (x ^^^ y).toNat ∧
    atomicNew (.amo 4) w old opd expect = some (if x.toInt < y.toInt then old else opd) ∧
    atomicNew (.amo 5) w old opd expect = some (if x.toInt < y.toInt then opd else old) ∧
    atomicNew (.amo 6) w old opd expect = some (min old opd) ∧ atomicNew (.amo 7) w old opd expect = some (max old opd) ∧
    atomicNew .swap w old opd expect = some opd ∧ atomicNew .cas w old opd expect = if old = expect then some opd else none)

/-- A refused access retries 64 cycles later and performs once the pin is gone; a pin ends 65,536 cycles after it was made; a line
may leave a die's remote-data cache (R295 to R297). -/
def Obligations.PinsAndCopies : Prop :=
  ∀ (s : State) (c : Nat) (st : Stream) (e : QEntry) (core die line : Nat) (p : Pin),
    (c < s.ctxs.length → (s.ctx c).coreNo < 128 → (s.seq c st).loadQ = [] → (s.seq c st).storeQ = [e] → e.refused = true →
      e.since + 64 ≤ s.tide → e.kind = .st → e.ordered = false → isDevice e.pa = true → s.holds = [] →
      (s.pinnedElsewhere (s.ctx c).coreNo e.pa = false → ∃ t, exec (.pinRetry c st) s = .next t ∧ (t.seq c st).storeQ = [] ∧
        ((t.core (s.ctx c).coreNo).stores.map (·.bytes)) =
          (s.core (s.ctx c).coreNo).stores.map (·.bytes) ++ [natBytes e.data.toNat e.len]) ∧
      (s.pinnedElsewhere (s.ctx c).coreNo e.pa = true → ∃ t, exec (.pinRetry c st) s = .next t ∧
        (t.seq c st).storeQ = [{ e with since := s.tide }])) ∧
    (core < 128 → (s.core core).pins = [p] → p.since + 65536 ≤ s.tide → (s.core core).stores = [] →
      ∃ t, exec (.pinTimeout core p.line) s = .next t ∧ (t.core core).pins = [] ∧ t.mem = s.mem) ∧
    (∃ t, exec (.rdcLineLeave die line) s = .next t ∧ (∀ r ∈ t.rdc, ¬(r.die = die ∧ r.line = line)) ∧ t.mem = s.mem ∧
      ∀ r ∈ s.rdc, ¬(r.die = die ∧ r.line = line) → r ∈ t.rdc)

/-! ## Tokens, queues, barriers and regions (R153 to R171) -/

/-- TKWAIT takes a token of each queue named, two or three of a queue named twice or thrice, once all hold enough, and stands on a take until
then; inside a timed region of the C stream the tokens are held (R29, R31, R153). TKPOST posts one once the stream's accesses have performed, and
stands on a post while the queue holds 63; inside a timed region the post is deferred (R29, R154, R170). -/
def Obligations.TokenWords : Prop :=
  ∀ (s : State) (c : Nat) (st : Stream) (g : Guard) (q0 q1 q2 : BitVec 4), s.runs c st g [] [] = true → (s.ctx c).posts = [] →
    q0.toNat ≤ 12 → q1.toNat ≤ 12 → q2.toNat ≤ 12 →
    let k := s.ctx c
    let qs := ([q0, q1, q2].map (·.toNat)).filter (· ≠ 0)
    let need (q : Nat) : Nat := (qs.filter (· = q)).length
    let i := Instr.tkwait g q0 q1 q2
    ((∀ q ∈ qs, need q ≤ k.tokens q) → ∃ t, exec i s = .next t ∧ t.seq c st = (s.seq c st).retire ∧ t.mem = s.mem ∧
      (∀ q, (t.ctx c).tokens q = k.tokens q - need q) ∧
      (k.region = none ∨ st ≠ .c → (t.ctx c).region = k.region) ∧
      ∀ r, st = .c → k.region = some r → ∃ r', (t.ctx c).region = some r' ∧ r'.held = r.held ++ qs ∧ r'.posts = r.posts) ∧
    (∀ q ∈ qs, k.tokens q < need q → exec i s = .next (s.stand c st i .take)) ∧
    (0 < q0.toNat → s.quiet c st = true →
      (k.region = none ∨ st ≠ .c → k.mayReturn = [] → (s.seq c st).exited = false →
        (k.tokens q0.toNat < 63 → ∃ t, exec (.tkpost g q0) s = .next t ∧ t.seq c st = (s.seq c st).retire ∧
          (t.ctx c).tokens q0.toNat = k.tokens q0.toNat + 1 ∧ ∀ q, q ≠ q0.toNat → (t.ctx c).tokens q = k.tokens q) ∧
        (63 ≤ k.tokens q0.toNat → exec (.tkpost g q0) s = .next (s.stand c st (.tkpost g q0) .post))) ∧
      ∀ r, st = .c → k.region = some r → ∃ t r', exec (.tkpost g q0) s = .next t ∧ t.seq c st = (s.seq c st).retire ∧
        (∀ q, (t.ctx c).tokens q = k.tokens q) ∧ (t.ctx c).region = some r' ∧ r'.posts = r.posts ++ [(q0.toNat, 0)] ∧ r'.held = r.held)

/-- The decoupled queues (R157 to R161): a push takes JNLHEAD as its sequence number and returns it in xD, YPOP pops the oldest
record and stands while there is none, QCANCEL removes what stands at or above a sequence number in any of the four queues and returns how
many; while a word of the C stream may yet pop FQ in its cycle, it waits for that. -/
def Obligations.QueueWords : Prop :=
  ∀ (s : State) (c : Nat) (st : Stream) (g : Guard) (d a : BitVec 5) (n : BitVec 1) (pa key : Nat) (r : Word) (rest : List Word),
    let k := s.ctx c
    let q := s.seq c st
    (s.runs c st g [a] [d] = true → k.jnlRoom = true → d ≠ 0 →
      (k.fq.length < 64 → ∃ t, exec (.fqpush g d a) s = .next t ∧
        (t.ctx c).fq = k.fq ++ [{ word := q.rx a, seq := k.csr.jnlhead.toNat }] ∧ (t.seq c st).rx d = k.csr.jnlhead ∧
        (t.ctx c).csr.jnlhead = k.csr.jnlhead + 1) ∧
      (s.quiet c st = true → (s.checkVa k.core k.vf .rd (q.rx a) 64).2 = .ok (pa, key) → isDevice pa = true → s.uncorr = [] → s.netBad = false → s.holds = [] →
        s.pinnedElsewhere k.coreNo pa = false → k.sq0.length < 16 → k.sq1.length < 16 →
        ∃ t e, exec (.sqpush g d a n) s = .next t ∧ e.seq = k.csr.jnlhead.toNat ∧ (t.seq c st).rx d = k.csr.jnlhead ∧
          (t.ctx c).sq0 = (if n = 0 then k.sq0 ++ [e] else k.sq0) ∧ (t.ctx c).sq1 = (if n = 0 then k.sq1 else k.sq1 ++ [e]))) ∧
    (s.runs c st g [] [d] = true → k.yq = r :: rest → d ≠ 0 →
      ∃ t, exec (.ypop g d) s = .next t ∧ (t.seq c st).rx d = r ∧ (t.ctx c).yq = rest ∧ t.mem = s.mem) ∧
    (s.runs c st g [] [d] = true → k.yq = [] → exec (.ypop g d) s = .next (s.stand c st (.ypop g d) .ypop)) ∧
    (s.runs c st g [a] [d] = true → d ≠ 0 →
      let from' (n : Nat) : Bool := decide ((q.rx a).toNat ≤ n)
      (s.late = true ∨ k.fq = [] ∨ k.eqM ≠ [] ∨ k.seqs.c.exited = true →
        ∃ t, exec (.qcancel g d a) s = .next t ∧ (t.ctx c).fq = k.fq.filter (fun e => !from' e.seq) ∧
          (t.ctx c).sq0 = k.sq0.filter (fun e => !from' e.seq) ∧ (t.ctx c).sq1 = k.sq1.filter (fun e => !from' e.seq) ∧
          (t.ctx c).collq = k.collq.filter (fun e => !from' e.seq) ∧
          (t.seq c st).rx d = BitVec.ofNat 64 ((k.fq.filter fun e => from' e.seq).length + (k.sq0.filter fun e => from' e.seq).length +
            (k.sq1.filter fun e => from' e.seq).length + (k.collq.filter fun e => from' e.seq).length)) ∧
      (s.late = false → k.fq ≠ [] → k.eqM = [] → k.seqs.c.exited = false →
        exec (.qcancel g d a) s = .next (s.stand c st (.qcancel g d a) .cancel)))

/-- TOKEN_DEADLOCK, FQ_LEFTOVER, ITERATION_RETIRE and JNLBASE_APPLY (R155, R8, R9, R33): when their conditions hold, the context as a
whole faults with SOURCE 8; the words left in FQ go; the iteration ends and the launch counts it; JNLBASE takes the value that a CSRW waits to write, and that word completes. -/
def Obligations.ContextEvents : Prop :=
  ∀ (s : State) (c t0 : Nat) (st : Stream) (it : Iter) (l : Launch) (w : Word), c < s.ctxs.length →
    let k := s.ctx c
    (k.deadSince = some t0 → k.standsStill s.tide = true → k.pend = [] → t0 + 4096 ≤ s.tide →
      ∃ t, exec (.tokenDeadlock c) s = .next t ∧ (t.ctx c).csr.faultaddr = 0 ∧
        (t.ctx c).csr.faultcause = BitVec.ofNat 64 (8 * 2 ^ 20 + b2n (s.strict c) * 2 ^ 16 + 0x21) ∧ t.mem = s.mem) ∧
    (k.run = .running → k.allExited = true → k.fq ≠ [] → k.eqM = [] → k.flight = [] →
      ∃ t, exec (.fqLeftover c) s = .next t ∧ (t.ctx c).fq = [] ∧ (t.ctx c).sq0 = k.sq0) ∧
    (k.iter = some it → k.finished = true → k.fq = [] → k.prefetchEvents = 0 → s.reqs = [] → s.launch? it.launch = some l → l.lrec.cohort = 0 →
      ∃ t l', exec (.iterationRetire c) s = .next t ∧ (t.ctx c).iter = none ∧ (t.ctx c).run = .idle ∧
        (t.ctx c).tok = Vector.replicate 13 0 ∧ t.launch? it.launch = some l' ∧ l'.retired = l.retired + 1 ∧ t.mem = s.mem) ∧
    (k.jnlPending = some (st, w) → k.jnlLow = k.csr.jnlhead.toNat →
      ∃ t, exec (.jnlbaseApply c) s = .next t ∧ (t.ctx c).csr.jnlbase = w &&& 0x00FFFFFFFFFF000F ∧ (t.ctx c).jnlPending = none ∧
        (t.ctx c).journal = [] ∧ t.seq c st = (s.seq c st).retire ∧ t.mem = s.mem)

/-- The barriers (R34, R162, R163), for a logical barrier of the allotment: initialisation, arrival and the end of a phase, the TX
change, wait and test. -/
def Obligations.Barriers : Prop :=
  ∀ (s : State) (c : Nat) (st : Stream) (g : Guard) (n : BitVec 7) (expect : BitVec 12) (d a : BitVec 5) (pd : BitVec 3),
    let k := s.ctx c
    let q := s.seq c st
    let p := k.bbase + n.toNat
    let b := vgetD (s.core k.coreNo).bars p Barrier.raw
    let bar (t : State) : Barrier := vgetD (t.core k.coreNo).bars p Barrier.raw
    n.toNat < k.bcount → p < 128 → k.coreNo < 128 →
    (s.runs c st g [] [] = true → (b.init = false ∨ (b.pending = b.expect ∧ b.tx = 0)) →
      ∃ t, exec (.barInit g n expect) s = .next t ∧
        bar t = { init := true, expect := expect.toNat, pending := expect.toNat, tx := 0, phase := false }) ∧
    (b.init = true → d ≠ 0 → s.runs c st g [a] [d] = true →
      (b.pending ≠ 0 → ∃ t, exec (.barArv g d n) s = .next t ∧ (t.seq c st).rx d = (if b.phase then 1 else 0) ∧
        bar t = if b.pending = 1 ∧ b.tx = 0 then { b with pending := b.expect, phase := !b.phase } else { b with pending := b.pending - 1 }) ∧
      (b.pending = 0 → exec (.barArv g d n) s = .next (s.trapAt c st (.barArv g d n) { code := 0x20, addr := kindAddr 3 n.toNat })) ∧
      (2 ≤ b.pending → b.tx = 0 → (q.rx a).toNat < 2 ^ 31 →
        (∃ t, exec (.barExp g d a n false) s = .next t ∧ bar t = { b with tx := (q.rx a).toNat }) ∧
        ∃ t, exec (.barExp g d a n true) s = .next t ∧ (t.seq c st).rx d = (if b.phase then 1 else 0) ∧
          bar t = { b with tx := (q.rx a).toNat, pending := b.pending - 1 }) ∧
      (exec (.barWait g a n) s = if b.phase = bitN (q.rx a) 0 then .next (s.stand c st (.barWait g a n) .other) else .next (s.retire c st)) ∧
      ∃ t, exec (.barTest g pd a n) s = .next t ∧ bar t = b ∧ (pd ≠ 0 → (t.seq c st).rp pd = (b.phase != bitN (q.rx a) 0)))

/-- The tide and timed regions (R164 to R170): TIDE.RD, the opening of a region, from locked mode once the core's engines are drained, and
chained from a region at its base plus LEAD; TIDE.BASE before a stamped word, whose value a region that runs again ignores; the end of a
region, a schedule miss and the restart at Head with a new TIDEBASE. -/
def Obligations.Regions : Prop :=
  ∀ (s : State) (c : Nat) (st : Stream) (g : Guard) (d a : BitVec 5) (lead : BitVec 16) (chain : Bool) (r : Region) (e : EqEntry) (w : Word),
    let k := s.ctx c
    (s.runs c st g [] [d] = true → exec (.tideRd g d) s = .next (s.putX c st d (BitVec.ofNat 64 s.tide))) ∧
    (s.runs c .c g [] [] = true → k.timed = false → s.drained c = true → s.gated = false →
      ∃ t r', exec (.regionTimed g lead chain) s = .next t ∧ (t.ctx c).region = some r' ∧ r'.head = (k.seq .c).pc + 8 ∧
        r'.lead = lead.toNat ∧ r'.held = [] ∧ (t.ctx c).csr.tidebase = BitVec.ofNat 64 (s.tide + lead.toNat) ∧ (t.ctx c).timed = true) ∧
    (s.runs c .c g [] [] = true → k.timed = true → ∃ t r', exec (.regionTimed g lead true) s = .next t ∧ (t.ctx c).region = some r' ∧
      r'.head = (k.seq .c).pc + 8 ∧ r'.lead = lead.toNat ∧ r'.held = [] ∧
      (t.ctx c).csr.tidebase = k.csr.tidebase + BitVec.ofNat 64 lead.toNat ∧ (t.ctx c).timed = true) ∧
    (s.runs c .c g [a] [] = true → k.region = some r →
      (r.sent = false → r.again = true → exec (.tideBase g a) s = .next (s.retire c .c)) ∧
      (r.sent = false → r.again = false → ∃ t, exec (.tideBase g a) s = .next t ∧ (t.ctx c).csr.tidebase = (k.seq .c).rx a ∧ (t.ctx c).region = some r) ∧
      (r.sent = true → exec (.tideBase g a) s = .next (s.trapAt c .c (.tideBase g a) { code := 0x0C, addr := wordOf (.tideBase g a) }))) ∧
    (s.runs c .c g [] [] = true → k.timed = true → s.drained c = true → k.region = some r → r.heldFq = [] → r.posts = [] → k.posts = [] →
      ∃ t, exec (.regionLocked g) s = .next t ∧ (t.ctx c).region = none ∧ (t.ctx c).timed = false ∧ (t.ctx c).tok = k.tok) ∧
    (c < s.ctxs.length → k.run = .running → k.pend = [] → k.region = some r →
      (r.missed = none → r.heldFq = [] → r.held = [] → k.missfault = false → firstOrd (k.late s.tide) = some e → e.left = false →
        ∃ t r', exec (.scheduleMiss c) s = .next t ∧ (t.ctx c).csr.schedmiss = k.csr.schedmiss + 1 ∧ (t.seq c .c).pc = r.head ∧
          (t.ctx c).eqM = k.eqM.filter (·.left) ∧ (t.ctx c).eqV = k.eqV.filter (·.left) ∧ (t.ctx c).eqS = k.eqS.filter (·.left) ∧
          (t.ctx c).region = some r' ∧ r'.missed = some e.word) ∧
      (r.missed = some w → k.flight = [] → s.supplied c w = true →
        ∃ t r', exec (.regionRestart c) s = .next t ∧ (t.ctx c).csr.tidebase = BitVec.ofNat 64 (s.tide + r.lead) ∧
          (t.ctx c).region = some r' ∧ r'.missed = none ∧ r'.head = r.head))

/-! ## System instructions (R172 to R175, R264) -/

/-- CSRR and CSRW (R33, R35, R36, R172): every register of R35 by its number, in a cycle that no CSRW has written; a read-only register keeps
its value, a write-one-to-clear register clears the bits set in xA, VSHAPE takes a legal shape and JNLBASE a legal size, and both refuse another
with RESERVED_FIELD; a write to JNLBASE waits until JNLLOW = JNLHEAD. An ACCSTAT beyond the allotment raises ALLOT_RANGE. -/
def Obligations.ControlRegisters : Prop :=
  ∀ (s : State) (c : Nat) (st : Stream) (g : Guard) (d a : BitVec 5), let k := s.ctx c
    let q := s.seq c st
    let x := q.rx a
    let r := k.csr
    let tile (u : State) (n : Nat) : Tile := vgetD (u.core k.coreNo).tiles (k.abase + n) Tile.zero
    let wrong (n : BitVec 12) : Out := .next (s.trapAt c st (.csrw g a n) { code := 0x02, detail := 0xFD, addr := wordOf (.csrw g a n) })
    (s.runs c st g [] [d] = true → (∀ o, k.csrOld = some o → o.tide ≠ s.tide) →
      (∀ p ∈ [((0x000 : BitVec 12), (BitVec.ofNat 64 (ctxid c) : Word)), (0x001, BitVec.ofNat 64 k.vf), (0x002, r.codebase), (0x003, r.codebound),
          (0x004, r.spbase), (0x005, r.splimit), (0x006, r.accmap), (0x007, r.tidebase), (0x008, r.regmode), (0x009, r.schedmiss), (0x00A, r.vshape),
          (0x00B, r.vctl), (0x00C, r.vstat), (0x00D, r.faultcause), (0x00E, r.faultaddr), (0x010, r.faultpc[0]), (0x011, r.faultpc[1]),
          (0x012, r.faultpc[2]), (0x013, r.faultpc[3]), (0x014, r.jnlbase), (0x015, r.jnlhead), (0x016, BitVec.ofNat 64 k.jnlLow), (0x017, r.capword),
          (0x018, r.tdstat), (0x019, r.scopelimit), (0x01A, r.scopeclamp), (0x01B, r.featmask), (0x01C, r.prio), (0x01D, r.est)],
        exec (.csrr g d p.1) s = .next (s.putX c st d p.2)) ∧
      ∀ i : Nat, i < 32 → let n := BitVec.ofNat 12 (0x020 + i)
        exec (.csrr g d n) s = .next (if i < k.acount then s.putX c st d (s.accstat k.coreNo (k.abase + i))
          else s.trapAt c st (.csrr g d n) { code := 0x1D, addr := kindAddr 2 i })) ∧
    (s.runs c st g [a] [] = true →
      (∀ p ∈ [((0x008 : BitVec 12), { r with regmode := (r.regmode &&& ~~~1) ||| (x &&& 1) }), (0x009, { r with schedmiss := x }),
          (0x00B, { r with vctl := x &&& 1 }), (0x00C, { r with vstat := r.vstat &&& ~~~x }), (0x018, { r with tdstat := x }),
          (0x01A, { r with scopeclamp := x }), (0x01D, { r with est := x })] ++
          ([0x000, 0x001, 0x002, 0x003, 0x004, 0x005, 0x006, 0x007, 0x00D, 0x00E, 0x010, 0x011, 0x012, 0x013, 0x015, 0x016, 0x017, 0x019, 0x01B,
            0x01C] : List (BitVec 12)).map (fun n => (n, r)) ++ if vshapeBad x then [] else [(0x00A, { r with vshape := x &&& 0xFFFFFF })],
        ∃ t, exec (.csrw g a p.1) s = .next t ∧ (t.ctx c).csr = p.2 ∧ t.seq c st = q.retire ∧ t.cores = s.cores ∧ t.mem = s.mem) ∧
      (vshapeBad x = true → exec (.csrw g a 0x00A) s = wrong 0x00A) ∧
      (7 ≤ bitsN x 3 0 → exec (.csrw g a 0x014) s = wrong 0x014) ∧
      (bitsN x 3 0 < 7 → k.jnlLow = r.jnlhead.toNat → ∃ t, exec (.csrw g a 0x014) s = .next t ∧ t.seq c st = q.retire ∧ (t.ctx c).journal = [] ∧
        (t.ctx c).csr = { r with jnlbase := x &&& 0x00FFFFFFFFFF000F } ∧ t.mem = s.mem) ∧
      (bitsN x 3 0 < 7 → k.jnlLow ≠ r.jnlhead.toNat → k.jnlPending = none → ∃ t, exec (.csrw g a 0x014) s = .next t ∧
        (t.ctx c).jnlPending = some (st, x) ∧ (t.ctx c).csr = r ∧ t.seq c st = { q with stall := some (wordOf (.csrw g a 0x014), .other) } ∧ t.mem = s.mem) ∧
      ∀ i : Nat, i < 32 → let n := BitVec.ofNat 12 (0x020 + i)
        (k.acount ≤ i → exec (.csrw g a n) s = .next (s.trapAt c st (.csrw g a n) { code := 0x1D, addr := kindAddr 2 i })) ∧
        (i < k.acount → k.coreNo < 128 → k.abase + i < 32 → ∃ t, exec (.csrw g a n) s = .next t ∧ t.seq c st = q.retire ∧ (t.ctx c).csr = r ∧ t.mem = s.mem ∧
          let w := tile s i
          tile t i = { w with chkerr := w.chkerr && !x.getLsbD 9, depth := w.depth && !x.getLsbD 2, inx := w.inx && !x.getLsbD 1,
                              wovf := w.wovf && !x.getLsbD 0 }))

/-- The services of R173, each completing once its stream's accesses have performed: INFO answers version 1 and the core, an unknown number
all ones; LOG adds the 64 bytes at x10 to the function's log and answers 0, or answers the code of the first cause that its address meets;
PREFAULT answers how many pages it newly maps, none outside the ZEROFILL policy; under it, where one page of a granting range lacks its level-0
entry alone, the lowest free page of the window is filled with zeros under the function's key and the entry takes a leaf with the range's rights
(R359); YIELD answers 0, and a context under DRAIN stops there for its checkpoint. The answers outside ZEROFILL and for an uncorrectable message
are the model's readings (logs 27 and 44). -/
def Obligations.Services : Prop :=
  ∀ (s : State) (c : Nat) (st : Stream) (g : Guard) (n : BitVec 32) (e : Cause) (pa key : Nat),
    s.runs c st g [10, 11, 12, 13] [10, 11] = true → s.quiet c st = true → (s.core (s.ctx c).coreNo).stores = [] →
    (s.core (s.ctx c).coreNo).pins = [] →
    let k := s.ctx c
    let q := s.seq c st
    let core := k.coreNo
    let msg := s.checkVa k.core k.vf .rd (q.rx 10) 64
    (∃ t, exec (.syscInfo g n) s = .next t ∧ (n = 0 → (t.seq c st).rx 10 = 1 ∧ (t.seq c st).rx 11 = BitVec.ofNat 64 (core / 16 * 256 + core % 16)) ∧
      (n ≠ 0 → (t.seq c st).rx 10 = 0xFFFFFFFFFFFFFFFF) ∧ t.mem = s.mem) ∧
    (msg.2 = .error e → ∃ t, exec (.syscLog g) s = .next t ∧ (t.seq c st).rx 10 = BitVec.ofNat 64 e.code ∧ (t.vf k.vf).log = (s.vf k.vf).log) ∧
    (msg.2 = .ok (pa, key) → s.pinnedElsewhere 128 pa = false → isPeer pa = false → s.holds = [] →
      (s.uncorr = [] → s.netBad = false → ∃ t, exec (.syscLog g) s = .next t ∧ (t.seq c st).rx 10 = 0 ∧
        (t.vf k.vf).log = (s.vf k.vf).log ++ [.raw (msg.1.homeBytes key pa 64)]) ∧
      (isDevice pa = true → msg.1.uncorrAt pa 64 = true →
        ∃ t, exec (.syscLog g) s = .next t ∧ (t.seq c st).rx 10 = 0x1C ∧ (t.vf k.vf).log = (s.vf k.vf).log)) ∧
    (∃ t, exec (.syscPrefault g) s = .next t ∧ t.seq c st = (q.wx 10 ((t.seq c st).rx 10)).retire ∧
      (t.seq c st).rx 10 = BitVec.ofNat 64 (s.prefaultRange k.vf (q.rx 10).toNat (q.rx 11).toNat).2 ∧
      ((s.vf k.vf).paging ≠ 1 → (t.seq c st).rx 10 = 0 ∧ t.mem = s.mem) ∧
      (∀ (r : DemandRange) (tb p : Nat),
        let v := s.vf k.vf
        let va := (q.rx 10).toNat
        let used := s.usedRanges k.vf
        v.paging = 1 → v.ranges = [r] → r.rd = true → r.va.toNat % 65536 = 0 → va % 65536 = 0 → q.rx 11 = 65536 →
        r.va.toNat ≤ va → va < r.va.toNat + r.pages * 65536 → s.walk k.vf va = .miss false 0 tb →
        freePages used v.winLimit (used.length + 8) (cdiv v.winBase 65536 * 65536) 1 = [p] → p % 65536 = 0 →
        s.uncorr = [] → s.netBad = false → s.keyAt 4096 ≠ 0 → isDevice tb = true → tb % 256 = 0 → p + 65536 ≤ tb ∨ tb + 256 ≤ p →
        (t.seq c st).rx 10 = 1 ∧ (∀ i < 65536, t.homeByte k.vf (p + i) = 0) ∧
          t.homeBytes 4096 (tb + va / 65536 % 32 * 8) 8 = natBytes (p + 7 + if r.w then 8 else 0) 8)) ∧
    (∃ t, exec (.syscYield g) s = .next t ∧ (t.seq c st).rx 10 = 0 ∧
      (s.draining c = false → (t.ctx c).run = k.run ∧ t.mem = s.mem) ∧
      (s.draining c = true → k.run = .running → k.pend = [] → (t.ctx c).run = .saving))

/-- TRAP and BKPT (R174, R175), in every stream, in a delay slot and in a loop body: TRAP completes and raises SW_TRAP precisely with its IMM in
FAULTADDR; the stream resumes at the word after it, at the destination where it stood in the last slot of a taken transfer, at the start of the
body where it ended a trip, and at the region's Head inside a timed region; BKPT without a debugger does nothing, with one raises BKPT_HIT, and
in shared code BKPT_SHARED. OPBIND (R264) answers 2, 1 or 0 and binds in the last case. -/
def Obligations.TrapsAndBindings : Prop :=
  (∀ (s : State) (c : Nat) (st : Stream) (g : Guard) (imm : BitVec 32), s.runs c st g [] [] = true → (s.ctx c).pend = [] →
    (s.seq c st).exited = false → (s.ctx c).boost.rec1 = none → (s.ctx c).boost.rec2 = none →
    let k := s.ctx c
    let q := s.seq c st
    let word (code : Nat) : Word := BitVec.ofNat 64 (st.code * 2 ^ 20 + 2 ^ 19 + b2n (s.strict c) * 2 ^ 16 + code)
    let back : Word := if st = .c then (k.region.map (·.head)).getD q.advance.pc else q.advance.pc
    let tag : Word := (imm.extractLsb' 0 16).zeroExtend 64
    let stops (i : Instr) (code : Nat) (addr : Word) : Prop := ∃ t, exec i s = .next t ∧ (t.ctx c).csr.faultcause = word code ∧
      (t.ctx c).csr.faultaddr = addr ∧ vgetD (t.ctx c).csr.faultpc st.code 0 = back ∧ t.seq c st = q.retire ∧ t.mem = s.mem
    stops (.trap g imm) 0x40 (imm.zeroExtend 64) ∧
    (s.isShared q.pc.toNat = false → k.dbg = false → exec (.bkpt g imm) s = .next (s.retire c st)) ∧
    (s.isShared q.pc.toNat = false → k.dbg = true → stops (.bkpt g imm) 0x41 tag) ∧
    (s.isShared q.pc.toNat = true → exec (.bkpt g imm) s = .next (s.trapAt c st (.bkpt g imm) { code := 0x42, addr := tag }))) ∧
  (∀ (q : Seq) (e : LoopEntry) (t : Word) (n : Nat) (taken : Bool),
    (q.xfer = none → q.loops = [] → q.advance.pc = q.pc + 8) ∧
    (q.xfer = some { slots := 2, target := t, taken := taken } → q.advance.pc = q.pc + 8) ∧
    (n ≤ 1 → q.xfer = some { slots := n, target := t, taken := true } → q.advance.pc = t) ∧
    (q.xfer = none → q.loops = [e] → q.pc + 8 = e.stop → q.lc[e.lc.toNat] ≠ 1 → q.advance.pc = e.start)) ∧
  (∀ (s : State) (c : Nat) (st : Stream) (g : Guard) (d a b : BitVec 5) (idx : BitVec 6), s.runs c st g [a, b] [d] = true → d ≠ 0 →
    let x := ((s.seq c st).rx a).toNat
    let w := (s.seq c st).rx b
    (s.ctxs.length ≤ x → exec (.opbind g d a b idx) s = .next (s.putX c st d 2)) ∧
    (x < s.ctxs.length → x < 65536 → (s.ctx x).run ≠ .gone → bindingRefused (s.ctx x) w = true →
      exec (.opbind g d a b idx) s = .next (s.putX c st d 1)) ∧
    (x < s.ctxs.length → x < 65536 → (s.ctx x).run ≠ .gone → bindingRefused (s.ctx x) w = false →
      ∃ t, exec (.opbind g d a b idx) s = .next t ∧ (t.seq c st).rx d = 0 ∧
        (t.ctx x).bindNew = (s.ctx x).bindNew ++ [(idx.toNat, if bitN w 63 then w else 0)]))

/-! ## Engine words (R168, R177 to R230, R306) -/

/-- Every engine word, locked: it stands at the end of its engine's queue while that holds a word or a token it needs is lacking, and
the C stream stands while the queue holds 16; a word that pops a format word while FQ is empty is recorded as unissued with
FQ_UNDERFLOW; otherwise it issues at once, taking one token of each queue it names (R179, R180, R306). An operand in an
uncorrectable scratchpad word gives MEM_UNCORR, with the physical offset and bit 63 set in FAULTADDR (R348); that it is recorded as unissued, and
is the last check of the issue, is the model's choice (log 80). An engine takes the head of
its queue as soon as that can issue. -/
def Obligations.EngineWords : Prop :=
  ∀ (s : State) (c : Nat) (i : Instr) (op : EngOp), engineOp i = some op →
    let k := s.ctx c
    let q := s.seq c .c
    let e : EqEntry := { ord := q.ord + 1, instr := i, pc := q.pc, word := wordOf i, mid := none, fword := none, taken := false }
    (s.turnOf c .c = true → s.quiet c .c = true → q.marks = [] → k.region = none →
      (k.eq op.unit ≠ [] → (k.eq op.unit).length < 16 →
        exec i s = .next ((s.upCtx c fun k => k.setEq op.unit (k.eq op.unit ++ [e])).retire c .c)) ∧
      ((k.eq op.unit).length = 16 → exec i s = .next (s.stand c .c i .other)) ∧
      (k.eq op.unit = [] → k.canTake (syncWaits op.y) = false →
        exec i s = .next ((s.upCtx c fun k => k.setEq op.unit [e]).retire c .c))) ∧
    (s.idle c op.y = true → op.pops = true → op.ready s c false = true → k.fq = [] → ∃ t, exec i s = .next t ∧
      t.seq c .c = q.retire ∧ (t.ctx c).csr.faultaddr = 0 ∧
      (t.ctx c).csr.faultcause = BitVec.ofNat 64 (EUnit.source op.unit * 2 ^ 20 + b2n (s.strict c) * 2 ^ 16 + 0x23) ∧
      (t.ctx c).tok = k.tok ∧ (t.ctx c).flight = [] ∧ t.mem = s.mem) ∧
    (∀ (o : Nat) (f : Inflight) (s' : State), s.idle c op.y = true → op.pops = false → op.ready s c false = true →
      op.start s c (Inflight.base e op.unit op.y.pq.toNat s.tide none) = .ok (s', o, f) → ∃ t, exec i s = .next t ∧
        t.seq c .c = q.retire ∧ (t.ctx c).flight = [f] ∧ (t.ctx c).tok = (k.take (syncWaits op.y)).tok ∧
        (t.ctx c).v = k.v ∧ (t.ctx c).m = k.m ∧ t.mem = s.mem) ∧
    (∀ (ws : List Nat) (r : State × Nat × Inflight) (x : Cause),
      let u := s.upCore k.coreNo fun h => { h with spadErr := ws }
      let f := Inflight.base e op.unit op.y.pq.toNat s.tide none
      s.idle c op.y = true → op.pops = false → op.ready u c false = true → op.start u c f = .ok r → u.readBad k (op.reads k f) = some x →
      ∃ t o, exec i u = .next t ∧ t.seq c .c = q.retire ∧ x = { code := 0x1C, addr := BitVec.ofNat 64 (2 ^ 63 + k.baseBlk * 16384 + o) } ∧
        o ∈ op.reads k f ∧ (∃ n ∈ ws, (k.baseBlk * 16384 + o) / 8 = n) ∧ (t.ctx c).csr.faultaddr = x.addr ∧
        (t.ctx c).csr.faultcause = BitVec.ofNat 64 (EUnit.source op.unit * 2 ^ 20 + b2n (s.strict c) * 2 ^ 16 + 0x1C) ∧
        (t.ctx c).tok = k.tok ∧ (t.ctx c).flight = [] ∧ (t.ctx c).v = k.v ∧ t.mem = s.mem) ∧
    (∀ (x : EqEntry) (rest : List EqEntry) (t : State), s.ctxs.length = 1 → k.core.isSome = true → k.eq op.unit = x :: rest → x.instr = i →
      (s.upCtx 0 fun k => k.setEq op.unit rest).issueWord 0 op x = some t → c = 0 → exec (.engineIssue c op.unit) s = .next t)

/-- Moves, bitwise and integer instructions (R210 to R212): the elements that the mask selects take the value computed from those
of VA and VB; every other element and every other register keeps its bytes, and no flag is raised. -/
def Obligations.VectorIntegers : Prop :=
  ∀ (s : State) (c : Nat) (y : Sync) (o : VOp), s.idle c y = true → isVecFmt o.vf.toNat = true → esizeOf o.vf.toNat = (s.ctx c).esize →
    let k := s.ctx c
    let w := fmtWidth o.vf.toNat
    let size := vecSize o.vf.toNat
    let a (j : Nat) : Nat := k.velem o.va.toNat size j
    let b (j : Nat) : Nat := k.velem o.vb.toNat size j
    let top : Int := (2 ^ (w - 1) : Nat)
    let clamp (v : Int) : Nat := intBits w (max (-top) (min (top - 1) v))
    let res (i : Instr) (n : Nat) (g : Nat → Nat) : Prop :=
      VecResult s c .vector i (n + k.ov size) o.vd size (k.selected o.mken o.mm) g 0
    res (.vmov y o) 2 a ∧ res (.vbcast y o) 2 (fun _ => ((k.seq .c).rx o.va).toNat % 2 ^ w) ∧
    res (.vand y o) 2 (fun j => a j &&& b j) ∧ res (.vor y o) 2 (fun j => a j ||| b j) ∧ res (.vxor y o) 2 (fun j => a j ^^^ b j) ∧
    (7 ≤ o.vf.toNat →
      res (.vshl y o) 4 (fun j => a j * 2 ^ b j % 2 ^ w) ∧
      res (.vshr y o) 4 (fun j => if o.md = 1 then intBits w (sInt w (a j) / ((2 ^ b j : Nat) : Int)) else a j / 2 ^ b j) ∧
      (o.md = 0 → res (.viadd y o) 4 (fun j => (a j + b j) % 2 ^ w) ∧ res (.vimul y o) 6 (fun j => a j * b j % 2 ^ w)) ∧
      (o.md = 1 → res (.viadd y o) 4 (fun j => clamp (sInt w (a j) + sInt w (b j))) ∧
        res (.vimul y o) 6 (fun j => clamp (sInt w (a j) * sInt w (b j)))) ∧
      (o.md = 2 → res (.viadd y o) 4 (fun j => min (a j + b j) (2 ^ w - 1)) ∧ res (.vimul y o) 6 (fun j => min (a j * b j) (2 ^ w - 1))) ∧
      (o.md = 3 → res (.vimul y o) 6 (fun j => intBits w (sInt w (a j) * sInt w (b j) / ((2 ^ w : Nat) : Int)))) ∧
      res (.vmin y o) 4 (fun j => if o.md = 1 then min (a j) (b j) else if sInt w (a j) < sInt w (b j) then a j else b j) ∧
      res (.vmax y o) 4 (fun j => if o.md = 1 then max (a j) (b j) else if sInt w (a j) < sInt w (b j) then b j else a j) ∧
      res (.vabs y o) 2 (fun j => let v : Int := (sInt w (a j)).natAbs; if o.md = 1 then clamp v else intBits w v) ∧
      res (.vneg y o) 2 (fun j => if o.md = 1 then clamp (-sInt w (a j)) else intBits w (-sInt w (a j))))

/-- Floating-point arithmetic (R208 to R210) and the special-function unit (R224 to R229): the selected elements take the result of the
element function, and VSTAT the flags of those alone. A finite sum or product is the exact value rounded once; a NaN operand gives the
canonical NaN; VABS and VNEG change the sign bit alone. How 2^x and log2 x are computed is log 31. -/
def Obligations.VectorFloats : Prop :=
  (∀ (s : State) (c : Nat) (y : Sync) (o : VOp), s.idle c y = true → o.vf.toNat ≤ 2 → esizeOf o.vf.toNat = (s.ctx c).esize →
    let k := s.ctx c
    let f := o.vf.toNat
    let size := vecSize f
    let w := fmtWidth f
    let m := o.md.toNat
    let a (j : Nat) : Nat := k.velem o.va.toNat size j
    let b (j : Nat) : Nat := k.velem o.vb.toNat size j
    let d (j : Nat) : Nat := k.velem o.vd.toNat size j
    let sel := k.selected o.mken o.mm
    let res (u : EUnit) (i : Instr) (n : Nat) (g : Nat → Nat × Word) : Prop :=
      VecResult s c u i n o.vd size sel (fun j => (g j).1 % 2 ^ w) (flagsOver k.velems sel fun j => (g j).2)
    let v (i : Instr) (n : Nat) (g : Nat → Nat × Word) : Prop := res .vector i (n + k.ov size) g
    let e := cdiv k.velems 128
    v (.vadd y o) 4 (fun j => fAdd f m k.ftz (a j) (b j)) ∧ v (.vsub y o) 4 (fun j => fSub f m k.ftz (a j) (b j)) ∧
    v (.vmul y o) 4 (fun j => fMul f m k.ftz (a j) (b j)) ∧ v (.vfma y o) 6 (fun j => fFma f m k.ftz (a j) (b j) (d j)) ∧
    v (.vmin y o) 4 (fun j => fMinMax false f k.ftz (a j) (b j)) ∧ v (.vmax y o) 4 (fun j => fMinMax true f k.ftz (a j) (b j)) ∧
    v (.vabs y o) 2 (fun j => (a j % 2 ^ (w - 1), 0)) ∧ v (.vneg y o) 2 (fun j => (a j ^^^ 2 ^ (w - 1), 0)) ∧
    (f = 0 → res .sfu (.vrcp y o) (10 + e) (fun j => rcpElem k.ftz (a j)) ∧ res .sfu (.vrsq y o) (10 + e) (fun j => rsqElem k.ftz (a j)) ∧
      res .sfu (.vrcps y o) (10 + e) (fun j => rcpsElem m k.ftz (a j) (b j)) ∧
      res .sfu (.vrsqs y o) (10 + e) (fun j => rsqsElem m k.ftz (a j) (b j)) ∧
      res .sfu (.vexp2 y o) (18 + 2 * e) (fun j => exp2Elem m k.ftz (a j)) ∧
      res .sfu (.vlog2 y o) (18 + 2 * e) (fun j => log2Elem m k.ftz (a j)))) ∧
  (∀ (f rm a b d : Nat) (ftz : Bool), f ≤ 2 →
    let x := readFtz ftz f a
    let y := readFtz ftz f b
    let z := readFtz ftz f d
    (x.isNan = true ∨ y.isNan = true → (fAdd f rm ftz a b).1 = canonNan f ∧ (fSub f rm ftz a b).1 = canonNan f ∧
      (fMul f rm ftz a b).1 = canonNan f ∧ (fFma f rm ftz a b d).1 = canonNan f ∧ (fMinMax true f ftz a b).1 = canonNan f) ∧
    ∀ m e n g : Int, x = .fin m e → y = .fin n g →
      let round (v : Machine.Num) : Nat × Word := let r := roundTo v f rm 0 ftz; (r.1.val, r.2)
      let sum (p e q g : Int) : Machine.Num := let r := alignTwo p e q g; if r.1 + r.2.1 = 0 then .zero (rm = 3) else .fin (r.1 + r.2.1) r.2.2
      fAdd f rm ftz a b = round (sum m e n g) ∧ fSub f rm ftz a b = round (sum m e (-n) g) ∧
      fMul f rm ftz a b = round (.fin (m * n) (e + g)) ∧
      ∀ r h : Int, z = .fin r h → fFma f rm ftz a b d = round (sum (m * n) (e + g) r h))

/-- Compare, select, reductions, scans and rearrangement (R213, R214, R220 to R223). An integer sum reduces to the sum modulo 2^width,
whatever the tree. -/
def Obligations.VectorLines : Prop :=
  ∀ (s : State) (c : Nat) (y : Sync) (o : VOp) (xo : BitVec 5), s.idle c y = true → isVecFmt o.vf.toNat = true → esizeOf o.vf.toNat = (s.ctx c).esize →
    let k := s.ctx c
    let f := o.vf.toNat
    let w := fmtWidth f
    let size := vecSize f
    let a (j : Nat) : Nat := k.velem o.va.toNat size j
    let b (j : Nat) : Nat := k.velem o.vb.toNat size j
    let sel := k.selected o.mken o.mm
    let all (_ : Nat) : Bool := true
    (∃ u, Lands s c .vector (.vcmp y o) (4 + k.ov size) u ∧ (u.ctx c).v = k.v ∧ (∀ r < 8, r ≠ o.vd.toNat % 8 → ∀ j, (u.ctx c).mbit r j = k.mbit r j) ∧
      ∀ j < 1024, (u.ctx c).mbit (o.vd.toNat % 8) j =
        if j < k.velems ∧ sel j = true then (compareElem (o.vd.toNat / 8) (o.md = 1) f k.ftz (a j) (b j)).1 else k.mbit (o.vd.toNat % 8) j) ∧
    VecResult s c .vector (.vsel y o) (2 + k.ov size) o.vd size all (fun j => if k.mbit o.mm.toNat j then a j else b j) 0 ∧
    (7 ≤ f → o.vb.toNat / 8 = 0 → 0 < k.cols → 0 < k.rows →
      let lane (r i : Nat) : Nat := if o.vb.getLsbD 2 then i * k.cols + r else r * k.cols + i
      let lanes := if o.vb.getLsbD 2 then k.cols else k.rows
      let len := if o.vb.getLsbD 2 then k.rows else k.cols
      let x (j : Nat) : Nat := if sel j then a j else 0
      ∃ u, Lands s c .vector (.vred y o) (16 + k.ov size) u ∧ (u.ctx c).csr = k.csr ∧
        (∀ r < lanes, (u.ctx c).velem o.vd.toNat size (lane r 0) = ((List.range len).map fun i => x (lane r i)).sum % 2 ^ w) ∧
        ∀ r < lanes, ∀ i < len, 0 < i → (u.ctx c).velem o.vd.toNat size (lane r i) = k.velem o.vd.toNat size (lane r i)) ∧
    (o.vb.getLsbD 2 = false → 0 < k.cols →
      let m := combineOf (o.vb.toNat / 8) f o.md.toNat k.ftz
      let line (r : Nat) : List Nat := (List.range k.cols).map fun i => if sel (r * k.cols + i) then a (r * k.cols + i) else m.ident
      ∃ u, Lands s c .vector (.vscan y o) (16 + k.ov size) u ∧ ∀ r < k.rows, ∀ i < k.cols,
        (u.ctx c).velem o.vd.toNat size (r * k.cols + i) = ((m.scan (o.vb.getLsbD 1) (line r)).getD i (0, 0)).1 % 2 ^ w) ∧
    (∃ u, Lands s c .vector (.vtrn y o) (4 + 2 * k.ov size) u ∧ (u.ctx c).csr = k.csr ∧ ∀ r < k.rows, ∀ i < k.cols,
      (u.ctx c).velem o.vd.toNat size (i * k.rows + r) = a (r * k.cols + i)) ∧
    VecResult s c .vector (.vperm y o) (4 + 2 * k.ov size) o.vd size sel
      (fun j => let g := k.velem o.vb.toNat 2 j; if g < k.velems then a g else 0) 0 ∧
    (((k.seq .c).rx xo).toNat ≤ k.velems → let n := ((k.seq .c).rx xo).toNat
      VecResult s c .vector (.vext y o.vd o.va o.vb o.vf xo) (4 + 2 * k.ov size) o.vd size all
        (fun j => if j + n < k.velems then a (j + n) else b (j + n - k.velems)) 0)

/-- VSHAPE takes its shape when it issues; VLD and VST copy a PLAIN window's elements in and out, VCVT converts into a register or a
PLAIN window; the port forms claim or push their elements (R206, R215 to R219). -/
def Obligations.VectorMemory : Prop :=
  ∀ (s : State) (c : Nat) (y : Sync) (vr xo : BitVec 5) (win : BitVec 6) (vf d : BitVec 4) (mken : Bool) (mm : BitVec 3) (shape : BitVec 24)
    (rm pol : BitVec 2), s.idle c y = true →
    let k := s.ctx c
    let size := vecSize vf.toNat
    let ds := fmtWidth d.toNat / 8
    let rd := s.spByte k
    let w := k.winN win.toNat
    let p := k.port (win.toNat % 4)
    let sel := k.selected mken mm
    let row (j : Nat) : Nat := bitsN ((k.seq .c).rx xo) 31 0 + j / k.cols
    let col (j : Nat) : Nat := bitsN ((k.seq .c).rx xo) 63 32 + j % k.cols
    let inside := w.valid = true ∧ w.layout = 0 ∧ row 0 + k.rows ≤ w.rows ∧ col 0 + k.cols ≤ w.kext ∧
      ∀ j < k.velems, sel j = true → ∀ o ∈ w.touch (row j) 1 (col j) 1, (k.spPhys o 1).isSome = true
    (∃ t f, exec (.vshape y shape) s = .next t ∧ t.seq c .c = (s.seq c .c).retire ∧ (t.ctx c).flight = [f] ∧
      (t.ctx c).csr = { k.csr with vshape := shape.zeroExtend 64 } ∧ (t.ctx c).v = k.v ∧ t.mem = s.mem) ∧
    (isVecFmt vf.toNat = true → esizeOf vf.toNat = k.esize →
      (inside → w.fmt = vf.toNat →
        VecResult s c .vector (.vld y vr false win xo vf mken mm) (12 + k.ov size) vr size sel (fun j => w.bits rd (row j) (col j)) 0 ∧
        ∃ u, Lands s c .vector (.vst y vr false win xo vf mken mm) (12 + k.ov size) u ∧ (u.ctx c).v = k.v ∧ u.mem = s.mem ∧
          (w.swz = 0 → (∀ j < k.velems, sel j = true → w.bits (u.spByte (u.ctx c)) (row j) (col j) = k.velem vr.toNat size j) ∧
            ∀ o, o < w.data ∨ w.data + w.dataSize ≤ o → u.spByte (u.ctx c) o = s.spByte k o)) ∧
      (p.dir = 1 → (pairing vf.toNat p.fmt p.layout).isSome = true → 0 < p.avail → ∃ t f,
        exec (.vld y vr true win xo vf mken mm) s = .next t ∧ t.seq c .c = (s.seq c .c).retire ∧ (t.ctx c).flight = [f] ∧
        f.port = some (win.toNat % 4) ∧ f.n = k.velems ∧ (t.ctx c).sp = k.sp ∧ (t.ctx c).v = k.v) ∧
      (p.dir = 2 → p.fmt = vf.toNat → ∃ t f, exec (.vst y vr true win xo vf mken mm) s = .next t ∧ (t.ctx c).flight = [f] ∧
        t.seq c .c = (s.seq c .c).retire ∧ (t.ctx c).sp = k.sp ∧ f.effs = [.portOut (win.toNat % 4)
          (((List.range k.velems).filter sel).flatMap fun j => natBytes (k.velem vr.toNat size j) size)]) ∧
      (pol ≠ 3 → 1 ≤ ds → ds ≤ 4 → let res (j : Nat) : Nat :=
          (convert (readFtz k.ftz vf.toNat (k.velem vr.toNat size j)) d.toNat rm.toNat pol.toNat false (k.ftz && d.toNat ≤ 2)).1.val % 2 ^ (8 * ds)
        (win.toNat < 32 → ∃ fl, VecResult s c .vector (.vcvt y false win vr d vf rm pol false) (6 + k.ov (max size ds)) (win.setWidth 5) ds
          (fun _ => true) res fl) ∧
        (w.valid = true → w.layout = 0 → w.fmt = d.toNat → w.swz = 0 → k.rows ≤ w.rows → k.cols ≤ w.kext →
          (k.spPhys w.data w.dataSize).isSome = true →
          ∃ u, Lands s c .vector (.vcvt y true win vr d vf rm pol true) (12 + k.ov (max size ds)) u ∧ (u.ctx c).v = k.v ∧
            ∀ j < k.velems, w.bits (u.spByte (u.ctx c)) (j / k.cols) (j % k.cols) = res j)))

/-- The accumulator instructions and TD.RD on a tile of the allotment that is not held (R184, R190 to R195, R197). ACC.LD enters a window of any
layout and format into a tile that it resets or accumulates in; ACC.RD with WIDE 0 converts into a window of any layout, an overflow under DPOL
0b11 being recorded as unissued with CVT_OVERFLOW. That the CLASS of the tile's entry changes as the word issues is the model's reading (log 4). -/
def Obligations.AccumulatorWords : Prop :=
  ∀ (s : State) (c n : Nat) (y : Sync) (acc d : BitVec 5) (anchor : BitVec 12) (win : BitVec 6) (row0 : BitVec 7) (rm : BitVec 2)
    (by' : BitVec 6) (row : BitVec 8) (clr : BitVec 3) (blk : BitVec 10), s.idle c y = true → n < 32 →
    let k := s.ctx c
    let x := s.tile k n
    let w := k.winN win.toNat
    let val (r i : Nat) : Machine.Num := (x.elem (row0.toNat + r) i).value x.anchorInt
    let fits := k.winsE [win.toNat] = .ok () ∧ w.layout = 0 ∧ w.swz = 0 ∧ row0.toNat + w.rows ≤ 128 ∧ w.kext ≤ 128 ∧
      x.badElem row0.toNat w.rows w.kext = none
    let flag (b : Bool) (p : Nat) : Nat := if b then 2 ^ p else 0
    k.tileNo acc.toNat = some n → x.wmHold = false →
    (∃ t u, Completes s c (.accZero y acc anchor) 8 t u ∧ (t.tile (t.ctx c) n).elems = [] ∧ (t.tile (t.ctx c) n).anchor = anchor ∧
      (t.tile (t.ctx c) n).general = false ∧ u.mem = s.mem) ∧
    (fits → w.fmt = 11 → ∃ t u, Completes s c (.accRdx y win acc row0) (16 + 2 * w.rows) t u ∧ u.tile (u.ctx c) n = x ∧
      ∀ r < w.rows, ∀ i < w.kext, w.bits (u.spByte (u.ctx c)) r i = (x.elem (row0.toNat + r) i).image.toNat) ∧
    (fits → w.fmt = 0 → ∃ t u, Completes s c (.accRd y win acc row0 rm true) (16 + w.rows) t u ∧ u.tile (u.ctx c) n = x ∧
      ∀ r < w.rows, ∀ i < w.kext,
        w.bits (u.spByte (u.ctx c)) r i = (roundTo (val r i) 0 rm.toNat 0 false).1.val % 2 ^ 32) ∧
    (∀ (e : FqEntry) (rest : List FqEntry), k.winsE [win.toNat] = .ok () → row0.toNat + w.rows ≤ 128 → w.kext ≤ 128 → k.fq = e :: rest →
      k.jnlState e.seq = jQueued →
      let fw := fwOf e.word
      let rd := s.spByte k
      let start := if fw.accum then x else x.resetTo fw.anchor
      let image (r i : Nat) : BitVec 2 × Int := imageDecode (BitVec.ofNat 64 (w.bits rd r i))
      let term (r i : Nat) : BitVec 2 × Int × TileFlags := termOf (w.value rd r i) start.anchorInt
      fw.low = 0 →
      (narrowFmt fw.dfmt = true → destOk w fw.dfmt fw.unit = true → w.layout = 0 ∨ w.kext % 32 = 0 → x.badElem row0.toNat w.rows w.kext = none →
        let put := w.putRows fw.dfmt fw.unit rm.toNat fw.dpol false (x.rowValues row0.toNat w.rows w.kext)
        (∀ bs fl, put = some (bs, fl) → ∃ t f, exec (.accRd y win acc row0 rm false) s = .next t ∧ t.seq c .c = (s.seq c .c).retire ∧
          (t.ctx c).flight = [f] ∧ f.effs = [.sp (k.phys bs), .flags fl] ∧ f.due = s.tide + 16 + w.rows ∧ (t.ctx c).fq = rest) ∧
        (put = none → ∃ t, exec (.accRd y win acc row0 rm false) s = .next t ∧ t.seq c .c = (s.seq c .c).retire ∧ (t.ctx c).flight = [] ∧
          (t.ctx c).fq = k.fq ∧ t.tile (t.ctx c) n = x ∧ t.mem = s.mem ∧
          (t.ctx c).csr.faultcause = BitVec.ofNat 64 (4 * 2 ^ 20 + b2n (s.strict c) * 2 ^ 16 + 0x35))) ∧
      (w.fmt = 11 ∨ sideOk fw.afmt fw.atag w.layout w.fmt w.fam = true → (fw.accum = true → fw.anchor = x.anchor) →
        w.badTag rd w.rows 0 w.kext = none → ∃ t u, Completes s c (.accLd y win acc row0) (16 + w.rows) t u ∧
          (t.tile (t.ctx c) n).anchor = start.anchor ∧ (t.tile (t.ctx c) n).general = true ∧
          ∀ r < w.rows, ∀ i < w.kext, (t.tile (t.ctx c) n).elem (row0.toNat + r) i =
            (if w.fmt = 11 then (start.elem (row0.toNat + r) i).enter (weightOf (image r i).2) (image r i).1 (image r i).2
             else (start.elem (row0.toNat + r) i).enter 1 (term r i).1 (term r i).2.1).1)) ∧
    (swf Elem.zero x.elems = true → x.badElem 0 128 128 = none → x.anchorInt + by'.toNat ≤ 2047 →
      ∃ t u, Completes s c (.accRebase y acc by') 144 t u ∧ (t.tile (t.ctx c) n).anchor = x.anchor + by'.zeroExtend 12 ∧
        ∀ r < 128, ∀ i < 128, (t.tile (t.ctx c) n).elem r i = ((x.elem r i).rebase by'.toNat).1) ∧
    (row.toNat ≤ 128 → ∃ t u, Completes s c (.accWm y d acc row) 4 t u ∧ (u.seq c .c).rx d = (if d = 0 then 0 else 128) ∧
      u.tile (u.ctx c) n = x) ∧
    (∃ t u, Completes s c (.accStat y d acc clr) 4 t u ∧ (d ≠ 0 → (u.seq c .c).rx d = BitVec.ofNat 64 (x.anchor.toNat * 2 ^ 20 +
        128 * 2 ^ 12 + flag x.partialBit 10 + flag x.chkerr 9 + flag x.depth 2 + flag x.inx 1 + flag x.wovf 0)) ∧
      u.tile (u.ctx c) n = { x with wovf := x.wovf && !clr.getLsbD 0, inx := x.inx && !clr.getLsbD 1, depth := x.depth && !clr.getLsbD 2 }) ∧
    (d ≠ 0 → ∃ t u, Completes s c (.tdRd y d true (acc.zeroExtend 10)) 4 t u ∧
      (u.seq c .c).rx d = BitVec.ofNat 64 (4 + flag x.general 0 + flag x.general 1 + flag x.special 3)) ∧
    (d ≠ 0 → blk.toNat < k.endBlk - k.baseBlk → ∃ t u, Completes s c (.tdRd y d false blk) 4 t u ∧
      (u.seq c .c).rx d = sget (0 : Word) (s.core k.coreNo).dir (k.baseBlk + blk.toNat))

/-- TFILL (R198): 4 cycles a block, then every block holds the pattern and its directory entry says so; blocks outside the fill keep
their bytes and entries. -/
def Obligations.TileFills : Prop :=
  ∀ (s : State) (c : Nat) (y : Sync) (fmt : BitVec 4) (blk : BitVec 10) (a nm1 : BitVec 5), s.idle c y = true →
    let k := s.ctx c
    let n := nm1.toNat + 1
    let w := fmtWidth fmt.toNat
    let b0 := k.baseBlk + blk.toNat
    let pat := ((k.seq .c).rx a).toNat % 2 ^ w
    let byte (u : State) (o : Nat) : Byte := sget 0 (u.core k.coreNo).spad o
    let elem (u : State) (i e : Nat) : Nat := leNat (sbytes (u.core k.coreNo).spad ((b0 + i) * 16384 + e * (w / 8)) (w / 8))
    let entry (u : State) (b : Nat) : Word := sget 0 (u.core k.coreNo).dir b
    let done (i : Instr) (p : State → Prop) : Prop :=
      ∃ t u, Completes s c i (8 + 4 * n) t u ∧ u.mem = s.mem ∧ (∀ b, b < b0 ∨ b0 + n ≤ b → entry u b = entry s b) ∧
        (∀ o, o < b0 * 16384 ∨ (b0 + n) * 16384 ≤ o → byte u o = byte s o) ∧ p u
    (k.spPhys (blk.toNat * 16384) (n * 16384)).isSome = true → w = 8 ∨ w = 16 ∨ w = 32 →
    done (.tfillZero y blk nm1) (fun u => ∀ i < n, entry u (b0 + i) = 0 ∧ ∀ o < 16384, byte u ((b0 + i) * 16384 + o) = 0) ∧
    done (.tfillConst y fmt blk a nm1) (fun u => ∀ i < n, (pat ≠ 0 → bitsN (entry u (b0 + i)) 1 0 = 1 ∧
      bitsN (entry u (b0 + i)) 31 28 = fmt.toNat ∧ bitsN (entry u (b0 + i)) 63 32 = pat) ∧
      (pat = 0 → entry u (b0 + i) = 0) ∧ ∀ e < 131072 / w, elem u i e = pat) ∧
    done (.tfillIdent y fmt blk nm1) (fun u => ∀ i < n, bitsN (entry u (b0 + i)) 1 0 = 2 ∧ bitsN (entry u (b0 + i)) 31 28 = fmt.toNat ∧
      bitsN (entry u (b0 + i)) 63 32 = i % (w / 8) ∧ ∀ e < 131072 / w,
        elem u i e = if e % 128 = i % (w / 8) * (1024 / w) + e / 128 then oneBits fmt.toNat else 0)

/-- Products (R72, R73, R180, R185 to R188): with a format word that agrees with its operands, MMA replaces or adds to each element
(m, n) of the tile the sum of the products of row m of A and row n of B, each term windowed at the anchor; MMA.C does the same with
a tile's converted rows for A; MMA.S resets its tile and waits for its port. The format word leaves FQ. -/
def Obligations.Products : Prop :=
  ∀ (s : State) (c n src : Nat) (y : Sync) (aw bw : BitVec 6) (asrc acc : BitVec 5) (koff : BitVec 9) (mm1 nm1 : BitVec 7) (sp : BitVec 2)
    (e : FqEntry) (rest : List FqEntry) (rows : List (List Machine.Num)) (fl : Word), s.idle c y = true →
    let k := s.ctx c
    let rd := s.spByte k
    let a := k.winN aw.toNat
    let b := k.winN bw.toNat
    let fw := fwOf e.word
    let k0 := koff.toNat * 32
    let x := s.tile k n
    let start := if fw.accum then x else x.resetTo fw.anchor
    let p := k.port sp.toNat
    let issued (i : Instr) (t : State) (f : Inflight) : Prop :=
      exec i s = .next t ∧ t.seq c .c = (s.seq c .c).retire ∧ (t.ctx c).flight = [f] ∧ f.tile = some n ∧ (t.ctx c).fq = rest ∧
        (∀ h, (t.core h).spad = (s.core h).spad) ∧ (t.tile (t.ctx c) n).anchor = start.anchor
    n < 32 → k.tileNo acc.toNat = some n → k.fq = e :: rest → k.jnlState e.seq = jQueued → fw.low = 0 → (fw.accum = true → fw.anchor = x.anchor) →
    (k.winsE [aw.toNat, bw.toNat] = .ok () → sideOk fw.afmt fw.atag a.layout a.fmt a.fam = true → sideOk fw.bfmt fw.btag b.layout b.fmt b.fam = true →
      klenOk fw.klen a.layout = true → klenOk fw.klen b.layout = true → a.rows ≤ 128 → b.rows ≤ 128 → k0 + fw.klen ≤ a.kext → k0 + fw.klen ≤ b.kext →
      a.badTag rd a.rows k0 fw.klen = none → b.badTag rd b.rows k0 fw.klen = none →
      ∃ t f, issued (.mma y aw bw acc koff) t f ∧ ∀ i < a.rows, ∀ j < b.rows, (t.tile (t.ctx c) n).elem i j =
        (dotTerms start.anchorInt (a.rowValues rd i k0 fw.klen) (b.rowValues rd j k0 fw.klen) (start.elem i j, TileFlags.none')).1) ∧
    (k.tileNo asrc.toNat = some src → src ≠ n → asrc ≠ acc → (s.tile k src).wmHold = false → k.winsE [bw.toNat] = .ok () → narrowFmt fw.dfmt = true →
      fw.afmt = fw.dfmt → fw.atag = 0 → sideOk fw.bfmt fw.btag b.layout b.fmt b.fam = true → klenOk fw.klen b.layout = true → b.rows ≤ 128 →
      fw.klen ≤ b.kext → fw.klen ≤ 128 → fw.klen % 32 = 0 → b.badTag rd b.rows 0 fw.klen = none →
      (s.tile k src).badElem 0 (mm1.toNat + 1) fw.klen = none →
      convertRows (s.tile k src) (mm1.toNat + 1) fw.klen fw.dfmt fw.unit fw.dpol = some (rows, fl) →
      ∃ t f, issued (.mmaC y bw asrc acc mm1) t f ∧ ∀ i < rows.length, ∀ j < b.rows, (t.tile (t.ctx c) n).elem i j =
        (dotTerms start.anchorInt (rows.getD i []) (b.rowValues rd j 0 fw.klen) (start.elem i j, TileFlags.none')).1) ∧
    (k.winsE [aw.toNat] = .ok () → p.dir = 1 → sideOk fw.afmt fw.atag a.layout a.fmt a.fam = true → sideOk fw.bfmt fw.btag p.layout p.fmt p.fam = true →
      klenOk fw.klen a.layout = true → klenOk fw.klen p.layout = true → a.rows ≤ 128 → fw.klen % 32 = 0 → fw.klen ≤ a.kext →
      a.badTag rd a.rows 0 fw.klen = none →
      ∃ t f, issued (.mmaS y aw sp nm1 acc) t f ∧ f.mid = some 0 ∧ f.port = some sp.toNat ∧ (t.ctx c).sp = k.sp ∧
        ∀ i j, (t.tile (t.ctx c) n).elem i j = start.elem i j)

/-- Exact accumulation (R59 to R68): an element that holds an integer z reads back as z, and after a finite term of value v it reads back
as z + v, whatever the order of its terms, while the sum stays below half the product of the moduli; the check agrees. -/
def Obligations.ResidueExact : Prop :=
  ∀ (z v : Int) (w : Nat), let e : Elem := { Elem.zero.addZ z with count := w }
    2 * z.natAbs < modAll → 2 * (z + v).natAbs < modAll → w + 1 ≤ countMax →
    e.crt = z ∧ e.checks = true ∧ (e.enter 1 tagFinite v).1.crt = z + v ∧ (e.enter 1 tagFinite v).1.checks = true ∧
    (e.enter 1 tagFinite v).1 = { Elem.zero.addZ (z + v) with count := w + 1 }

/-- The frame of every engine word as the C stream sends it: whatever becomes of it, the arena, the scratchpads, directories and barriers
of every core, the vector registers and predicates, the windows and ports, and the x registers, predicates and bt registers of all four
streams stay. A word that pops no format word writes no journal byte: memory, the other contexts and the other cores stay too. A word that pops the one word of FQ
writes no byte of memory but the STATE byte of that word's journal entry, where the ring's translation places it, and the accessed and dirty bits
of the leaf that gave it; a sector that either touches is read under the key that the write uses. -/
def Obligations.EngineFrame : Prop :=
  ∀ (s t : State) (c : Nat) (tried : List Nat) (i : Instr) (op : EngOp), engineOp i = some op → s.turn = .issue c .c tried →
    c < s.ctxs.length → exec i s = .next t →
      t.code = s.code ∧ (∀ n, (t.core n).spad = (s.core n).spad ∧ (t.core n).dir = (s.core n).dir ∧ (t.core n).bars = (s.core n).bars) ∧
      (t.ctx c).v = (s.ctx c).v ∧ (t.ctx c).m = (s.ctx c).m ∧ (t.ctx c).win = (s.ctx c).win ∧ (t.ctx c).sp = (s.ctx c).sp ∧
      (∀ st, (t.seq c st).x = (s.seq c st).x ∧ (t.seq c st).p = (s.seq c st).p ∧ (t.seq c st).bt = (s.seq c st).bt) ∧
      (op.pops = false → t.mem = s.mem ∧ (∀ key pa, t.homeByte key pa = s.homeByte key pa) ∧ (∀ d, d ≠ c → t.ctx d = s.ctx d) ∧
        ∀ n, n ≠ (s.ctx c).coreNo → t.core n = s.core n) ∧
      (op.pops = true → ∀ e, (s.ctx c).fq = [e] → (s.ctx c).jnlOut = [] → s.keyAt 4096 ≠ 0 →
        let vf := (s.ctx c).vf
        let va := ((s.ctx c).jnlVa e.seq + 9).toNat
        (∀ bad lvl tb, s.walk vf va = .miss bad lvl tb → ∀ key a, t.homeByte key a = s.homeByte key a) ∧
        ∀ p le lvl, s.walk vf va = .leaf p le lvl →
          let home := bitsN le 51 8 * 256 + va % 2 ^ lvlShift lvl
          ∀ key a, a ≠ home → a < p ∨ p + 8 ≤ a → (sectorOf a = sectorOf home → s.keyAt key = s.keyAt (if bitN le 6 then 4096 else vf)) →
            (sectorOf a = sectorOf p → s.keyAt key = s.keyAt 4096) → t.homeByte key a = s.homeByte key a)

/-! ## Agents (R235 to R249, R259) -/

/-- TWDEF, AGSET and SPBIND (R235, R237, R239, R242): a descriptor or program that passes its check is taken, another traps, and binding sets
its generators to their first chunk. A port on a scratchpad generator takes one chunk at a time into its FIFO, or writes what a VST pushed to
the generator's next bytes (R241, R243, R244). -/
def Obligations.Agents : Prop :=
  (∀ (s : State) (c : Nat) (st : Stream) (g : Guard) (a b : BitVec 5) (n : BitVec 6) (m agd ags : BitVec 3) (p : BitVec 2) (scaled fam : Bool)
    (fmt : BitVec 4) (layout : BitVec 2) (pa key : Nat),
    let k := s.ctx c
    let q := s.seq c st
    let w : Win := { valid := true, w0 := q.rx a, w1 := q.rx b }
    let put (w : Win) : Out := .next ((s.upCtx c fun x => { x with winNew := x.winNew ++ [(n.toNat, w)] }).retire c st)
    let s1 := (s.checkVa k.core k.vf .rd (q.rx a) 64).1
    let bs := s1.homeBytes key pa 64
    let free (i : Nat) : Prop := k.agTaken i (some p.toNat) = false ∧ (k.agN i).programmed = true
    let start (i : Nat) : Ag := { k.agN i with pos := 0 }
    (s.runs c st g [a, b] [] = true →
      (q.rx a = 0 → q.rx b = 0 → exec (.twdef g a b n) s = put { k.winN n.toNat with valid := false }) ∧
      (w.ok = true → exec (.twdef g a b n) s = put w) ∧
      (w.ok = false → q.rx a ≠ 0 →
        exec (.twdef g a b n) s = .next (s.trapAt c st (.twdef g a b n) { code := 0x29, addr := kindAddr 4 n.toNat }))) ∧
    (s.runs c st g [a] [] = true →
      (k.agTaken m.toNat none = true →
        exec (.agset g a m) s = .next (s.trapAt c st (.agset g a m) { code := 0x2A, addr := kindAddr 6 m.toNat })) ∧
      (k.agTaken m.toNat none = false → (s.checkVa k.core k.vf .rd (q.rx a) 64).2 = .ok (pa, key) → s.quiet c st = true → isDevice pa = true →
        homeDie pa = dieOf k.coreNo → s1.pinnedElsewhere k.coreNo pa = false → s1.uncorr = [] → s1.netBad = false → s1.holds = [] →
        (s1.core k.coreNo).stores = [] → agOk bs = true →
        ∃ t, exec (.agset g a m) s = .next t ∧ (t.ctx c).agN m.toNat = { k.agN m.toNat with prog := agParse bs, programmed := true, pos := 0 } ∧
          (t.seq c st).x = q.x)) ∧
    (s.runs c st g [] [] = true → k.portBusy p.toNat = false →
      (∃ t, exec (.spbindOff g p) s = .next t ∧ (t.ctx c).port p.toNat = Port.off ∧ (t.ctx c).ag = k.ag) ∧
      (k.agTaken agd.toNat (some p.toNat) = true → exec (.spbindOut g p agd fmt) s =
        .next (s.trapAt c st (.spbindOut g p agd fmt) { code := 0x2A, addr := kindAddr 6 agd.toNat })) ∧
      (free agd.toNat → layoutOk fmt.toNat 0 false = true → ∃ t, exec (.spbindOut g p agd fmt) s = .next t ∧
        (t.ctx c).port p.toNat = { Port.off with dir := 2, agd := agd.toNat, fmt := fmt.toNat } ∧ (t.ctx c).agN agd.toNat = start agd.toNat) ∧
      (free agd.toNat → (scaled = true → free ags.toNat ∧ ags ≠ agd) → (scaled = false → ags = 0) → scaled = (layout ≠ 0) →
        layoutOk fmt.toNat layout.toNat fam = true → ∃ t, exec (.spbindIn g p agd scaled ags fmt layout fam) s = .next t ∧
          (t.ctx c).port p.toNat = { Port.off with dir := 1, agd := agd.toNat, ags := if scaled then some ags.toNat else none,
                                                   fmt := fmt.toNat, layout := layout.toNat, fam := fam } ∧
          (t.ctx c).agN agd.toNat = start agd.toNat ∧ (scaled = true → (t.ctx c).agN ags.toNat = start ags.toNat)))) ∧
  (∀ (s : State) (c : Nat) (p : Fin 4) (f : Inflight), c < s.ctxs.length → (s.ctx c).run = .running → (s.ctx c).core.isSome = true →
    (s.ctx c).coreNo < 128 →
    let k := s.ctx c
    let q := k.port p.val
    let g := k.agN q.agd
    let place (o : Nat) : Nat := (g.prog.addr g.pos + BitVec.ofNat 64 o).toNat
    let n := min q.outQ.length (min 128 (g.prog.chunk - q.chunkOff))
    q.agd < 8 → g.prog.space = 1 →
    (q.dir = 1 → q.ags = none → q.chunkOff = 0 → g.pos < g.prog.total → q.fifo.length + g.prog.chunk ≤ 16384 → (s.core k.coreNo).spadErr = [] →
      (∀ i < g.prog.chunk, (k.spPhys (place i) 1).isSome = true) →
      ∃ t, exec (.streamPortFetch c p) s = .next t ∧ (t.ctx c).agN q.agd = { g with pos := g.pos + 1 } ∧ t.mem = s.mem ∧
        (t.ctx c).port p.val = { q with fifo := q.fifo ++ (List.range g.prog.chunk).map fun i => ⟨s.spByte k (place i), none⟩ }) ∧
    (q.dir = 2 → q.outQ ≠ [] → (∀ b ∈ q.outQ, b.owner = f.ord) → k.flightOf f.ord = some f → q.chunkOff < g.prog.chunk →
      (∀ i < n, (k.spPhys (place (q.chunkOff + i)) 1).isSome = true) →
      ∃ t, exec (.outputPortWrite c p) s = .next t ∧ ((t.ctx c).port p.val).outQ = q.outQ.drop n ∧ t.mem = s.mem ∧
        (∀ i < n, some (t.spByte (t.ctx c) (place (q.chunkOff + i))) = q.outQ[i]?.map (·.b)) ∧
        ((t.ctx c).agN q.agd).pos = (if g.prog.chunk ≤ q.chunkOff + n then g.pos + 1 else g.pos) ∧
        ((t.ctx c).port p.val).chunkOff = if g.prog.chunk ≤ q.chunkOff + n then 0 else q.chunkOff + n))

/-- Copies (R245 to R249): a copy takes its tokens, stands with them while no slot is free, and once it passes its checks holds a slot; a
piece of a scratchpad copy moves its bytes and no other; completion takes TX down by the count, makes the post and frees the slot; with no
room for the post, TX falls and the copy holds its slot. That pieces count from the first byte of the destination is the model's reading (log 49). -/
def Obligations.Copies : Prop :=
  ∀ (s : State) (c i pz : Nat) (st : Stream) (y : Sync) (xd xs xn : BitVec 5) (dir mode : BitVec 2) (win : BitVec 6) (sag dag : BitVec 3)
    (bar : BitVec 7) (baren : Bool) (x : Copy), c < s.ctxs.length →
    let k := s.ctx c
    let q := s.seq c st
    let n := (q.rx xn).toNat
    let spOk (w : Word) : Prop := w.toNat < 2 ^ 24 ∧ (k.spPhys w.toNat n).isSome = true
    let memOk (w : Word) : Prop := bitsN w 63 56 = 0 ∧ bitsN (w + BitVec.ofNat 64 (n - 1)) 63 56 = 0
    let gen (j : Nat) : Prop := (k.agN j).programmed = true ∧ k.agTaken j none = false
    let w := k.winN win.toNat
    let ns := if mode = 2 then w.dataSize else (k.agN sag.toNat).prog.bytes
    let nd := if mode = 1 then w.dataSize else (k.agN dag.toNat).prog.bytes
    let cp : Instr := .cpy y xd xs xn dir bar baren
    let cn : Instr := .cpyNd y mode win sag dag bar baren
    let held (j : Instr) : Bool := q.stall = some (wordOf j, .slot)
    let tok (j : Instr) : Vector Nat 13 := if held j then k.tok else (k.take (syncWaits y)).tok
    (s.turnOf c st = true → s.quiet c st = true → q.marks = [] → k.posts = [] → baren = false ∨ (k.barNo bar.toNat).isSome = true →
      (∀ j ∈ [cp, cn], s.copyRoom c = false → held j = true ∨ k.canTake (syncWaits y) = true →
        ∃ t, exec j s = .next t ∧ t.seq c st = { q with stall := some (wordOf j, .slot) } ∧ (t.ctx c).tok = tok j ∧
          (t.ctx c).copies = k.copies ∧ t.mem = s.mem) ∧
      (s.copyRoom c = true → held cp = true ∨ k.canTake (syncWaits y) = true →
        (n ≠ 0 → n ≤ 2 ^ 24 ∧ (if dir = 0 ∨ dir = 2 then spOk (q.rx xd) else memOk (q.rx xd)) ∧
          (if dir = 1 ∨ dir = 2 then spOk (q.rx xs) else memOk (q.rx xs))) →
        ∃ t z, exec cp s = .next t ∧ t.seq c st = q.retire ∧ (t.ctx c).copies = k.copies ++ [z] ∧
          (t.ctx c).tok = tok cp ∧ z.dst = q.rx xd ∧ z.src = q.rx xs ∧ z.count = n ∧ z.dir = dir.toNat ∧ z.nd = none ∧
          z.lead = 0 ∧ z.bar = (if baren then some bar.toNat else none) ∧ z.post = y.pq.toNat ∧ t.mem = s.mem) ∧
      (s.copyRoom c = true → held cn = true ∨ k.canTake (syncWaits y) = true →
        mode ≠ 3 → (mode ≠ 1 → gen dag.toNat) → (mode ≠ 2 → gen sag.toNat) → (mode ≠ 0 → w.valid = true ∧ w.fmt ≠ 11) → ns = nd → ns ≤ 2 ^ 40 →
        ∃ t z, exec cn s = .next t ∧ t.seq c st = q.retire ∧ (t.ctx c).copies = k.copies ++ [z] ∧
          (t.ctx c).tok = tok cn ∧ z.count = ns ∧ z.lead = 0 ∧ (z.nd.map fun e => e.1) = some mode.toNat ∧
          z.bar = (if baren then some bar.toNat else none) ∧ t.mem = s.mem)) ∧
    (k.copies[i]? = some x → k.run = .running → k.core.isSome = true → k.coreNo < 128 → x.fault = none → s.reqs = [] →
      (x.nd = none → x.dir = 2 → x.lead = pz → x.done = [] → 128 * pz < x.count → (s.core k.coreNo).spadErr = [] →
        (k.spPhys (x.src.toNat + 128 * pz) (min 128 (x.count - 128 * pz))).isSome = true →
        (k.spPhys (x.dst.toNat + 128 * pz) (min 128 (x.count - 128 * pz))).isSome = true →
        ∃ t z, exec (.copyPiecePerform c i pz) s = .next t ∧ (t.ctx c).copies[i]? = some z ∧ z.lead = pz + 1 ∧ z.done = [] ∧ t.mem = s.mem ∧
          (∀ j ∈ x.piece pz, t.spByte (t.ctx c) (x.dst.toNat + j) = s.spByte k (x.src.toNat + j)) ∧
          ∀ o, o < x.dst.toNat + 128 * pz ∨ x.dst.toNat + min x.count (128 * (pz + 1)) ≤ o → t.spByte (t.ctx c) o = s.spByte k o) ∧
      (x.count ≤ 128 * x.lead → k.canPost x.post = true → k.posts = [] →
        (x.bar = none → ∃ t, exec (.copyComplete c i) s = .next t ∧ (t.ctx c).copies = k.copies.eraseIdx i ∧
          (t.ctx c).tok = (k.post x.post).tok ∧ t.mem = s.mem) ∧
        (∀ (b pb : Nat) (r r' : Barrier), x.bar = some b → x.landed = false → s.barrier k b true = .ok (pb, r) →
          r.addTx (-(x.count : Int)) = some r' → pb < 128 →
          ∃ t, exec (.copyComplete c i) s = .next t ∧ (t.ctx c).copies = k.copies.eraseIdx i ∧ (t.ctx c).tok = (k.post x.post).tok ∧
            vgetD (t.core k.coreNo).bars pb Barrier.raw = r')) ∧
      (x.count ≤ 128 * x.lead → k.canPost x.post = false → x.landed = false →
        ∀ (b pb : Nat) (r r' : Barrier), x.bar = some b → s.barrier k b true = .ok (pb, r) → r.addTx (-(x.count : Int)) = some r' → pb < 128 →
          ∃ t, exec (.copyComplete c i) s = .next t ∧ (t.ctx c).copies = k.copies.set i { x with landed := true } ∧ (t.ctx c).tok = k.tok ∧
            vgetD (t.core k.coreNo).bars pb Barrier.raw = r'))

/-! ## Routines and their images (R261 to R283) -/

/-- A U-format word takes its tokens and stands at ENTRY; while the routine runs the stream stands at the word, one micro-word at a time;
when all of it has performed the word posts and completes (R265 to R267). The loader copies up to eight micro-words at a time from the
image's copy in device memory into a free bank, with the copy's header, one such step in a tide cycle, and admits the image when the digest of
header and words is the one measured (R262, R282). The timing inside a micro-step is the model's reading (log 16), that of the loader too (log 76). -/
def Obligations.RoutineWords : Prop :=
  ∀ (s : State) (c bank : Nat) (st : Stream) (opc : BitVec 8) (w0 w1 w2 pq : BitVec 4) (arg : BitVec 40) (b : Bank) (s' : State) (m : Image),
    let k := s.ctx c
    let q := s.seq c st
    let i : Instr := .uop opc w0 w1 w2 pq arg
    let e := vgetD k.binding (opc.toNat - 0xC0) 0
    let h := s.core k.coreNo
    (s.runs c st { boost := 0, gn := false, gp := 0 } [] [] = true → q.xfer = none → k.posts = [] →
      (q.micro.active = false → k.canTake (codes [w0, w1, w2]) = true → ∃ t, exec i s = .next t ∧ (t.ctx c).tok = (k.take (codes [w0, w1, w2])).tok ∧
        t.seq c st = { q with micro := { active := true, word := wordOf i, binding := e, mpc := bitsN e 12 0, due := s.tide },
                              stall := some (wordOf i, .step) }) ∧
      (q.micro.active = true → q.micro.fin = false → q.micro.due ≤ s.tide → q.micro.steps ≠ 0 → s.bankOf k = some b → b.valid = true → b.bad = false →
        s.microStep c st arg.toNat = .ok s' → exec i s = .next (s'.stand c st i .step)) ∧
      (q.micro.active = true → q.micro.fin = true → q.micro.due ≤ s.tide → k.routineBusy st q.pc = false → k.canPost pq.toNat = true →
        q.micro.mword = none → ∃ t, exec i s = .next t ∧ t.seq c st = ({ q with micro := {} } : Seq).retire ∧
          (t.ctx c).tok = (k.post pq.toNat).tok ∧ t.mem = s.mem)) ∧
    let copied (from' n : Nat) : List (BitVec 128) :=
      (List.range n).map fun j => BitVec.ofNat 128 (leNat (s.homeBytes 4096 (m.copy + 16 + 16 * from' + 16 * j) 16))
    (c < s.ctxs.length → k.core.isSome = true → k.coreNo < 128 → k.run ≠ .gone → k.image = some m → bank < 2 →
      (s.uncorr = [] → s.netBad = false → m.words ≠ [] → h.bank0.need = 0 → h.bank1.need = 0 → ∃ t, exec (.ldeLoad k.coreNo bank c) s = .next t ∧
        (t.core k.coreNo).bank bank = { digest := m.digest, words := copied 0 (min 8 m.words.length), need := m.words.length, valid := false,
                                        bad := false, ctx := c, due := s.tide + 1, head := s.homeBytes 4096 m.copy 16 }) ∧
      (s.uncorr = [] → s.netBad = false → (h.bank bank).words ≠ [] → (h.bank bank).digest = m.digest → (h.bank bank).valid = false → (h.bank bank).bad = false →
        (h.bank bank).words.length < (h.bank bank).need → (h.bank bank).due ≤ s.tide → ∃ t, exec (.ldeLoad k.coreNo bank c) s = .next t ∧
          (t.core k.coreNo).bank bank =
            { h.bank bank with words := (h.bank bank).words ++ copied (h.bank bank).words.length
                                          (min 8 ((h.bank bank).need - (h.bank bank).words.length))
                               due := s.tide + 1 }) ∧
      ((h.bank bank).need ≠ 0 → (h.bank bank).valid = false → (h.bank bank).bad = false → (h.bank bank).need ≤ (h.bank bank).words.length →
        (h.bank bank).due ≤ s.tide →
        ∃ t, exec (.ldeVerify k.coreNo bank) s = .next t ∧
          (if Config.shake256 ((h.bank bank).head ++ (h.bank bank).words.flatMap fun x => natBytes x.toNat 16) = (h.bank bank).digest
           then (t.core k.coreNo).bank bank = { h.bank bank with valid := true } ∧ t.pflog = s.pflog
           else (t.core k.coreNo).bank bank = { h.bank bank with bad := true } ∧ t.pflog.length = s.pflog.length + 1)))

/-! ## The index engine and the merge unit (R250 to R258) -/

/-- The index engine and the merge unit (R250 to R258). A unit without a command starts the oldest entry of its queue: the entry's STATE is
STARTED, and the command has the status of its checks, with which it has had its last effect. A gather of one index fills the index's row with
the bytes it reads, or, for an index at or past NROWS, with zeros, or stops with RANGE under FLAGS.0; a scatter leaves such an index out. SCATTER.ROWS stores the window's row over the table's row, run by run, and
SCATTER.ADD replaces an element by its sum with the window's, whose flags go to VSTAT (R253).
A merge appends the entries it does not drop up to its capacity; the INT merge of two rows whose columns rise has their columns once, rising,
with the sums modulo 2^32 where both have one. An end makes the arrival, writes STATE, and leaves the unit without a reply, or by its YQ
record with one. That a merge runs in one step, and that it makes the blocks of its output arrays GENERAL as it starts, are the model's readings (logs 17 and 77), that an unknown KIND starts as GATHER.ROWS too. -/
def Obligations.IndexCommands : Prop :=
  (∀ (s : State) (c : Nat) (e : SqEntry) (rest : List SqEntry), c < s.ctxs.length → (s.ctx c).run = .running → (s.ctx c).jnlState e.seq = jQueued →
    let k := s.ctx c
    (s.unitIdle c .ie = true → k.sq0 = e :: rest →
      ∀ p ∈ [(Instr.gatherRows c, 1), (.gatherElem c, 2), (.scatterRows c, 3), (.scatterAdd c, 4)],
        ieKind e.blk = p.2 ∨ (p.2 = 1 ∧ (ieKind e.blk = 0 ∨ 4 < ieKind e.blk)) →
        ∃ t r, exec p.1 s = .next t ∧ (t.ctx c).sq0 = rest ∧ (t.ctx c).ie = some r ∧ r.seq = e.seq ∧ r.blk = e.blk ∧ r.next = 0 ∧ r.served = 0 ∧
          r.status = s.ieCheck k e.blk ∧ r.fin = decide (s.ieCheck k e.blk ≠ 0) ∧ (t.ctx c).jnlState e.seq = jStarted) ∧
    (s.unitIdle c .mu = true → k.sq1 = e :: rest → ∃ t r, exec (.mergeAdd c) s = .next t ∧ (t.ctx c).sq1 = rest ∧ (t.ctx c).mu = some r ∧
      r.seq = e.seq ∧ r.blk = e.blk ∧ r.ended = false ∧ (t.ctx c).jnlState e.seq = jStarted ∧
      (s.muCheck k e.blk ≠ 0 → r.status = s.muCheck k e.blk ∧ r.count = 0) ∧
      (s.muCheck k e.blk = 0 →
        (t.core k.coreNo, r.count, r.rows, r.status) =
          (fun z : State × Nat × Nat × Nat => (z.1.core k.coreNo, z.2))
            (((s.sqPop c .mu 16).1.muClaim c e.blk).muRows c e.blk 0 0 (fieldN e.blk 20 4))))) ∧
  (∀ (s s1 : State) (c x : Nat) (r : IeRun) (bs : List Byte), c < s.ctxs.length → (s.ctx c).core.isSome = true → (s.ctx c).coreNo < 128 →
    (s.ctx c).ie = some r → r.fin = false → r.last = false → r.next = 0 → r.idx = [x] → r.halt = none → r.bits = 0 → ieCount r.blk = 1 →
    ieVmask r.blk = 0xFFFFFFFF → ieFlag r.blk 1 = false →
    let k := s.ctx c
    let va := ieTable r.blk + BitVec.ofNat 64 (x * (if ieKind r.blk = 2 then ieRowbytes r.blk else iePitch r.blk))
    (ieNrows r.blk ≤ x → ∃ t u, exec (.ieBatchComplete c) s = .next t ∧ (t.ctx c).ie = some u ∧ u.fin = true ∧ u.served = r.served ∧ t.mem = s.mem ∧
      (ieFlag r.blk 0 = true → u.status = 1 ∧ u.next = 0) ∧
      (ieFlag r.blk 0 = false → u.status = r.status ∧ u.next = 1 ∧
        (ieGather r.blk = true → ∀ o ∈ r.places 0, t.spByte (t.ctx c) o = 0) ∧ (ieGather r.blk = false → t.core k.coreNo = s.core k.coreNo))) ∧
    (x < ieNrows r.blk → ieGather r.blk = true → s.ieRead c r.refused va (ieRowbytes r.blk) = (s1, .ok bs) → s1.ctx c = k →
      s1.ctxs.length = s.ctxs.length → bs.length = ieRowbytes r.blk → (r.places 0).Nodup →
      ∃ t u, exec (.ieBatchComplete c) s = .next t ∧ (t.ctx c).ie = some u ∧ u.fin = true ∧ u.served = r.served + 1 ∧ u.status = r.status ∧
        u.next = 1 ∧ t.mem = s1.mem ∧ ∀ p ∈ (r.places 0).zip bs, t.spByte (t.ctx c) p.1 = p.2) ∧
    (x < ieNrows r.blk → ieKind r.blk = 3 → ∀ rs : List (Run128 × Nat × Nat),
      s.pageAll c 4 r.refused .wr (pinWait c) (memRuns va (ieRowbytes r.blk)) = (s1, .ok rs) → s1.ctx c = k → s1.ctxs.length = s.ctxs.length →
      s1.core k.coreNo = s.core k.coreNo → (∀ q ∈ rs, isDevice q.2.1 = true) → s1.uncorr = [] → s1.netBad = false → (s.core k.coreNo).spadErr = [] →
      ∃ t u new, exec (.ieBatchComplete c) s = .next t ∧ (t.ctx c).ie = some u ∧ u.fin = true ∧ u.served = r.served + 1 ∧ u.status = r.status ∧
        u.next = 1 ∧ t.mem = s1.mem ∧ (t.core k.coreNo).spad = (s.core k.coreNo).spad ∧ (t.core k.coreNo).stores = (s.core k.coreNo).stores ++ new ∧
        (new.map fun y => (y.pa, y.bytes.length, y.key)) = (rs.map fun q => (q.2.1, q.1.len, q.2.2)) ∧ (∀ y ∈ new, y.ctx = c ∧ y.ag = none) ∧
        (new.flatMap (·.bytes)) = (r.places 0).map fun o => s.spByte k o) ∧
    (x < ieNrows r.blk → ieKind r.blk = 4 → r.elem = 0 → 1 ≤ r.scope → ∀ (q : Run128) (pa key : Nat),
      let size := fmtWidth (ieEfmt r.blk) / 8
      let v := ieSum (ieEfmt r.blk) (leNat (s.homeBytes key pa size)) (leNat ((r.places 0).map fun o => s.spByte k o))
      s.pageAll c 4 r.refused .both (addWait c r.scope) (memRuns va size) = (s, .ok [(q, pa, key)]) → q.mem = true → q.len = size → 0 < size →
      ieRowbytes r.blk = size → isDevice pa = true → isDevice (pa + size) = true → homeDie pa = dieOf k.coreNo → s.keyAt key ≠ 0 → s.uncorr = [] →
      s.netBad = false → s.holds = [] → (∀ n < 128, (s.core n).stores = [] ∧ (s.core n).pins = [] ∧ (s.core n).spadErr = []) →
      ∃ t u, exec (.ieBatchComplete c) s = .next t ∧ (t.ctx c).ie = some u ∧ u.served = r.served + 1 ∧ u.applied = r.applied + 1 ∧ u.next = 1 ∧
        u.status = r.status ∧ leNat (t.homeBytes key pa size) = v.1 % 2 ^ (8 * size) ∧ (t.ctx c).csr.vstat = k.csr.vstat ||| v.2 ∧
        (t.core k.coreNo).spad = (s.core k.coreNo).spad ∧ ∀ a, a < pa ∨ pa + size ≤ a → t.homeByte key a = s.homeByte key a)) ∧
  (∀ (xs ys : List (Nat × Nat)), (xs.map (·.1)).Pairwise (· < ·) → (ys.map (·.1)).Pairwise (· < ·) →
    let out := (muMerge true (xs.length + ys.length) xs ys).map fun e => (e.1, e.2.1)
    (out.map (·.1)).Pairwise (· < ·) ∧
    ∀ i v, (i, v) ∈ out ↔ (∃ a b, (i, a) ∈ xs ∧ (i, b) ∈ ys ∧ v = (a + b) % 2 ^ 32) ∨ ((i, v) ∈ xs ∧ ∀ b, (i, b) ∉ ys) ∨
      ((i, v) ∈ ys ∧ ∀ a, (i, a) ∉ xs)) ∧
  (∀ (s : State) (c cidx cval cap n : Nat) (drop : Nat → Bool) (es : List (Nat × Nat × Word)), n ≤ cap →
    let m := n + (es.filter fun e => !drop e.2.1).length
    (s.muAppend c cidx cval cap drop n es).2 = if m ≤ cap then (m, false) else (cap, true)) ∧
  (∀ (s : State) (c p : Nat) (r : IeRun) (u : MuRun) (b b' : Barrier), c < s.ctxs.length → (s.ctx c).core.isSome = true → (s.ctx c).coreNo < 128 →
    let k := s.ctx c
    let told (t : State) (seq st : Nat) : Prop := (t.ctx c).jnlState seq = if st = 0 then jDone else jFailed
    let arrived (t : State) (arv nobar : Bool) (bar : Nat) : Prop := arv = true → nobar = false → p < 128 → s.barrier k bar true = .ok (p, b) →
      b.arrive = some b' → vgetD (t.core k.coreNo).bars p Barrier.raw = b'
    let mayArrive (arv nobar : Bool) (bar : Nat) : Prop := arv = true → nobar = false → s.barrier k bar true = .ok (p, b) ∧ b.arrive = some b'
    (k.ie = some r → r.fin = true → r.ended = false → k.jnlState r.seq = jStarted →
      (ieGather r.blk = true ∨ r.scope = 0 ∨ ((s.core k.coreNo).stores = [] ∧ s.reqs = [])) → mayArrive (ieFlag r.blk 3) r.nobar (ieBarNo r.blk) →
      ∃ t, exec (.sqCommandEnd c .ie) s = .next t ∧ told t r.seq r.status ∧ arrived t (ieFlag r.blk 3) r.nobar (ieBarNo r.blk) ∧
        (t.ctx c).ie = (if ieFlag r.blk 2 = true ∨ r.status ≠ 0 then some { r with ended := true } else none)) ∧
    (k.mu = some u → u.ended = false → k.jnlState u.seq = jStarted → mayArrive (ieFlag u.blk 3) u.nobar (fieldN u.blk 18 1) →
      ∃ t, exec (.sqCommandEnd c .mu) s = .next t ∧ told t u.seq u.status ∧ arrived t (ieFlag u.blk 3) u.nobar (fieldN u.blk 18 1) ∧
        (t.ctx c).mu = (if ieFlag u.blk 2 = true ∨ u.status ≠ 0 then some { u with ended := true } else none)) ∧
    (k.yqOpen = true → k.seqs.x.exited = false →
      (k.ie = some r → r.fin = true → r.ended = true → ∃ t, exec (.sqCommandEnd c .ie) s = .next t ∧ (t.ctx c).ie = none ∧
        (t.ctx c).yq = k.yq ++ [yqRecord 1 r.seq (r.status * 2 ^ 28 + r.served)] ∧ t.mem = s.mem) ∧
      (k.mu = some u → u.ended = true → ∃ t, exec (.sqCommandEnd c .mu) s = .next t ∧
        (t.ctx c).mu = none ∧ (t.ctx c).yq = k.yq ++ [yqRecord 2 u.seq (u.status * 2 ^ 28 + u.count)] ∧ t.mem = s.mem)))

/-! ## Collectives (R259, R432 to R437) -/

/-- Collectives (R259, R432 to R437). COLL.START releases the stream's stores at MODULE and queues an entry under JNLHEAD. The die's engine
starts the oldest entry of a running context: it takes the steps of a program that passes its checks, and fails another with its status, COMM
where there is no communicator. SEND hands a message to a receive store of this module or to a quay as flits, and completes with the store's
acceptance or with the answer of the other module, LINK where that says so; a receiving step takes its message and writes, adds or forwards it,
fails with FIELD on another length, and any step with PEER where the rank that it waits on has aborted. A message from another module enters
the store of its rank's die, or comes again while that is full. An end writes STATE, and leaves the engine without a reply, or by its YQ record
with one. Two finite images add modulo 2^64. One entry of a context at a time (log 18) and the layout of the flits and of the answer (log 59)
are the model's readings. -/
def Obligations.Collectives : Prop :=
  (∀ (s : State) (c : Nat) (st : Stream) (g : Guard) (d a b : BitVec 5) (comm : BitVec 16) (reply : Bool), s.runs c st g [a, b] [d] = true →
    let k := s.ctx c
    s.quiet c st = true → s.ownHome c st (k.effScope 3).1 = true → k.collq.length < 16 → k.jnlRoom = true →
    ∃ t, exec (.collStart g d a b comm reply) s = .next t ∧ (t.seq c st).rx d = (if d = 0 then 0 else k.csr.jnlhead) ∧
      (t.ctx c).csr.jnlhead = k.csr.jnlhead + 1 ∧ (t.ctx c).jnlState k.csr.jnlhead.toNat = jQueued ∧
      (1 ≤ (k.effScope 3).1 → ∀ x ∈ (t.core k.coreNo).stores, x.ctx = c → x.ag ≠ some st) ∧
      (t.ctx c).collq = k.collq ++ [{ seq := k.csr.jnlhead.toNat, prog := (s.seq c st).rx a, arg := (s.seq c st).rx b,
                                      comm := comm.toNat, reply := reply }]) ∧
  (∀ (s s1 : State) (c n : Nat) (e : CollEntry) (rest : List CollEntry) (m : Comm) (ts : List CollStep), c < s.ctxs.length →
    (s.ctx c).run = .running → (s.vf (s.ctx c).vf).suspended = false → (s.ctx c).coll = none → (s.ctx c).collq = e :: rest → (s.ctx c).jnlState e.seq = jQueued →
    let r : CollRun := { seq := e.seq, entry := e, die := dieOf (s.ctx c).coreNo, rank := 0, steps := [], done := [], out := [], status := 0,
                         fin := false, ended := false, refused := none }
    let p := (s.collPop c 16).1.upCtx c fun k => { k with coll := some r }
    let starts (u : CollRun) : Prop := ∃ t, exec (.collEntryStart c) s = .next t ∧ (t.ctx c).collq = rest ∧ (t.ctx c).coll = some u
    (s.comm? (s.ctx c).vf e.comm = none → starts { r with status := 7, fin := true }) ∧
    (s.comm? (s.ctx c).vf e.comm = some m → s1.ctx c = p.ctx c →
      (p.collProgram c r.die none e m.ranks.length = (s1, .ok (.ok ts)) → starts { r with rank := m.rank, steps := ts }) ∧
      (p.collProgram c r.die none e m.ranks.length = (s1, .ok (.error n)) → starts { r with status := n, fin := true }))) ∧
  (∀ (s s1 s2 : State) (c j z : Nat) (r : CollRun) (x : CollStep) (bs old : List Byte) (m : Comm) (me dest : CommRank) (msg : CollMsg) (a : PeerReq)
    (bad : Bool), c < s.ctxs.length → (s.vf (s.ctx c).vf).suspended = false → (s.ctx c).coll = some r → r.fin = false → r.steps = [x] → r.done = [] →
    let k := s.ctx c
    let va := r.entry.arg + x.off
    let done (t : State) : Prop := ∃ u, (t.ctx c).coll = some u ∧ u.fin = true ∧ u.done = [0] ∧ u.status = r.status
    let failed (t : State) (n : Nat) : Prop := ∃ u, (t.ctx c).coll = some u ∧ u.fin = true ∧ u.done = [] ∧ u.status = n
    let gone (p : Nat) : Bool := s.aborted.contains (k.vf, r.entry.comm, p)
    let receiving : List (Instr × Nat) := [(.recv c, 2), (.recvXadd c, 3), (.recvFadd c, 4), (.fwd c, 5)]
    (x.kind = 1 → r.out = [(0, z)] → (s.reqs.find? fun y => y.tag = z) = some a → a.resp = some (bad, bs) →
      ∃ t, exec (.send c) s = .next t ∧ (if bad then failed t 6 else done t) ∧ (t.reqs = s.reqs.filter fun y => y.tag ≠ z) ∧ t.mem = s.mem) ∧
    (x.kind = 1 → gone x.peer = true → (r.out = [] ∨ (r.out = [(0, z)] ∧ (s.reqs.find? fun y => y.tag = z) = some a ∧ a.resp = none)) →
      ∃ t, exec (.send c) s = .next t ∧ failed t 5 ∧ t.mem = s.mem) ∧
    (x.kind = 5 → gone x.peer2 = true → r.out = [] → ∃ t, exec (.fwd c) s = .next t ∧ failed t 5 ∧ t.mem = s.mem) ∧
    (r.out = [] →
      (x.kind = 1 → gone x.peer = false → s.collRead c r.die r.refused va x.len = (s1, .ok bs) → s1.ctx c = k → s1.comm? k.vf r.entry.comm = some m →
        m.ranks[r.rank]? = some me → m.ranks[x.peer]? = some dest →
        (dest.fabric = me.fabric → s1.storeUsed dest.die + bs.length ≤ 8 * 2 ^ 20 → ∃ t, exec (.send c) s = .next t ∧ done t ∧
          t.recvStore = s1.recvStore ++ [{ vf := dest.vf, comm := r.entry.comm, dst := x.peer, src := r.rank, tag := x.tag, data := bs }]) ∧
        (dest.fabric ≠ me.fabric → s1.route k.vf dest.fabric = some z → z < 24 → ∃ t, exec (.send c) s = .next t ∧
          (t.ctx c).coll = some { r with out := [(0, s1.nextReq)] } ∧ t.recvStore = s1.recvStore ∧ t.nextReq = s1.nextReq + 1 ∧
          (∃ b, t.reqs = s1.reqs ++ [b] ∧ b.tag = s1.nextReq ∧ b.vf = k.vf ∧ b.dest = dest.fabric ∧ b.quay = z ∧ b.n = bs.length ∧ b.resp = none) ∧
          (vgetD t.quays z Quay.reset).waiting = (vgetD s1.quays z Quay.reset).waiting ++
            (collFlits dest.fabric s1.nextReq { vf := dest.vf, comm := r.entry.comm, dst := x.peer, src := r.rank, tag := x.tag, data := bs }).map
              fun f => (k.vf, f))) ∧
      (s.message c r x = none → gone x.peer = true →
        ∀ p ∈ receiving, x.kind = p.2 → ∃ t, exec p.1 s = .next t ∧ failed t 5 ∧ t.mem = s.mem) ∧
      (s.message c r x = some (j, msg) → msg.data.length ≠ x.len → (x.kind = 5 → gone x.peer2 = false) →
        ∀ p ∈ receiving, x.kind = p.2 → ∃ t, exec p.1 s = .next t ∧ failed t 1 ∧ t.recvStore = s.recvStore.eraseIdx j ∧ t.mem = s.mem) ∧
      (s.message c r x = some (j, msg) → msg.data.length = x.len →
        (x.kind = 2 → s.collWrite c r.die r.refused va msg.data = (s2, .ok ()) → s2.ctx c = k →
          ∃ t, exec (.recv c) s = .next t ∧ done t ∧ t.recvStore = s2.recvStore.eraseIdx j ∧ t.mem = s2.mem) ∧
        (s.collRead c r.die r.refused va x.len = (s1, .ok old) → s1.collWrite c r.die r.refused va (collCombine x.kind x.len old msg.data).1 = (s2, .ok ()) →
          s2.ctx c = k →
          (x.kind = 3 → ∃ t, exec (.recvXadd c) s = .next t ∧ done t ∧ t.recvStore = s2.recvStore.eraseIdx j ∧ t.mem = s2.mem) ∧
          (x.kind = 4 → ∃ t, exec (.recvFadd c) s = .next t ∧ done t ∧ t.recvStore = s2.recvStore.eraseIdx j ∧ t.mem = s2.mem ∧
            (t.ctx c).csr.vstat = k.csr.vstat ||| (collCombine 4 x.len old msg.data).2)) ∧
        (x.kind = 5 → gone x.peer2 = false → s.comm? k.vf r.entry.comm = some m → m.ranks[r.rank]? = some me → m.ranks[x.peer2]? = some dest →
          dest.fabric = me.fabric → s.storeUsed dest.die + msg.data.length ≤ 8 * 2 ^ 20 →
          ∃ t, exec (.fwd c) s = .next t ∧ done t ∧ t.mem = s.mem ∧ t.recvStore = s.recvStore.eraseIdx j ++
            [{ vf := dest.vf, comm := r.entry.comm, dst := x.peer2, src := r.rank, tag := x.tag, data := msg.data }])))) ∧
  (∀ (s : State) (die : Nat) (m : Comm) (dest : CommRank) (msg : CollMsg), s.comm? msg.vf msg.comm = some m → m.ranks[msg.dst]? = some dest →
    dest.die = die → dest.vf = msg.vf →
    (s.storeUsed die + msg.data.length ≤ 8 * 2 ^ 20 → exec (.collMessageArrive die msg) s = .next { s with recvStore := s.recvStore ++ [msg] }) ∧
    (8 * 2 ^ 20 < s.storeUsed die + msg.data.length → s.awaited msg = false →
      exec (.collMessageArrive die msg) s = .next { s with deferred := s.deferred ++ [.collMessageArrive die msg] })) ∧
  (∀ (s : State) (c : Nat) (r : CollRun), c < s.ctxs.length → (s.vf (s.ctx c).vf).suspended = false → s.reqs = [] → (s.ctx c).coll = some r → r.fin = true →
    (r.ended = false → (s.ctx c).jnlState r.seq = jStarted → ∃ t, exec (.collEntryEnd c) s = .next t ∧
      (t.ctx c).jnlState r.seq = (if r.status = 0 then jDone else jFailed) ∧
      (t.ctx c).coll = (if r.entry.reply = true ∨ r.status ≠ 0 then some { r with ended := true } else none)) ∧
    (r.ended = true → (s.ctx c).core.isSome = true → (s.ctx c).yqOpen = true → (s.ctx c).seqs.x.exited = false →
      ∃ t, exec (.collEntryEnd c) s = .next t ∧ (t.ctx c).coll = none ∧
        (t.ctx c).yq = (s.ctx c).yq ++ [yqRecord 3 r.seq (r.status * 2 ^ 28 + r.done.length)] ∧ t.mem = s.mem)) ∧
  (∀ a b : Word, (∀ w ∈ [a, b], w ≠ 0x8000000000000000 ∧ w ≠ 0x7FFFFFFFFFFFFFFF ∧ w ≠ 0x8000000000000001) → xAdd a b = a + b)

/-! ## Faults, checkpoints and restoration (R301 to R320, R359) -/

/-- Taking a fault (R301, R306): FAULTCAUSE holds DETAIL, SOURCE, PRECISE, MODE and the code, FAULTADDR the address, FAULTPCn of a
precise fault the restart address; a later fault of another agent changes neither FAULTCAUSE nor FAULTADDR; registers, memory, tokens
and the other contexts stay. -/
def Obligations.TakingAFault : Prop :=
  ∀ (s : State) (c : Nat) (f g : Pending), c < s.ctxs.length → (s.ctx c).pend = [] → f.cause.code ∉ [0, 0x07] → g.cause.code ∉ [0, 0x07] →
    let t := takeFault s c f
    (t.ctx c).csr.faultcause = BitVec.ofNat 64 (f.cause.detail * 2 ^ 24 + f.source * 2 ^ 20 + b2n f.precise * 2 ^ 19 + b2n (s.strict c) * 2 ^ 16 +
      f.cause.code) ∧ (t.ctx c).csr.faultaddr = f.cause.addr ∧
    (f.precise = true → ∀ (i : Nat) (st : Stream) (h : i < 4), f.source = i → st.code = i →
      (t.ctx c).csr.faultpc[i] = (s.ctx c).restart st ∧ ∀ j (hj : j < 4), j ≠ i → (t.ctx c).csr.faultpc[j] = (s.ctx c).csr.faultpc[j]) ∧
    (∀ st, t.seq c st = s.seq c st) ∧ (t.ctx c).tok = (s.ctx c).tok ∧ (t.ctx c).v = (s.ctx c).v ∧ t.mem = s.mem ∧ t.cores = s.cores ∧
    (∀ d, d ≠ c → t.ctx d = s.ctx d) ∧
    (f.tide < g.tide ∨ (f.tide = g.tide ∧ f.source ≤ g.source) →
      ((takeFault t c g).ctx c).csr.faultcause = (t.ctx c).csr.faultcause ∧ ((takeFault t c g).ctx c).csr.faultaddr = f.cause.addr)

/-- From the cycle after a fault the context stops (R307); when the stop has settled the frame closes and FC3 acts by the cause's table
(R302, R308): DEBUG halts where a debugger is attached and is END without one, END ends the launch with STATUS FAULT and the code, AUTO has FC2
answer under the function's policy, after which the context runs, waits for its fault record, or holds, and HOLD waits for the driver, whose
answer or 2^34 cycles end the wait. In strict mode every cause ends the launch, but that a breakpoint halts where a debugger is attached (R311).
A fault record without an answer is declined after 2^34 cycles, and a saved context becomes resident with its queues rebuilt (R319, R320,
R359). What FC2 declines under ZEROFILL is log 41; that the restored SPBASE is the lowest base with room is the model's choice (log 39), and
where the save area holds the vector registers, tiles and barriers too (log 69). -/
def Obligations.StopsAndActions : Prop :=
  (∀ (s : State) (c t0 : Nat) (f : Pending) (it : Iter) (l : Launch), c < s.ctxs.length →
    let k := s.ctx c
    let endsWith (t : State) (code : Nat) : Prop :=
      ∃ l', t.launch? it.launch = some l' ∧ l'.ended = true ∧ l'.status = some (0x0A, code) ∧ (t.ctx c).iter = none
    (k.run = .running → k.pend = [f] → f.tide < s.tide → f.cause.code ≠ 0 → k.region = none → ∃ t, exec (.faultStop c) s = .next t ∧
      (t.ctx c).run = .stopping ∧ (t.ctx c).eqM = [] ∧ (t.ctx c).eqV = [] ∧ (t.ctx c).eqS = [] ∧ (t.ctx c).boost.entries = [] ∧
      (t.ctx c).frame.tide = f.tide ∧ (t.ctx c).frame.equeue = k.equeue ∧ (t.ctx c).csr.faultcause = k.csr.faultcause ∧ t.mem = s.mem) ∧
    let debug : List Nat := [0x22, 0x40, 0x41, 0x43]
    let ends : Prop := k.csr.faultcause.toNat % 256 = f.cause.code → k.iter = some it → s.launch? it.launch = some l → l.status = none →
      ∃ t, exec (.frameClose c) s = .next t ∧ endsWith t f.cause.code
    let halts : Prop := ∃ t, exec (.frameClose c) s = .next t ∧ (t.ctx c).run = .halted ∧ bitN (t.ctx c).csr.faultcause 18 = true
    let s1 := (((s.owePosts c).closeFrame c 1).upCtx c fun k => { k with run := .faulted }).writeFrame c
    let va := f.cause.addr.toNat
    let holds : Prop := ∃ t, exec (.frameClose c) s = .next t ∧ (t.ctx c).run = .faulted ∧ (t.ctx c).hold = some s1.tide
    let runs : Prop := ∃ t, exec (.frameClose c) s = .next t ∧ (t.ctx c).run = .running ∧ (t.ctx c).pend = []
    (k.run = .stopping → k.settled s.tide = true → k.pend = [f] → f.cause.code ≠ 0 →
      (s.strict c = true → (k.dbg = false ∨ f.cause.code ∉ [0x41, 0x43]) → ends) ∧
      (f.cause.code ∈ debug → k.dbg = true → (s.strict c = false ∨ f.cause.code ∈ [0x41, 0x43]) → halts) ∧
      (s.strict c = false →
        (f.cause.code ∈ debug → k.dbg = false → ends) ∧
        (f.cause.code ∉ [0x11, 0x1A, 0x1B] ++ debug → ends) ∧
        (f.cause.code ∈ [0x11, 0x1B] → k.flight = [] → ∃ t, exec (.frameClose c) s = .next t ∧ (t.ctx c).run = .faulted ∧
          (t.ctx c).hold = some s.tide ∧ t.pflog.length = s.pflog.length + 1 ∧ (t.vf k.vf).log.length = (s.vf k.vf).log.length + 1) ∧
        (f.cause.code = 0x1A →
          (s1.grants k.vf va f.cause.wr = true → runs) ∧
          (s1.grants k.vf va f.cause.wr = false →
            ((s1.vf k.vf).paging ∉ [1, 2] → holds) ∧
            ((s1.vf k.vf).paging = 1 → if (s1.zeroFill k.vf va f.cause.wr).isSome then runs else holds) ∧
            ((s1.vf k.vf).paging = 2 → (s1.faults.find? fun r => r.vf = k.vf && r.va.toNat / 65536 = va / 65536) = none →
              ∃ t, exec (.frameClose c) s = .next t ∧ (t.ctx c).run = .paging s1.nextFault ∧ t.nextFault = s1.nextFault + 1 ∧
                t.faults = s1.faults ++ [{ num := s1.nextFault, vf := k.vf, ctx := ctxid c, va := f.cause.addr,
                                           need := if f.cause.wr then 2 else 1, tide := s1.tide }]))))) ∧
    (k.run = .faulted → k.was = none → k.hold = some t0 →
      (∃ t, exec (.holdAnswer c true) s = .next t ∧ (t.ctx c).run = .running ∧ (t.ctx c).hold = none ∧ (t.ctx c).pend = []) ∧
      (k.iter = some it → s.launch? it.launch = some l → l.status = none →
        (∃ t, exec (.holdAnswer c false) s = .next t ∧ endsWith t (k.frame.cause.toNat % 256)) ∧
        (t0 + 2 ^ 34 ≤ s.tide → ∃ t, exec (.holdAbortTimeout c) s = .next t ∧ endsWith t (k.frame.cause.toNat % 256))))) ∧
  ((∀ (s : State) (r : FaultRec), r ∈ s.faults → r.tide + 2 ^ 34 ≤ s.tide →
    ∃ t, exec (.faultRecordTimeout r.num) s = .next t ∧ t.faults = s.faults.filter fun x => x.num ≠ r.num) ∧
  (∀ (s : State) (c core b a r : Nat), c < s.ctxs.length → core < 128 →
    let k := s.ctx c
    let n := k.endBlk - k.baseBlk
    s.fitsNow c core = true → k.saved = true → k.iter = none → s.room core n k.acount k.bcount = some (b, a, r) → s.areaError k = none →
    ∃ t, exec (.restoreContext c core) s = .next t ∧ (t.ctx c).run = .idle ∧ (t.ctx c).core = some core ∧ (t.ctx c).saved = false ∧
      (∀ i, i < k.acount → vgetD (t.core core).tiles (a + i) Tile.zero = (s.savedTile k i).restored) ∧
      (∀ i, i < k.bcount → vgetD (t.core core).bars (r + i) Barrier.raw = s.savedBar k i) ∧
      (t.ctx c).csr.spbase = BitVec.ofNat 64 b ∧ (t.ctx c).csr.splimit = BitVec.ofNat 64 (b + n) ∧
      (t.ctx c).fq = (k.journal.filter fun e => e.state = jQueued && e.queue = 1).map (fun e => ⟨fieldW e.body 0, e.seq⟩) ∧
      (∀ st, t.seq c st = s.seq c st) ∧ (t.ctx c).v = ((s.areaGet (k.saveArea + areaVec) 132096).filter fun e => decide (e.1 < 131072)) ∧ t.mem = s.mem))

/-! ## Placement and pre-emption (R315, R318, R392 to R398) -/

/-- A walker starts an iteration in the context it takes: the streams at the launch's entries, the registers preloaded, no token held; a
cohort's group starts as one (R7, R13, R395, R396). When every iteration has executed TRIG or retired the launch releases its dependants
(R397). Which context and which allotment a walker takes is the model's choice (log 39). -/
def Obligations.Placement : Prop :=
  (∀ (s s' : State) (n die i core c : Nat) (l : Launch), s.launch? n = some l → l.ended = false → (s.queue.any fun e => e.1 = n) = true →
    s.outranked n die = false → s.returns n die = false → s.claim l die = some (i, core) →
    s.takeCore l core = some (s', c) → c < s'.ctxs.length → s'.launch? n = some l →
    ∃ t, exec (.placeIteration n die) s = .next t ∧ (t.ctx c).run = .running ∧ ((t.ctx c).iter.map fun x => (x.launch, x.ordinal)) = some (n, i) ∧
      (∀ p ∈ [(Stream.x, 0), (.l, 1), (.c, 2), (.s, 3)], (t.seq c p.1).pc = BitVec.ofNat 64 (l.image + l.lrec.entries.getD p.2 0) ∧
        (t.seq c p.1).exited = false ∧ (t.seq c p.1).rx 27 = l.argva ∧ (t.seq c p.1).rx 26 = BitVec.ofNat 64 (l.lrec.flat i) ∧
        (t.seq c p.1).rx 1 = 0) ∧
      (t.ctx c).tok = Vector.replicate 13 0 ∧ (t.launch? n).map (·.placed) = some (l.placed + 1) ∧ t.mem = s'.mem) ∧
  (∀ (s s' : State) (n : Nat) (l : Launch) (ms : List (Nat × Nat)), s.launch? n = some l → l.ended = false → l.lrec.cohort ≠ 0 →
    (s.queue.any fun e => e.1 = n) = true → ((List.range 8).any fun d => s.outranked n d || s.returns n d) = false →
    s.takeGroup l l.groupSize (s.launchCores l) = some (s', ms) → s'.launch? n = some l → (∀ m ∈ ms, s.walkerBusy (m.2 / 16) = false) →
    ∃ t l', exec (.placeCohort n) s = .next t ∧ t.launch? n = some l' ∧ l'.placed = l.placed + ms.length ∧
      l'.group.map (·.1) = l.group.map (·.1) ++ ms.map (·.2)) ∧
  (∀ (s : State) (n : Nat) (l : Launch), s.launch? n = some l → l.ended = false → l.released = false → l.lrec.total ≤ l.retired + s.trigCount n →
    (l.retired = 0 ∨ l.retireTide < s.tide) →
    exec (.triggerRelease n) s = .next (s.upLaunch n fun l => { l with released := true }))

/-- Tokens and pre-emption (R315, R318, R394, R398): every function's balance takes its grant at the start of a period, at most 65,535; a
launch without a core for 2^20 cycles is judged, and pays for the checkpoint of its victim; a quantum ends a context's turn. What a drain
keeps free is the model's reading (log 54). -/
def Obligations.Preemption : Prop :=
  (∀ s : State, swf Vf.reset s.vfs = true → s.periodNo ≤ s.tide / 2 ^ 24 → ∃ t, exec .periodStart s = .next t ∧ t.periodNo = s.periodNo + 1 ∧
    t.mem = s.mem ∧ ∀ v, (t.vf v).balance = min 65535 ((s.vf v).balance + (s.vf v).grant)) ∧
  (∀ (s : State) (n v : Nat) (l lv : Launch) (it : Iter), s.launch? n = some l → l.ended = false → l.placed = 0 → l.admitted + 2 ^ 20 ≤ s.tide →
    l.judged = 0 ∨ l.judged = 2 →
    let free := (s.coresFor l).filter fun core => (s.takeCore l core).isSome
    let vs := s.victims l (max 1 l.lrec.cohort - free.length)
    let k := s.ctx v
    (vs = [] → exec (.newcomerTimeout n) s = .next (s.upLaunch n fun x => { x with judged := 1 })) ∧
    (vs = [(v, lv)] → v < s.ctxs.length → k.run = .running → firstFault k.pend = none → k.region = none → k.iter = some it → s.launch? it.launch = some lv → it.launch ≠ n → lv.lrec.cohort = 0 →
      decision true (lv.lrec.flags / 2 % 2 = 1) (k.csr.est.toNat * 1024) (s.drainBound k.sleeve) k.saveCost (s.bidOf l.vf) lv.lrec.prio = 2 →
      ∃ t l', exec (.newcomerTimeout n) s = .next t ∧ (t.ctx v).run = .saving ∧ (t.vf l.vf).balance = (s.vf l.vf).balance - s.bidOf l.vf * 256 ∧
        t.launch? n = some l' ∧ l'.judged = 3 ∧ t.mem = s.mem)) ∧
  (∀ (soft killable : Bool) (t d c bid cls : Nat), decision soft killable t d c bid cls =
    if soft = true ∧ t ≤ d then 1 else if bid < 9 * cls then 0 else if killable = true ∧ t < 4 * c then 3 else 2) ∧
  (∀ (s : State) (c : Nat) (it : Iter) (l new : Launch) (d : Drain), c < s.ctxs.length →
    let k := s.ctx c
    (k.run = .running → k.iter = some it → s.launch? it.launch = some l → l.drain = [d] → d.ctx = c → d.soft = true → it.launch ≠ d.newcomer →
      d.since + 2 * s.drainBound k.sleeve ≤ s.tide → s.launch? d.newcomer = some new → new.ended = false → new.placed < max 1 new.lrec.cohort →
      decision false (l.lrec.flags / 2 % 2 = 1) (k.csr.est.toNat * 1024) (s.drainBound k.sleeve) k.saveCost (s.bidOf new.vf) l.lrec.prio = 0 →
      ∃ t l' n', exec (.drainRedecide c) s = .next t ∧ t.launch? it.launch = some l' ∧ l'.drain = [] ∧ t.launch? d.newcomer = some n' ∧
        n'.judged = 1 ∧ (t.ctx c).run = .running) ∧
    (k.core.isSome = true → k.run = .running → (s.sleeves.any fun z => z.num = k.sleeve && z.kind = 2) = true → k.spent = false →
      k.quantum + 2 ^ 22 ≤ s.tide → s.slotWanted k.coreNo k.sleeve k.vf = true →
      exec (.quantumExpire c) s = .next (s.upCtx c fun k => { k with spent := true, quantum := s.tide })) ∧
    (k.run = .running → k.spent = true → k.quantum + 2 * s.drainBound k.sleeve ≤ s.tide → firstFault k.pend = none → k.region = none →
      (∀ it l, k.iter = some it → s.launch? it.launch = some l → l.lrec.cohort = 0) →
      ∃ t, exec (.quantumCheckpoint c) s = .next t ∧ (t.ctx c).run = .saving ∧ (t.ctx c).csr.faultcause = 0 ∧ t.mem = s.mem))

/-! ## The drydock (R438 to R448) -/

/-- Leases are asked for when a unit's rotation or watch comes round; a grant holds a core on which nothing is placed, a quay whose
traffic can move and a channel; the outcome sets score and state, a second FAIL retires the unit (a channel serves in WATCH
until its die's highest 2 GiB is in no sleeve), and a limit on the hold returns it; scores decay by a sixteenth; a channel is held one 64 KiB
window at a time, and a window that cannot be restored reads as uncorrectable and makes the outcome FAIL. A core's patterns run in a strict
context of function 0 (R439), TEND stays 0 where the unit is not returned (R438), and the retirement table is signed again (R448). LEASEID, the
merged REASON, the outcome at the hold limit and the end of a channel hold are the model's readings (logs 45 and 58), and what the patterns put
out is observed (log 13). -/
def Obligations.Leases : Prop :=
  (∀ (s : State) (k : UnitKind) (u t0 : Nat), u < unitCount k →
    let free : Prop := (s.leases.any fun x => x.kind = k && x.unit = u && x.open?) = false
    let asked (t : State) (reason : Nat) : Prop := t.ctxs = s.ctxs ∧ t.mem = s.mem ∧ (k = .core → (t.core u).leasePending = true) ∧
      ∃ r, t.leases.getLast? = some r ∧ r.id = s.nextLease ∧ r.kind = k ∧ r.unit = u ∧ r.reason = reason ∧ r.treq = s.tide ∧
        r.score0 = (s.unitRec k u).score ∧ r.state = if k = .core then 2 else 1
    s.unitOut k u = false → free →
    (s.rotationDue k u ≤ s.tide → ∃ t, exec (.rotationLease k u) s = .next t ∧ asked t 0) ∧
    ((s.unitRec k u).watchDue = some t0 → t0 ≤ s.tide →
      ∃ t, exec (.watchLease k u) s = .next t ∧ asked t 2 ∧ (t.unitRec k u).watchDue = none)) ∧
  (∀ s : State, s.decayNo ≤ s.tide / 2 ^ 32 → ∃ t, exec .scoreDecay s = .next t ∧ t.decayNo = s.decayNo + 1 ∧ t.mem = s.mem ∧
    ∀ k u, (t.unitRec k u).score = (s.unitRec k u).score - (s.unitRec k u).score / 16) ∧
  (∀ (s : State) (l : Lease), s.lease? l.id = some l →
    let held (t : State) : Prop := (t.lease? l.id).map (fun x => (x.state, x.tgrant)) = some (3, s.tide)
    (l.kind = .core → l.state = 2 → l.unit < 128 → s.coreIdle l.unit = true → s.coreHeld l.unit = false → s.dieLeased l.unit = false →
      ∃ t, exec (.leaseGrant l.id) s = .next t ∧ (t.core l.unit).leased = true ∧ (t.core l.unit).leasePending = false ∧
        (s.residents l.unit = [] → l.ctx = none → held t ∧ t.mem = s.mem ∧ (s.newCtxNo.isSome = true →
          ∃ c, (t.lease? l.id).map (·.ctx) = some (some c) ∧ (t.ctx c).core = some l.unit ∧ (t.ctx c).vf = 0 ∧ t.strict c = true ∧
            (t.ctx c).endBlk = 1024 ∧ (t.ctx c).baseBlk = 0 ∧ (t.ctx c).acount = 32))) ∧
    (l.kind = .quay → l.state = 1 → l.unit < 24 → ((s.entriesOver l.unit).any fun e => (s.otherQuay l.unit e.2).isNone) = false →
      ∃ t, exec (.leaseGrant l.id) s = .next t ∧ held t ∧ (vgetD t.quays l.unit Quay.reset).leased = true ∧ t.mem = s.mem) ∧
    (l.kind = .channel → l.state = 1 → ∃ t, exec (.leaseGrant l.id) s = .next t ∧ held t ∧ t.mem = s.mem) ∧
    (∀ c it lv, l.kind = .core → l.state = 2 → l.treq + 162000000000 ≤ s.tide → s.holders l.unit = [c] → (s.ctx c).iter = some it →
      ((s.ctx c).run = .running → firstFault (s.ctx c).pend = none → s.launch? it.launch = some lv → lv.lrec.cohort = 0 →
        ∃ t, exec (.leaseForceCheckpoint l.id) s = .next t ∧ (t.ctx c).run = .saving) ∧
      (∀ r ∈ [Run.faulted, .halted], (s.ctx c).run = r →
        ∃ t, exec (.leaseForceCheckpoint l.id) s = .next t ∧ (t.ctx c).run = .saved ∧ (t.ctx c).was = some r ∧ (t.ctx c).core = none)) ∧
    (l.kind = .quay → l.state = 1 → l.treq + 2 ^ 24 ≤ s.tide → ∃ t, exec (.quayLeaseDefer l.id) s = .next t ∧
      (t.lease? l.id).map (fun x => (x.state, x.tend)) = some (7, l.tend) ∧ (t.unitRec .quay l.unit).lastLease = s.tide) ∧
    (l.state = 3 → l.kind ≠ .channel → l.unit < unitCount l.kind → s.serves l.kind l.unit = true → (l.ctx.isSome = true → ∀ n, (s.core n).stores = []) →
      l.tgrant + (if l.kind = .quay then 2 ^ 30 else if l.retest then 2 ^ 29 else 2 ^ 28) ≤ s.tide →
      ∃ t, exec (.leaseHoldLimit l.id) s = .next t ∧ (l.kind = .core → (t.core l.unit).leased = false) ∧
        (l.kind = .quay → (vgetD t.quays l.unit Quay.reset).leased = false) ∧
        (t.lease? l.id).map (fun x => (x.state, x.tend)) = some (if l.retest then 5 else 4, s.tide)) ∧
    (∀ o : LeaseObs, l.state = 3 → l.unit < unitCount l.kind → (l.ctx.isSome = true → ∀ n, (s.core n).stores = []) →
      let score := (s.unitRec l.kind l.unit).score
      let ends (t : State) (st out : Nat) : Prop := (t.lease? l.id).map (fun x => (x.state, x.outcome)) = some (st, out)
      let returned (t : State) : Prop := l.kind = .core → (t.core l.unit).leased = false
      let n := s.outcomeOf l o
      (n = 1 → l.retest = false → ∃ t, exec (.leaseOutcome l.id o) s = .next t ∧ ends t 4 1 ∧ returned t ∧
        (t.unitRec l.kind l.unit).score = score / 2) ∧
      (n = 2 → l.retest = false → ∃ t, exec (.leaseOutcome l.id o) s = .next t ∧ ends t 5 2 ∧ returned t ∧
        (t.unitRec l.kind l.unit).score = min 65535 (score + 128) ∧
        (t.unitRec l.kind l.unit).watchDue = some (s.tide + s.period l.kind / 16)) ∧
      (n = 3 → l.retest = false → ∃ t, exec (.leaseOutcome l.id o) s = .next t ∧ ends t 3 3 ∧ t.retired = s.retired ∧
        (t.lease? l.id).map (·.retest) = some true ∧ (t.unitRec l.kind l.unit).score = min 65535 (score + 1024)) ∧
      (n ≠ 3 → l.retest = true → ∃ t, exec (.leaseOutcome l.id o) s = .next t ∧ ends t 5 n ∧ returned t ∧
        (t.unitRec l.kind l.unit).score = min 65535 (score + 256)) ∧
      (n = 3 → l.retest = true → s.retired.length < 1024 → ∃ t r, exec (.leaseOutcome l.id o) s = .next t ∧
        ((l.kind = .core → ∀ z ∈ s.sleeves, l.unit ∉ z.cores) → ends t (if l.kind = .channel ∧ t.channelGone l.unit = false then 5 else 6) 3 ∧
          (l.kind ≠ .channel → (t.lease? l.id).map (·.tend) = some 0)) ∧
        t.tableSig = Config.sign (t.retired.flatMap Retired.bytes) ∧ t.retired = s.retired ++ [r] ∧ r.kind = l.kind ∧ r.unit = l.unit ∧ r.score = score ∧ r.patset = l.patset ∧ r.tide = s.tide ∧
        t.unitOut l.kind l.unit = true))) ∧
  (∀ (s : State) (c w : Nat) (l : Lease), (s.leases.find? fun x => x.kind = .channel && x.unit = c && x.state = 3) = some l → w < 32768 →
    (s.holds.any fun h => h.channel / 32 = c / 32) = false → (∀ e ∈ s.lastHold, e.1 = c → e.2 + 324000 ≤ s.tide) →
    ∃ t, exec (.channelHold c w) s = .next t ∧ t.holds = s.holds ++ [{ channel := c, lease := l.id, window := w, since := s.tide }] ∧
      t.mem = s.mem ∧ t.uncorr = s.uncorr) ∧
  (∀ (s : State) (c : Nat) (h : ChanHold), (s.holds.find? fun x => x.channel = c) = some h →
    (∃ t, exec (.channelHoldEnd c true) s = .next t ∧ t.holds = s.holds.filter (fun x => x.channel ≠ c) ∧ t.uncorr = s.uncorr ∧ t.mem = s.mem) ∧
    (∃ t, exec (.channelHoldEnd c false) s = .next t ∧ t.holds = s.holds.filter (fun x => x.channel ≠ c) ∧ t.mem = s.mem ∧
      (∀ l, s.lease? h.lease = some l → ∀ o, ∃ l', t.lease? h.lease = some l' ∧ t.outcomeOf l' o = 3) ∧ ∀ x, x ∈ t.uncorr ↔ x ∈ s.uncorr ∨ x ∈ windowSectors c h.window))

/-! ## The quays (R417, R427 to R431) -/

/-- In a flit time of 81/25 tide cycles a quay sends a flit again that its peer has missed, else the oldest flit with a credit of the master it
chooses, with its sequence number, spending the credit, returning those that it owes for a VC and keeping 512 flits for a retry, else an
acknowledgement of what has come in; the only reservation that is owed a whole flit goes first, and the spare flit times go to the one whose part
is due (R417). A flit received in sequence is delivered, and the credits that it brings return: a request of a peer is performed at its home and
answered, a message enters the receive store, a response completes its request; another flit is dropped and nakked. A nak sends again what
followed, and the sixteenth in a row retrains the link, which returns within 1 ms or goes down. How many credits a VC has is a free value, and
which VC's are returned first and the layout of requests and answers are the model's choice (log 59). -/
def Obligations.Quays : Prop :=
  ∀ (s : State) (n : Nat) (f : Flit) (a : BitVec 12), n < 24 →
    let q := vgetD s.quays n Quay.reset
    let now (t : State) : Quay := vgetD t.quays n Quay.reset
    let others (t : State) : Prop := t.mem = s.mem ∧ t.ctxs = s.ctxs ∧ ∀ m ≠ n, vgetD t.quays m Quay.reset = vgetD s.quays m Quay.reset
    let p := f.payload
    let tag := fieldN p 16 8
    let len := fieldN p 24 8
    (q.up = true → q.retraining = false → q.free < 25 * s.tide + 25 →
      (∀ g rest, q.resend = g :: rest → (∀ e ∈ q.waiting, (s.vf e.1).suspended = false) → ∃ t, exec (.quayFlitSend n) s = .next t ∧ others t ∧
        (now t).resend = rest ∧ (now t).sent = q.sent ++ [g] ∧ (now t).sendSeq = q.sendSeq ∧ (now t).waiting = q.waiting ∧
        (now t).free = max q.free (25 * s.tide) + 81) ∧
      (q.resend = [] → q.waiting = [] → q.ackDue = true → ∃ t g, exec (.quayFlitSend n) s = .next t ∧ others t ∧ (now t).sent = q.sent ++ [g] ∧
        g.vc = 0 ∧ g.ty = 2 ∧ g.fseq = q.sendSeq ∧ g.aseq = q.expect - 1 ∧ (now t).sendSeq = q.sendSeq + 1 ∧ (now t).ackDue = false) ∧
      (q.resend = [] → q.ready ≠ [] → (∀ e ∈ q.waiting, (s.vf e.1).suspended = false) →
        ∃ t i e, exec (.quayFlitSend n) s = .next t ∧ others t ∧ q.waiting[i]? = some e ∧
          q.mayUse e.2.vc = true ∧ (∀ j < i, ∀ x, q.waiting[j]? = some x → q.mayUse x.2.vc = true → flitMaster x ≠ flitMaster e) ∧
          (∀ m ∈ q.masters, 0 < q.share m → 256 ≤ q.owed m + q.share m →
            (∀ m' ∈ q.masters, 0 < q.share m' → 256 ≤ q.owed m' + q.share m' → m' = m) → flitMaster e = m) ∧
          ((∀ m ∈ q.masters, 0 < q.share m → q.owed m + q.share m < 256) → ∀ m ∈ q.masters, 0 < q.share m → 0 < q.share (flitMaster e) ∧
            q.spareOf m + q.share m ≤ q.spareOf (flitMaster e) + q.share (flitMaster e)) ∧
          let g : Flit := { e.2 with fseq := q.sendSeq, aseq := q.expect - 1, credVc := q.toReturn.1, cred := q.toReturn.2 }
          vcCount (now t).spent e.2.vc = vcCount q.spent e.2.vc + 1 ∧ vcCount (now t).owes g.credVc = 0 ∧
          (now t).waiting = q.waiting.eraseIdx i ∧ (now t).sent = q.sent ++ [g] ∧ (now t).sendSeq = q.sendSeq + 1 ∧
          (now t).retry = (q.retry ++ [g]).drop (q.retry.length + 1 - 512) ∧ (now t).free = max q.free (25 * s.tide) + 81)) ∧
    (q.up = true → q.retraining = false →
      (∀ ok : Bool, ok = false ∨ (f.fseq ≠ q.expect ∧ ¬(f.vc = 0 ∧ f.ty = 0)) → ∃ t, exec (.flitReceive n f ok) s = .next t ∧ others t ∧
        now t = { q with waiting := q.waiting ++ [(4096, linkFlit 3)] }) ∧
      (f.fseq = q.expect →
        (3 < f.vc → ∃ t, exec (.flitReceive n f true) s = .next t ∧ others t ∧
          now t = { q with expect := q.expect + 1, dropped := q.dropped + 1 }) ∧
        (f.vc ≤ 3 → ∃ t, exec (.flitReceive n f true) s = .next t ∧
          ((now t).expect = if f.vc = 0 ∧ f.ty = 0 then q.expect else q.expect + 1) ∧
          vcCount (now t).spent f.credVc = vcCount q.spent f.credVc - f.cred ∧
          (f.ty ≠ 1 → others t ∧ (now t).owes = q.owes ∧ (now t).received = q.received) ∧
          (f.ty = 1 → (f.vc = 0 ∧ q.received = []) ∨ f.vc = 2 → t.mem = s.mem ∧ vcCount (now t).owes f.vc = vcCount q.owes f.vc + 1) ∧
          (f.ty = 3 → (now t).naks = q.naks + 1 ∧ (now t).resend = afterSeq f.aseq q.retry) ∧
          (f.ty = 1 → f.vc = 2 → ∀ r, (s.reqs.find? fun r => r.tag = tag && r.resp.isNone) = some r →
            (r.op = 2 → t.reqs = s.reqs.filter fun x => x.tag ≠ tag) ∧
            (r.op ≠ 2 → { r with resp := some (fieldN p 1 1 ≠ 0, (p.drop 32).take r.n) } ∈ t.reqs)) ∧
          (f.ty = 1 → f.vc = 1 → q.received = [] → len ≤ 128 → ∀ num vf base, (s.exports.find? fun e => e.1 = fieldN p 8 4) = some (num, vf, base) →
            let pa := base + fieldN p 12 4
            isDevice pa = true → pa % 128 + len ≤ 128 → s.pinnedElsewhere 128 pa = false → s.holds = [] → s.uncorr = [] → s.netBad = false →
            (fieldN p 0 1 = 1 → s.targetPass vf agPeer vf .rd pa = true → t.mem = s.mem ∧ (now t).waiting =
              q.waiting ++ [(vf, vcFlit 2 (transportHead 17 0 (fieldN p 4 2) vf 0 0 tag len ++ s.homeBytes vf pa len))]) ∧
            (fieldN p 0 1 = 2 → s.targetPass vf agPeer vf .wr pa = true → t.homeBytes vf pa len = fit len (p.drop 32) ∧
              (now t).waiting = q.waiting ++ [(vf, vcFlit 2 (transportHead 18 0 (fieldN p 4 2) vf 0 0 tag 0))])) ∧
          (f.ty = 1 → f.vc = 3 → q.received = [] → len ≤ messageBytes → p.length = flitPayload →
            (s.arriving.any fun x => x.source = fieldN p 4 2 && x.tag = tag) = false → ∀ k r,
            s.comm? (fieldN p 6 2) (fieldN p 8 4) = some k → k.ranks[fieldN p 32 2]? = some r → s.storeUsed r.die + len ≤ 8 * 2 ^ 20 →
            t.mem = s.mem ∧ t.recvStore = s.recvStore ++ [{ vf := fieldN p 6 2, comm := fieldN p 8 4, dst := fieldN p 32 2, src := fieldN p 34 2,
                                                            tag := fieldN p 36 2, data := (p.drop 40).take len }] ∧
            (now t).waiting = q.waiting ++ [(fieldN p 6 2, vcFlit 2 (transportHead 21 0 (fieldN p 4 2) (fieldN p 6 2) 0 0 tag 0))])))) ∧
    (q.up = true → ∃ t, exec (.nakReceive n a) s = .next t ∧ others t ∧ (now t).resend = afterSeq a q.retry ∧ (now t).naks = q.naks + 1 ∧
      ((now t).retraining = true ↔ q.retraining = true ∨ 16 ≤ q.naks + 1)) ∧
    (q.retraining = true →
      (q.since + 2700000 ≤ s.tide → (∃ t, exec (.linkDown n) s = .next t ∧ t.mem = s.mem ∧ (now t).up = false ∧ (now t).retraining = false ∧
        (now t).naks = 0 ∧ t.pflog = s.pflog ++ [.event .linkDown 0 0 (BitVec.ofNat 64 n)]) ∧ exec (.linkRetrained n) s = .next s) ∧
      (s.tide < q.since + 2700000 → exec (.linkDown n) s = .next s ∧
        ∃ t, exec (.linkRetrained n) s = .next t ∧ others t ∧ now t = { q with retraining := false, naks := 0 }))

/-! ## Rings and commands (R366 to R389) -/

/-- The registers of a ring page (R365 to R375): what a read answers, what a write, a fetch-add or a doorbell changes, and what the controls
HALT, RESUME, CANCEL, KILL and RESET do; the other rings, memory and the contexts stay. A fetch-add answers the old value on a native ring,
and is unsupported in A7 mode. That RDMIRROR may change while the ring runs is the model's reading (log 62), and so is that CANCEL ends a WAIT
that still waits (log 87). -/
def Obligations.RingRegisters : Prop :=
  ∀ (s : State) (vf n : Nat) (v : Word), s.ringPage vf n = true →
    let r := s.ring vf n
    let gives (i : Instr) (r' : Ring) : Prop :=
      ∃ t, exec i s = .next t ∧ t.ring vf n = r' ∧ t.mem = s.mem ∧ t.ctxs = s.ctxs ∧ ∀ w m, (w, m) ≠ (vf, n) → t.ring w m = s.ring w m
    let lg := bitsN v 3 0
    let size := 2 ^ lg
    let cancelled (c : Cmd) : Cmd := { c with state := 6, status := 0x0C, overAs := none, tend := s.tide }
    let waits (c : Cmd) : Prop := c.state = 2 ∧ c.opcode = 7 ∧ c.overAs = none
    let apart : Prop := r.cmds.Pairwise fun c d => c.seq ≠ d.seq
    let answered (t : State) (w : Option Word) : Prop := t.cpls = s.cpls ++ [{ vf := vf, value := w }]
    (r.en = true → r.a7 = false → gives (.wridxFetchadd vf n v) { r with wridx := (r.wridx + v.toNat) % 2 ^ 64 } ∧
      ∃ t, exec (.wridxFetchadd vf n v) s = .next t ∧ answered t (some (BitVec.ofNat 64 r.wridx))) ∧
    (r.en = true → r.a7 = true → gives (.wridxFetchadd vf n v) r ∧ ∃ t, exec (.wridxFetchadd vf n v) s = .next t ∧ answered t none) ∧
    (∀ off w, (off, w) ∈ [(0, BitVec.ofNat 64 r.wridx), (8, BitVec.ofNat 64 r.rdidx), (0x10, r.base), (0x18, r.cfg), (0x20, r.mirror),
        (0x28, 0), (0x30, r.stat)] → answered (s.input (.hostRead vf 0 (n * 4096 + off))) (some (if r.en then w else 0))) ∧
    (r.en = true → r.a7 = true → gives (.wridxDoorbell vf n v)
      (if v.toNat < r.wridx ∨ r.rdidx + r.size < v.toNat then { r with wrerr := true } else { r with wridx := v.toNat })) ∧
    (r.en = true → exec (.ringcfgWrite vf n v) s = .next s) ∧
    (r.en = false → gives (.ringcfgWrite vf n v)
      (if bitN v 63 = false then { r with en := false, a7 := bitN v 62, pubn := bitsN v 55 48, log2 := lg }
       else if 4 ≤ lg ∧ lg ≤ 12 ∧ r.base.toNat % 4096 = 0 ∧ r.base.toNat % (128 * size) = 0 ∧ r.base.toNat + 128 * size ≤ 2 ^ 50 then
         { r with en := true, a7 := bitN v 62, pubn := bitsN v 55 48, log2 := lg, wridx := 0, rdidx := 0, state := 1, cmds := [], cap := none,
                  sinceMirror := 0 }
       else { r with wrerr := true })) ∧
    (r.en = true → gives (.rdmirrorWrite vf n v) (if v.toNat % 8 = 0 ∧ v.toNat < 2 ^ 50 then { r with mirror := v } else { r with wrerr := true })) ∧
    (r.en = false → exec (.rdmirrorWrite vf n v) s = .next s) ∧
    (r.en = false → gives (.registerWrite vf 0 (n * 4096 + 0x10) v) { r with base := v }) ∧
    (r.en = true → gives (.halt vf n) { r with state := 2 } ∧ gives (.resume vf n) { r with state := 1, wrerr := false } ∧
      gives (.reset vf n) (if r.state = 2 ∧ (∀ c ∈ r.cmds, c.state ≠ 2) then { r with en := false, state := 0, cmds := [], cap := none }
        else { r with wrerr := true }) ∧
      (apart → gives (.cancel vf n) { r with cmds := r.cmds.map fun c => if c.state = 1 ∨ waits c then cancelled c else c }) ∧
      (apart → (∀ c ∈ r.cmds, c.launch = none ∧ c.graph = none ∧ c.opcode ≠ 9) → gives (.kill vf n)
        { r with cmds := r.cmds.map fun c =>
          if c.state = 1 ∨ waits c then cancelled c else if c.state = 2 then { c with status := 0x0C, cause := 0, overAs := some 6 } else c }) ∧
      (r.state = 2 → exec (.commandAccept vf n) s = .next s) ∧
      (apart → ∀ c ∈ r.cmds, c.state = 2 → ¬waits c → ∃ t, exec (.kill vf n) s = .next t ∧
        ((t.ring vf n).cmd? c.seq).map (fun x => (x.state, x.status, x.overAs)) = some (2, 0x0C, some 6)) ∧
      (apart → ∀ c ∈ r.cmds, ∀ l x, c.state = 2 → ¬waits c → c.launch = some l → s.launch? l = some x →
        ∃ t y, exec (.kill vf n) s = .next t ∧ t.launch? l = some y ∧ y.ended = true) ∧
      (v.toNat = 0 ∨ 5 < v.toNat → gives (.registerWrite vf 0 (n * 4096 + 0x28) v) { r with wrerr := true }) ∧
      ∀ p ∈ [(1, Instr.halt vf n), (2, .resume vf n), (3, .cancel vf n), (4, .kill vf n), (5, .reset vf n)],
        exec (.registerWrite vf 0 (n * 4096 + 0x28) (BitVec.ofNat 64 p.1)) s = exec p.2 s) ∧
    exec (.registerWrite vf 0 (n * 4096) v) s = exec (.wridxDoorbell vf n v) s ∧
    exec (.registerWrite vf 0 (n * 4096 + 0x18) v) s = exec (.ringcfgWrite vf n v) s ∧
    exec (.registerWrite vf 0 (n * 4096 + 0x20) v) s = exec (.rdmirrorWrite vf n v) s ∧
    (vf = 0 → exec (.registerWrite 0 4 0x100 v) s = exec (.pwrstatWrite v) s)

/-- FC0 accepts the slot that RDIDX names when its sequence number (native) or WRIDX (A7) says that it is published, and when the entry
that it replaces is final (R372, R374); a command whose predecessor failed is SKIPPED (R376); SIGNAL, WAIT, FENCE and NOP do what R381
gives them; a FW.REQ of a VF, or with a bad field, ends, and another sends its message to a mailbox with room (R390, R391); completion makes
the entry final and raises the interrupt (R377). -/
def Obligations.CommandProtocol : Prop :=
  ∀ (s : State) (vf n : Nat) (c : Cmd),
    let r := s.ring vf n
    let b := c.body
    let field (f : Cmd → Nat) (t : State) : Option Nat := ((t.ring vf n).cmd? c.seq).map f
    let gives (i : Instr) (st : Nat) (overAs : Option Nat) : Prop := ∃ t, exec i s = .next t ∧ field (·.state) t = some 2 ∧
      field (·.status) t = some st ∧ ((t.ring vf n).cmd? c.seq).map (·.overAs) = some overAs ∧ t.ctxs = s.ctxs ∧ t.mem = s.mem
    let s0 := s.upCmd vf n c.seq fun c => { c with state := 2, tstart := s.tide }
    let slot := s.slot r r.rdidx
    let published : Prop := if r.a7 = true then r.rdidx < r.wridx else fieldN slot 0 8 = r.rdidx
    let oldFinal : Prop := r.rdidx < r.size ∨ ∀ d, r.cmd? (r.rdidx - r.size) = some d → 3 ≤ d.state
    let runs (op : Nat) : Prop :=
      c.opcode = op ∧ s.nextCmd vf n = some c ∧ r.cmd? c.seq = some c ∧ s.depFailed vf n c = false ∧ s.runningCmd vf n op = none
    (s.ringPage vf n = true → r.en = true → r.state ≠ 2 → s.halting vf = false →
      (published → oldFinal → ∃ t, exec (.commandAccept vf n) s = .next t ∧ (t.ring vf n).rdidx = r.rdidx + 1 ∧ (t.ring vf n).state = 1 ∧
        Cmd.accept vf n r.rdidx s.tide slot ∈ (t.ring vf n).cmds ∧ t.ctxs = s.ctxs ∧ (r.mirror = 0 → t.mem = s.mem)) ∧
      (r.a7 = false → ¬published → ∃ t, exec (.commandAccept vf n) s = .next t ∧ t.ring vf n = { r with state := 3 }) ∧
      (published → ¬oldFinal → ∃ t, exec (.commandAccept vf n) s = .next t ∧ t.ring vf n = { r with state := 4 })) ∧
    (s.nextCmd vf n = some c → s.depFailed vf n c = true →
      ∀ p ∈ [(1, Instr.launch vf n), (2, .invoke vf n), (3, .graph vf n), (4, .berthLoad vf n), (5, .berthDrop vf n), (6, .signal vf n),
          (7, .wait vf n), (8, .fenceCommand vf n), (9, .capture vf n), (10, .replay vf n), (11, .nopCommand vf n), (0x20, .nopCommand vf n)],
        c.opcode = p.1 → s.runningCmd vf n p.1 = none →
        ∃ t, exec p.2 s = .next t ∧ field (·.state) t = some 5 ∧ field (·.status) t = some 9 ∧ t.ctxs = s.ctxs ∧ t.launches = s.launches) ∧
    (runs 6 → fieldsOk b [(16, 40)] = true →
      ((fieldW b 24).toNat % 8 ≠ 0 ∨ 1 < fieldN b 16 8 → gives (.signal vf n) 2 (some 4)) ∧
      ((fieldW b 24).toNat % 8 = 0 → fieldN b 16 8 = 0 → ∀ s1, s0.fwWrite vf (fieldW b 24) 2 (natBytes (fieldN b 32 8) 8) = (s1, .ok ()) →
        ∃ t, exec (.signal vf n) s = .next t ∧ field (·.status) t = some 0 ∧ ((t.ring vf n).cmd? c.seq).map (·.overAs) = some (some 3) ∧
          t.mem = s1.mem) ∧
      ((fieldW b 24).toNat % 8 = 0 → fieldN b 16 8 = 1 → ∀ s1 s2 s3 p bs, s0.resolve none vf agFw .both (fieldW b 24) = (s1, .ok p) →
        s1.fwRead vf (fieldW b 24) 2 8 = (s2, .ok bs) →
        s2.fwWrite vf (fieldW b 24) 2 (natBytes ((leNat bs + fieldN b 32 8) % 2 ^ 64) 8) = (s3, .ok ()) →
        ∃ t, exec (.signal vf n) s = .next t ∧ field (·.status) t = some 0 ∧ t.mem = s3.mem)) ∧
    (runs 7 → fieldsOk b [(16, 56)] = true → (fieldW b 24).toNat % 8 = 0 → fieldN b 16 8 ≤ 1 → c.overAs = none → c.status = 0 →
      gives (.wait vf n) 0 none) ∧
    (∀ (s1 : State) (w : Word), s.runningCmd vf n 7 = some c →
      (s.poll vf (fieldN b 16 8) (fieldW b 24) (fieldW b 32) (fieldW b 40) = (s1, some (w, true)) →
        ∃ t, exec (.wait vf n) s = .next t ∧ ((t.ring vf n).cmd? c.seq).map (fun x => (x.overAs, x.status, x.result)) = some (some 3, 0, w)) ∧
      (s.poll vf (fieldN b 16 8) (fieldW b 24) (fieldW b 32) (fieldW b 40) = (s1, some (w, false)) → r.cmd? c.seq = some c →
        ∃ t, exec (.wait vf n) s = .next t ∧ ((t.ring vf n).cmd? c.seq).map (fun x => (x.overAs, x.result)) = some (none, w)) ∧
      (s.poll vf (fieldN b 16 8) (fieldW b 24) (fieldW b 32) (fieldW b 40) = (s1, some (w, false)) → fieldN b 48 8 ≠ 0 →
        c.tstart + fieldN b 48 8 * 1024 ≤ s.tide → ∃ t, exec (.waitTimeout vf n) s = .next t ∧
          ((t.ring vf n).cmd? c.seq).map (fun x => (x.overAs, x.status, x.result)) = some (some 4, 0x0D, w))) ∧
    (runs 8 → fieldsOk b [] = true → c.overAs = none → c.status = 0 → gives (.fenceCommand vf n) 0 none) ∧
    (s.runningCmd vf n 8 = some c → r.cmd? c.seq = some c → (∀ d ∈ r.cmds, c.seq ≤ d.seq ∨ 3 ≤ d.state) → gives (.fenceCommand vf n) 0 (some 3)) ∧
    (runs 11 → fieldsOk b [] = true → gives (.nopCommand vf n) 0 (some 3)) ∧
    (∀ op, (op = 0 ∨ 12 ≤ op) → op ≠ 0x20 → runs op → gives (.nopCommand vf n) 1 (some 4)) ∧
    (runs 0x20 →
      (vf ≠ 0 → gives (.nopCommand vf n) 0x0F (some 4)) ∧
      (vf = 0 → (fieldsOk b [(16, 20), (24, 88)] = false ∨ served (fieldN b 16 2) (fieldN b 18 2) = false) → gives (.nopCommand vf n) 2 (some 4)) ∧
      (vf = 0 → fieldsOk b [(16, 20), (24, 88)] = true → served (fieldN b 16 2) (fieldN b 18 2) = true →
        ((s.mailbox (fieldN b 16 2) 0).length < 4 → ∃ t, exec (.nopCommand vf n) s = .next t ∧ field (·.state) t = some 2 ∧
          t.mail = s.mail ++ [c.mail] ∧ t.ctxs = s.ctxs ∧ t.mem = s.mem) ∧
        (4 ≤ (s.mailbox (fieldN b 16 2) 0).length → exec (.nopCommand vf n) s = .next s))) ∧
    (∀ st status cause res, n < 16 → (s.vf vf).suspended = false → r.cmd? c.seq = some c → c.state = 2 → s.cmdOver c = some (st, status, cause, res) → c.opcode ≠ 10 → r.cap = none →
      ∃ t, exec (.commandComplete vf n c.seq) s = .next t ∧
        ((t.ring vf n).cmd? c.seq).map (fun x => (x.state, x.status, x.cause, x.result, x.tend)) = some (st, status, cause, res, s.tide) ∧
        t.msix = if c.flags / 8 % 2 = 1 then s.msix ++ [(vf, n)] else s.msix) ∧
    (∀ i l, c.overAs = none → c.launch = some i → s.launch? i = some l →
      (l.ended = false → l.lrec.total ≤ l.retired → l.retired = 0 ∨ l.retireTide < s.tide → s.cmdOver c = some (3, 0, 0, 0)) ∧
      (l.ended = false → l.retired ≠ 0 → s.tide ≤ l.retireTide → s.cmdOver c = none) ∧
      (l.ended = false → l.retired < l.lrec.total → s.cmdOver c = none) ∧
      (∀ e, l.ended = true → l.status = some (0x0A, e) → s.cmdOver c = some (4, 0x0A, e, 0)))

/-- The commands that start work (R378 to R386): LAUNCH and INVOKE check berth, record and arguments and append a launch under the
command's LAUNCHID; GRAPH copies its nodes; a berth becomes READY with its object loaded, DROPPING, and goes when nothing names it;
CAPTURE holds a count of commands, REPLAY runs a recorded one in strict mode on the cores it names. The addresses of invocation blocks and
the layout of a capture record are the model's (logs 35 and 37), and so is what a REPLAY restores (log 56). -/
def Obligations.Commands : Prop :=
  (∀ (s : State) (vf n : Nat) (c : Cmd), n < 16 → s.nextCmd vf n = some c → s.depFailed vf n c = false → (s.ring vf n).cap = none →
    let b := c.body
    let s0 := s.upCmd vf n c.seq fun c => { c with state := 2, tstart := s.tide }
    let entry (t : State) : Option Cmd := (t.ring vf n).cmd? c.seq
    let failed (i : Instr) (st : Nat) : Prop := ∃ t, exec i s = .next t ∧ (entry t).map (fun x => (x.state, x.status, x.overAs)) = some (2, st, some 4) ∧
      t.launches = s.launches ∧ t.ctxs = s.ctxs
    let exts := (List.range 6).map fun i => fieldN b (40 + 4 * i) 4
    let started (t : State) (raw : List Byte) (h : Berth) (args : Word) (es : List Nat) (est : Word) : Prop := ∃ l,
      t.launches = s.launches ++ [l] ∧ l.vf = vf ∧ l.ring = n ∧ l.idx = c.seq ∧ l.ident = launchId vf n c.seq 0 ∧ l.berth = h.num ∧
      l.image = h.image ∧ l.lrec = launchRec raw es est ∧ l.argva = args ∧ l.placed = 0 ∧ l.ended = false ∧ l.status = none ∧
      (entry t).map (fun x => (x.state, x.launch)) = some (2, some s.launches.length)
    (c.opcode = 1 → fieldsOk b [(16, 19), (24, 36), (40, 72)] = true → (fieldW b 24).toNat % 64 = 0 → (∀ e ∈ exts, e < 2 ^ 24) →
      ((s.vf vf).berth? (fieldN b 16 2) = none → failed (.launch vf n) 6) ∧
      ∀ h, (s.vf vf).berth? (fieldN b 16 2) = some h → (h.state ≠ 2 → failed (.launch vf n) 7) ∧
        (h.state = 2 → h.recs[fieldN b 18 1]? = none → failed (.launch vf n) 3) ∧
        ∀ raw, h.state = 2 → h.recs[fieldN b 18 1]? = some raw → (fieldN raw 56 4 ≠ fieldN b 32 4 → failed (.launch vf n) 3) ∧
          (fieldN raw 56 4 = fieldN b 32 4 → recordOk raw exts h.sections = true →
            ((s.sleeveCores vf).length < (launchRec raw exts (fieldW b 64)).cohort → failed (.launch vf n) 4) ∧
            ((launchRec raw exts (fieldW b 64)).cohort ≤ (s.sleeveCores vf).length →
              ∃ t, exec (.launch vf n) s = .next t ∧ started t raw h (fieldW b 24) exts (fieldW b 64) ∧ t.ctxs = s.ctxs ∧ t.mem = s.mem))) ∧
    (∀ h raw s1, c.opcode = 2 → fieldsOk b [(16, 20), (24, 120)] = true → fieldN b 19 1 ≤ 12 → (s.vf vf).berth? (fieldN b 16 2) = some h →
      h.state = 2 → h.recs[fieldN b 18 1]? = some raw → fieldN raw 56 4 = 128 → recordOk raw [] h.sections = true →
      let va : Word := BitVec.ofNat 64 ((Config.invokeBlock vf (s.vf vf).invoke).toNat * 64)
      s0.fwWrite vf va 3 (relocations b vf n c.seq c.taccept ((h.segs.head?.map (·.va)).getD 0)) = (s1, .ok ()) →
      (launchRec raw [] 0).cohort ≤ (s1.sleeveCores vf).length →
      ∃ t, exec (.invoke vf n) s = .next t ∧ started t raw h va [] 0 ∧ (t.vf vf).invoke = (s.vf vf).invoke + 1 ∧ t.mem = s1.mem) ∧
    (∀ s1 bs, c.opcode = 3 → fieldsOk b [(24, 38)] = true → (fieldW b 24).toNat % 64 = 0 → fieldN b 32 4 ≠ 0 → fieldN b 32 4 ≤ 4096 →
      s0.fwRead vf (fieldW b 24) (fieldN b 32 4 + 2) (64 * fieldN b 32 4) = (s1, .ok bs) →
      ∃ t g, exec (.graph vf n) s = .next t ∧ t.graphs = s1.graphs ++ [g] ∧ (entry t).map (·.graph) = some (some s1.graphs.length) ∧
        g.nodes = (List.range (fieldN b 32 4)).map (fun i => (bs.drop (64 * i)).take 64) ∧
        (fieldN b 36 2 < fieldN b 32 4 → g.cur = some (fieldN b 36 2) ∧ g.first = none) ∧
        (fieldN b 32 4 ≤ fieldN b 36 2 → g.cur = none ∧ g.first = some (0xFFFF, 0x12))) ∧
    (c.opcode = 4 → fieldsOk b [(16, 18), (24, 40)] = true →
      (∀ e, s0.berthLoad vf (fieldN b 16 2) (fieldW b 24) (fieldN b 32 8) = .error e → e ≠ 0 → failed (.berthLoad vf n) e) ∧
      (∀ h ∈ (s.vf vf).berths, h.num = fieldN b 16 2 → failed (.berthLoad vf n) 7) ∧
      ∀ s1, s0.berthLoad vf (fieldN b 16 2) (fieldW b 24) (fieldN b 32 8) = .ok s1 → ∃ t h, exec (.berthLoad vf n) s = .next t ∧
        (entry t).map (fun x => (x.status, x.overAs)) = some (0, some 3) ∧ (t.vf vf).berth? (fieldN b 16 2) = some h ∧ h.state = 2) ∧
    (c.opcode = 5 → fieldsOk b [(16, 18)] = true →
      ((s.vf vf).berth? (fieldN b 16 2) = none → failed (.berthDrop vf n) 6) ∧
      ∀ h, (s.vf vf).berth? (fieldN b 16 2) = some h → (h.state ≠ 2 → failed (.berthDrop vf n) 7) ∧
        (h.state = 2 → ∃ t, exec (.berthDrop vf n) s = .next t ∧ (t.vf vf).berth? (fieldN b 16 2) = some { h with state := 3 } ∧
          (entry t).map (·.state) = some 2 ∧ t.mem = s.mem)) ∧
    (c.opcode = 9 → fieldsOk b [(16, 20), (24, 104)] = true → 1 ≤ fieldN b 16 2 → fieldN b 16 2 ≤ 64 → fieldN b 18 2 ≤ 4 →
      ∃ t k, exec (.capture vf n) s = .next t ∧ (t.ring vf n).cap = some k ∧ k.cmd = c.seq ∧ k.left = fieldN b 16 2 ∧ k.bufva = fieldW b 24 ∧
        k.bufsize = fieldN b 32 8 ∧ k.regs.length = fieldN b 18 2 ∧ (∀ p ∈ t.placements, p.vf = vf → p.ring ≠ n) ∧ (entry t).map (fun x => (x.state, x.released)) = some (2, true)) ∧
    (∀ s1 s2 s3 va h r, c.opcode = 10 → fieldsOk b [(16, 40)] = true → fieldN b 32 8 < 2 ^ 24 →
      s0.findRecord vf (fieldW b 24) (fieldN b 16 8) = (s1, some va) → s1.fwRead vf va 2 8 = (s2, .ok h) →
      s2.fwRead vf va (leNat h / 128 + 2) (leNat h) = (s3, .ok r) → 144 ≤ leNat h → fieldN r 8 2 = 0 → fieldN ((r.drop 16).take 128) 8 1 = 1 →
      exec (.replay vf n) s = .next (((s3.upCmd vf n c.seq fun c => { c with regs := [] }).doLaunch vf n c.seq ((r.drop 16).take 128)
        (some ((List.range 128).filter fun k => (fieldN b 32 4 % 256 = 0 || (fieldN b 32 4 % 256).testBit (k / 16)) &&
          (fieldN b 32 4 / 256 % 65536 = 0 || (fieldN b 32 4 / 256 % 65536).testBit (k % 16)))) true).upCmd vf n c.seq fun c => { c with launchid := 0 }))) ∧
  (∀ (s : State) (vf n : Nat) (h : Berth), (s.vf vf).berth? n = some h → h.state = 3 →
    (∀ l ∈ s.launches, l.vf = vf → l.berth = n → l.live = false ∧ ∀ c, (s.ring vf l.ring).cmd? l.idx = some c → 3 ≤ c.state) →
    (∀ g ∈ s.graphs, g.vf = vf → g.ended = true) →
    (∀ r ∈ s.rings, r.vf = vf → ∀ c ∈ r.cmds, c.state < 3 → c.opcode ∈ [1, 2, 4, 5] → fieldN c.body 16 2 = n →
      c.state = 2 ∧ c.opcode = 5 ∧ c.overAs = none) →
    ∃ t, exec (.berthFree vf n) s = .next t ∧ (t.vf vf).berth? n = none ∧ t.mem = s.mem ∧ t.ctxs = s.ctxs ∧
      (∀ a, h.image ≤ a → a < h.image + h.imageSize → sget 0 t.code a = 0) ∧ (t.mat = s.mat.filter fun e => !h.mats.contains e) ∧
      ∀ m, ∀ c ∈ (s.ring vf m).cmds, c.state = 2 → c.opcode = 5 → c.overAs = none → fieldN c.body 16 2 = n →
        ((t.ring vf m).cmd? c.seq).map (fun x => (x.status, x.overAs)) = some (0, some 3))

/-! ## Graphs (R382 to R384) -/

/-- FC1 runs one node of a graph at a time: a LAUNCH appends a launch under the node's LAUNCHID and goes on, a COPY moves 128 bytes at a
time, a COND takes one of its two successors by (word & MASK), a LOOP counts its passes, a SIGNAL writes, a WAIT ends when its condition
holds or its time is over; a node after a failed one is skipped unless RUN_ANYWAY is set; an index outside the graph fails it. -/
def Obligations.GraphNodes : Prop :=
  (∀ (s : State) (gn node : Nat) (g : Graph), s.graph? gn = some g → g.ended = false → g.paused = false → s.halting g.vf = false →
    g.cur = some node → g.running = [] → g.launch = none → g.skipLoop = false → g.execs < 2 ^ 24 →
    let b := g.nodes.getD node []
    let kind := fieldN b 0 1
    let next := fieldN b 2 2
    let anyway := fieldN b 1 1 % 2 = 1
    let g0 : Graph := { g with execs := g.execs + 1 }
    let s0 := s.upGraph gn fun _ => g0
    let becomes (i : Instr) (g' : Graph) : Prop := ∃ t, exec i s = .next t ∧ t.graph? gn = some g' ∧ t.ctxs = s.ctxs ∧ t.launches = s.launches
    let gives (i : Instr) (g' : Graph) (s1 : State) : Prop := ∃ t, exec i s = .next t ∧ t.graph? gn = some g' ∧ t.mem = s1.mem
    let len := fieldN b 24 8
    let piece := min 128 (len - g.copied)
    let off : Word := BitVec.ofNat 64 g.copied
    (g.since = none → g.prevFail = true → ¬anyway → g.stack = [] →
      ∀ p ∈ [(1, Instr.launchNode gn), (2, .copyNode gn), (3, .cond gn), (4, .loopNode gn), (5, .signalNode gn), (6, .waitNode gn)],
        kind = p.1 → becomes p.2 (g0.go node next true none)) ∧
    (g.since = none → (g.prevFail = true → anyway) → nodeOk b = true →
      (∀ s1 : State,
        let exts := (List.range 6).map fun i => fieldN b (32 + 4 * i) 4
        let made := s0.launchKernel g.vf g.ring g.idx (some gn) (node + 1) (fieldN b 8 2) (fieldN b 10 1) (fieldN b 12 4) (fieldW b 16) exts
          (fieldW b 24) g.cores g.strict
        kind = 1 → (fieldW b 16).toNat % 64 = 0 → (∀ e ∈ exts, e < 2 ^ 24) →
          (∀ e, made = .error e → becomes (.launchNode gn) (g0.done node next e)) ∧
          (∀ n, made = .ok (s1, n) → n = s.launches.length ∧ ∃ t l, exec (.launchNode gn) s = .next t ∧ t.launches = s.launches ++ [l] ∧
            l.graph = some gn ∧ (g.ring < 16 → l.ident = launchId g.vf g.ring g.idx (node + 1)) ∧ l.argva = fieldW b 16 ∧
            t.graph? gn = some { g0.go node next false (some n) with running := [(n, node)] })) ∧
      (kind = 2 → 2 ^ 32 < len → becomes (.copyNode gn) (g0.done node next 2)) ∧
      (∀ (s1 : State) (bs : List Byte), kind = 3 → (fieldW b 8).toNat % 4 = 0 → s0.fwRead g.vf (fieldW b 8) 2 4 = (s1, .ok bs) →
        gives (.cond gn) (g0.done node (if ((BitVec.ofNat 64 (leNat bs) : Word) &&& fieldW b 16) ≠ 0 then next else fieldN b 4 2) 0) s1) ∧
      (∀ (s1 : State) (bs : List Byte) (n : Nat) (rest : List (Nat × Nat)), kind = 4 → fieldN b 24 4 ≠ 0 → (fieldW b 8).toNat % 4 = 0 →
        s0.fwRead g.vf (fieldW b 8) 2 4 = (s1, .ok bs) →
        g.stack = (node, n) :: rest ∨ (n = 0 ∧ g.stack = rest ∧ rest.length < 4 ∧ ∀ e, rest.head? = some e → e.1 ≠ node) →
        gives (.loopNode gn) (if ((BitVec.ofNat 64 (leNat bs) : Word) &&& fieldW b 16) ≠ 0 ∧ n < fieldN b 24 4 then
            ({ g0 with stack := (node, n + 1) :: rest } : Graph).done node (fieldN b 4 2) 0
          else ({ g0 with stack := rest, passes := n } : Graph).done node next 0) s1) ∧
      (∀ (s1 : State) (st : Nat), kind = 5 → s0.signal g.vf (fieldN b 8 8) (fieldW b 16) (fieldW b 24) = (s1, st) →
        gives (.signalNode gn) (g0.done node next st) s1) ∧
      (kind = 6 → (fieldW b 16).toNat % 8 = 0 → fieldN b 8 8 ≤ 1 → becomes (.waitNode gn) { g0 with since := some s.tide })) ∧
    (∀ (s1 s2 : State) (bs : List Byte) (t0 : Nat), kind = 2 → g.since = some t0 → g.copied < len →
      s.fwRead g.vf (fieldW b 8 + off) 3 piece = (s1, .ok bs) → s1.fwWrite g.vf (fieldW b 16 + off) 3 bs = (s2, .ok ()) →
      gives (.copyNode gn) (if len ≤ g.copied + piece then g.done node next 0 else { g with copied := g.copied + piece }) s2) ∧
    (∀ (s1 s2 : State) (bs : List Byte), kind = 2 → g.since = none → (g.prevFail = true → anyway) → nodeOk b = true → g.copied = 0 → len ≠ 0 →
      len ≤ 2 ^ 32 → s0.fwRead g.vf (fieldW b 8) 3 piece = (s1, .ok bs) → s1.fwWrite g.vf (fieldW b 16) 3 bs = (s2, .ok ()) →
      gives (.copyNode gn) (if len ≤ piece then g0.done node next 0 else { g0 with copied := piece, since := some s.tide }) s2) ∧
    (∀ (s1 : State) (w : Word) (t0 : Nat), kind = 6 → g.since = some t0 →
      (s.poll g.vf (fieldN b 8 8) (fieldW b 16) (fieldW b 24) (fieldW b 32) = (s1, some (w, true)) → gives (.waitNode gn) (g.done node next 0) s1) ∧
      (s.poll g.vf (fieldN b 8 8) (fieldW b 16) (fieldW b 24) (fieldW b 32) = (s1, some (w, false)) → fieldN b 40 8 ≠ 0 →
        t0 + fieldN b 40 8 * 1024 ≤ s.tide → gives (.waitNode gn) (g.done node next 0x0D) s1))) ∧
  (∀ (g : Graph) (node next st : Nat),
    let d := g.done node next st
    d.execs = g.execs ∧ d.prevFail = (st ≠ 0) ∧ d.launch = none ∧ d.since = none ∧ d.copied = 0 ∧ d.stack = g.stack ∧
    (next < g.nodes.length → next < 0xFFFE → d.cur = some next ∧ d.first = if st = 0 then g.first else g.first.orElse fun _ => some (node, st)) ∧
    (g.stack = [] → next = 0xFFFF → d.cur = none ∧ (st = 0 → d.first = g.first)) ∧
    (∀ e t, g.stack = e :: t → next = 0xFFFE → d.cur = some e.1) ∧
    (g.nodes.length ≤ next → next < 0xFFFE → d.cur = none ∧ (st = 0 → d.first = g.first.orElse fun _ => some (node, 0x12))))

/-! ## Requests of the physical function (R391, R394, R408 to R423) -/

/-- No request of a VF has an effect. Of FC1 and FC2: grants, controls, drains, the L2's registers, sleeves and the
functions that join them, access tables, page-table entries, dirty tracking, migration, paging policies and answers to fault records. An
edit of tables is answered once no access uses what it replaced (R314, R415, R420). The
places of reply fields that the spec does not give, from byte 16 on, are the model's (log 38), and so are the points of log 57, the range of a
shared entry (log 90) and the form of a migration's last report (log 88). -/
def Obligations.ManagerRequests : Prop :=
  ∀ (s : State) (q : FwReq) (vf : Nat), s.booted = true →
    let v := s.vf vf
    let a := s.begun q
    let kept (u : State) : Prop := u.mem = s.mem ∧ u.ctxs = s.ctxs
    let about : Prop := v.enabled = true ∧ vf < 4096 ∧ v.resetting = false
    let free : Prop := s.tdiLocked vf = false
    let sets (i : Instr) (core kind : Nat) (v' : Vf) : Prop := Answers s q i core kind 0 fun u _ => kept u ∧ u.vf vf = v'
    let refuses (i : Instr) (core kind st : Nat) : Prop := Answers s q i core kind st fun u _ => kept u ∧ u.vfs = s.vfs ∧ u.sleeves = s.sleeves ∧ u.mat = s.mat
    (q.vf ≠ 0 → (∀ x, s.locating = some x → x.q ≠ q) → ∀ n fm b tg it k rs ks bs, ∀ i ∈ [Instr.tokgrantSet q vf n, .vfctlSet q vf fm n b, .drainSet q n n, .l2clsWrite q n n fm,
      .l2monWrite q n n, .l2flush q n n, .l2cntRead q n n, .sleeveSet q n n n n n n n, .sleeveJoin q vf n n n, .matWrite q tg n n fm fm b,
      .ptEdit q vf fm n fm, .migTrack q vf, .migDirty q vf fm n fm, .migStop q vf, .pagingSet q vf n rs, .faultDone q n n, .dbgAttach q n,
      .dbgRead q n it, .dbgWrite q n it fm, .dbgResume q n b, .dbgDetach q n, .logRead q, .leaseList q (some k) n, .scoreRead q k n,
      .retireList q, .dryCtl q k n, .dryLocate q n fm n n, .keyLoad q vf n bs, .vfReset q vf, .qbwSet q n vf n, .commSet q vf n n n ks],
      exec i s = .next s) ∧
    (q.vf = 0 →
      (about →
        (∀ g, (g ≤ 65535 → sets (.tokgrantSet q vf g) 1 0x0101 { v with grant := g }) ∧ (65535 < g → refuses (.tokgrantSet q vf g) 1 0x0101 1)) ∧
        (∀ fm sl d, (4 < sl → refuses (.vfctlSet q vf fm sl d) 1 0x0102 1) ∧
          (sl ≤ 4 → (free → sets (.vfctlSet q vf fm sl d) 1 0x0102 { v with featmask := fm &&& 0x3F, scopelimit := some sl, dbgen := d }) ∧
            (¬free → refuses (.vfctlSet q vf fm sl d) 1 0x0102 0x21))) ∧
        (∀ m rs, (m ≤ 2 → rs.length ≤ 16 → (∀ r ∈ rs, r.va.toNat % 65536 = 0 ∧ r.va.toNat < 2 ^ 56 ∧ r.va.toNat + r.pages * 65536 ≤ 2 ^ 56) →
            sets (.pagingSet q vf m rs) 2 0x020C { v with paging := m, ranges := rs }) ∧
          (2 < m ∨ (∃ r ∈ rs, 2 ^ 56 ≤ r.va.toNat) → refuses (.pagingSet q vf m rs) 2 0x020C 1)) ∧
        (∀ n base limit,
          let z := s.sleeve n
          (free → 0 < limit → sleeveNo n = true → z.kind = 2 → v.sleeve = none ∨ v.sleeve = some n → base % 65536 = 0 → limit % 65536 = 0 →
            base < limit → z.base ≤ base → limit ≤ z.limit → (∀ u ∈ s.joined n, u ≠ vf → spansMeet base limit (s.vf u).winBase (s.vf u).winLimit = false) →
            sets (.sleeveJoin q vf n base limit) 2 0x0206 { v with sleeve := some n, winBase := base, winLimit := limit }) ∧
          (free → v.sleeve = some n → s.ctxsOf vf = [] → sets (.sleeveJoin q vf n base 0) 2 0x0206 { v with sleeve := none, winBase := 0, winLimit := 0 })) ∧
        (∀ va lvl e t,
          let p := entryPa t lvl va.toNat
          let old : Word := BitVec.ofNat 64 (leNat (s.homeBytes 4096 p 8))
          lvl ≤ 4 → va.toNat < 2 ^ 56 → s.tableAt va.toNat lvl 4 v.root = some t →
            let w : PtWait := if bitN old 1 then { q := q, kind := 0x0208, vf := vf, lo := bitsN old 51 8 * 256, size := 2 ^ lvlShift lvl }
              else .all q 0x0208 vf
            ((free ∨ bitN old 0 = false) → isDevice p = true → s.uncorrAt p 8 = false →
              (bitN old 0 = false ∨ s.oldUse w = false →
                Answers s q (.ptEdit q vf va lvl e) 2 0x0208 0 fun u _ => sbytes u.mem p 8 = natBytes e.toNat 8 ∧ u.ctxs = s.ctxs) ∧
              (bitN old 0 = true → s.oldUse w = true → (s.asking q 2 0x0208).isSome → q.vf = 0 → ∃ u, exec (.ptEdit q vf va lvl e) s = .next u ∧
                u.edits = s.edits ++ [w] ∧ sbytes u.mem p 8 = natBytes e.toNat 8 ∧ u.ctxs = s.ctxs ∧ u.replies = s.replies)) ∧
            (¬free → bitN old 0 = true → refuses (.ptEdit q vf va lvl e) 2 0x0208 0x21)) ∧
        (let tracked (u : State) : Prop := (u.vf vf).tracking = true ∧ u.ctxs = s.ctxs ∧
          ∀ p e b n, s.leaves vf = [(p, e, b, n)] → bitN e 5 = true → isDevice p = true → s.uncorrAt p 8 = false →
            sbytes u.mem p 8 = natBytes (e &&& ~~~0x20).toNat 8;
          (s.oldUse (.all q 0x0209 vf) = false → Answers s q (.migTrack q vf) 2 0x0209 0 fun u _ => tracked u) ∧
          (s.oldUse (.all q 0x0209 vf) = true → (s.asking q 2 0x0209).isSome → ∃ u, exec (.migTrack q vf) s = .next u ∧ tracked u ∧
            u.edits = s.edits ++ [.all q 0x0209 vf] ∧ u.replies = s.replies)) ∧
        (∀ (va bm : Word) (n : Nat), (2 ^ 56 ≤ va.toNat ∨ 2 ^ 56 ≤ bm.toNat ∨ 2 ^ 56 < va.toNat / 65536 * 65536 + n * 65536) →
          refuses (.migDirty q vf va n bm) 2 0x020A 1) ∧
        (∀ (va bm : Word) (n : Nat) (s1 : State), va.toNat < 2 ^ 56 → bm.toNat < 2 ^ 56 → va.toNat / 65536 * 65536 + n * 65536 ≤ 2 ^ 56 →
          let lo := va.toNat / 65536 * 65536
          let dirty (i : Nat) : Bool := (s.leaves vf).any fun l =>
            bitN l.2.1 5 && decide (l.2.2.1 ≤ lo + i * 65536) && decide (lo + i * 65536 < l.2.2.1 + l.2.2.2)
          let bs := bitBytes ((List.range n).map dirty) ((n + 7) / 8)
          let u := (s1.clearDirty vf fun b m => spansMeet b (b + m) lo (lo + n * 65536)).dropTlb vf lo (n * 65536)
          a.fwWrite 0 bm (bs.length / 128 + 2) bs = (s1, .ok ()) →
            (u.oldUse (.all q 0x020A vf) = false → Answers s q (.migDirty q vf va n bm) 2 0x020A 0 fun t _ => t = u) ∧
            (u.oldUse (.all q 0x020A vf) = true → (s.asking q 2 0x020A).isSome →
              exec (.migDirty q vf va n bm) s = .next { u with edits := u.edits ++ [.all q 0x020A vf] })) ∧
        (let halted (u : State) : Prop := (∀ n, (s.ring vf n).en = true → (u.ring vf n).state = 2) ∧ ∀ g ∈ u.graphs, g.vf = vf → g.paused = true;
          (v.stopReq ≠ none → refuses (.migStop q vf) 2 0x020B 2) ∧
          (v.stopReq = none → a.externalWaits vf ≠ [] →
            Answers s q (.migStop q vf) 2 0x020B 0x20 fun u _ => kept u ∧ u.vfs = s.vfs ∧ u.graphs = s.graphs) ∧
          (v.stopReq = none → a.externalWaits vf = [] → s.ctxsOf vf = [] → Answers s q (.migStop q vf) 2 0x020B 0 fun u _ => halted u ∧
            (u.vf vf).suspended = true ∧ (u.vf vf).stopReq = none ∧
            (u.vf vf).dirtyLog = ((s.leaves vf).filter fun l => bitN l.2.1 5).map fun l => (l.2.2.1, l.2.2.2)) ∧
          (v.stopReq = none → a.externalWaits vf = [] → (s.asking q 2 0x020B).isSome → q.vf = 0 →
            (∃ c ∈ s.ctxsOf vf, (s.ctx c).run = .running ∧ firstFault (s.ctx c).pend = none) → ∃ u, exec (.migStop q vf) s = .next u ∧ halted u ∧
              (u.vf vf).stopReq = some q ∧ (u.vf vf).suspended = v.suspended ∧ u.replies = s.replies ∧
              ∀ c < s.ctxs.length, (s.ctx c).vf = vf → (s.ctx c).run = .running → firstFault (s.ctx c).pend = none → (u.ctx c).run = .saving) ∧
          (∀ q', v.stopReq = some q' → (∀ c ∈ s.ctxsOf vf, (s.ctx c).run = .saved) → ((s.settleStop vf).vf vf).suspended = true ∧
            ((s.settleStop vf).vf vf).stopReq = none))) ∧
      (∀ n b, (sleeveNo n = true → b = 0 ∨ (2 ^ 14 ≤ b ∧ b ≤ 2 ^ 34) →
          (s.sleeveLocked n = false →
            Answers s q (.drainSet q n b) 1 0x0103 0 fun u _ => kept u ∧ u.sleeve n = { s.sleeve n with drain := b }) ∧
          (s.sleeveLocked n = true → refuses (.drainSet q n b) 1 0x0103 0x21)) ∧
        (sleeveNo n = false → refuses (.drainSet q n b) 1 0x0103 1)) ∧
      (∀ d k w, d < 8 → k < 64 →
        (bitsN w 39 32 ≤ 128 → s.sleeveLocked k = false → Answers s q (.l2clsWrite q d k w) 2 0x0201 0 fun u _ => kept u ∧
          u.l2c d k = { s.l2c d k with softlim := bitsN w 39 32, waymask := w.extractLsb' 0 16 }) ∧
        (bitsN w 39 32 ≤ 128 → s.sleeveLocked k = true → refuses (.l2clsWrite q d k w) 2 0x0201 0x21) ∧
        (128 < bitsN w 39 32 → refuses (.l2clsWrite q d k w) 2 0x0201 1) ∧
        (Answers s q (.l2flush q d k) 2 0x0203 0 fun u _ => kept u ∧ ∀ i l, i / 6144 = d → l ∈ u.l2set i → l.cls ≠ k) ∧
        (Answers s q (.l2cntRead q d k) 2 0x0204 0 fun u r => kept u ∧ fieldW r 24 = (s.l2c d k).fill ∧ fieldW r 32 = (s.l2c d k).vict ∧
          fieldW r 16 = BitVec.ofNat 64 (s.l2occ d (vgetD s.l2mon d 0) k * 2 ^ 32 + s.l2occDie d k))) ∧
      (∀ d n, d < 8 → n < 768 → Answers s q (.l2monWrite q d n) 2 0x0202 0 fun u _ => kept u ∧ vgetD u.l2mon d 0 = n) ∧
      (∀ n kind slots owner map base limit,
        let cores := if kind = 0 then [] else coresOf map
        let z : Sleeve := { s.sleeve n with num := n, kind := kind, slots := slots, owner := owner, cores := cores, base := base, limit := limit }
        let i : Instr := .sleeveSet q n kind slots owner map base limit
        let apart : Prop := ∀ y ∈ s.sleeves, y.num ≠ n → y.kind ≠ 0 → (∀ c ∈ cores, c ∉ y.cores) ∧ spansMeet base limit y.base y.limit = false
        let free : Prop := ∀ r ∈ s.retired, r.kind = .channel → s.withdrawn r.unit = true →
          spansMeet base limit (s.withdrawnAt r.unit) (s.withdrawnAt r.unit + 2 ^ 31) = false
        (4096 ≤ owner ∨ (kind ≠ 0 ∧ (s.vf owner).enabled = false) → refuses i 2 0x0205 1) ∧
        (sleeveNo n = true → 1 ≤ slots → slots ≤ 4 → map < 2 ^ 128 → owner < 4096 →
        (kind = 0 → s.joined n = [] → Answers s q i 2 0x0205 0 fun u _ => u.sleeve n = z) ∧
        (kind = 0 → s.joined n ≠ [] → refuses i 2 0x0205 1) ∧
        (base % 65536 = 0 → limit % 65536 = 0 → base ≤ limit → limit ≤ 2 ^ 41 → apart → free → (s.vf owner).enabled = true →
          (kind = 2 → (∀ u ∈ s.joined n, (s.vf u).within base limit = true ∧ s.tdiLocked u = false) →
            Answers s q i 2 0x0205 0 fun u _ => u.sleeve n = z) ∧
          (kind = 1 ∨ kind = 2 → (∃ u ∈ s.joined n, (s.vf u).within base limit = false) → refuses i 2 0x0205 1) ∧
          (kind = 1 → (∀ u ∈ s.joined n, u = owner ∧ (s.vf u).within base limit = true) →
            (s.vf owner).sleeve = none ∨ (s.vf owner).sleeve = some n →
            s.tdiLocked owner = false → Answers s q i 2 0x0205 0 fun u _ => u.sleeve n = z ∧ (u.vf owner).sleeve = some n ∧
              (u.vf owner).winBase = base ∧ (u.vf owner).winLimit = limit)))) ∧
      (∀ tg ix en w0 w1 sh,
        let f := bitsN w0 23 12
        let here (e : MatEntry) : Bool := e.target = tg && e.unit = ix && e.index = en
        let rest := s.mat.filter fun e => !here e
        let i : Instr := .matWrite q tg ix en w0 w1 sh
        let inside : Prop := (s.vf f).winBase ≤ bitsN w0 59 24 * 65536 ∧ bitsN w1 59 24 * 65536 ≤ (s.vf f).winLimit
        let shares : Prop := ∃ n, (s.vf f).sleeve = some n ∧ (s.sleeve n).base ≤ bitsN w0 59 24 * 65536 ∧ bitsN w1 59 24 * 65536 ≤ (s.sleeve n).limit
        let new : MatEntry := { target := tg, unit := ix, index := en, w0 := w0 &&& 0x0FFFFFFFFFFFF1FB, w1 := w1 &&& 0x0FFFFFFFFF000000, shared := sh }
        let writes (m : List MatEntry) : Prop :=
          ((∀ e, s.mat.find? here = some e → s.oldUse (e.wait q) = false) → Answers s q i 2 0x0207 0 fun u _ => kept u ∧ u.mat = m) ∧
          (∀ e, s.mat.find? here = some e → s.oldUse (e.wait q) = true → (s.asking q 2 0x0207).isSome → ∃ u, exec i s = .next u ∧ kept u ∧
            u.mat = m ∧ u.edits = s.edits ++ [e.wait q] ∧ u.replies = s.replies)
        ix < matUnits tg → en < 256 → (∀ e ∈ s.mat, here e = true → s.tdiLocked (bitsN e.w0 23 12) = false) →
        (bitN w0 3 = false → writes rest) ∧
        (bitN w0 3 = true → (s.vf f).enabled = true → (s.vf f).resetting = false → s.tdiLocked f = false →
          (sh = false → ¬inside → refuses i 2 0x0207 2) ∧
          ((tg = .hbm ∨ tg = .l2) → sh = true → ¬shares → refuses i 2 0x0207 2) ∧
          ((sh = false → inside) → (tg = .hbm ∨ tg = .l2 → sh = true → shares) → writes (rest ++ [new])))) ∧
      (∀ n ans, ((ans = 1 ∨ ans = 2) → (∃ r ∈ s.faults, r.num = n) → Answers s q (.faultDone q n ans) 2 0x020D 0 fun u _ =>
          u.faults = s.faults.filter (fun r => r.num ≠ n) ∧
          ∀ c < s.ctxs.length, (s.ctx c).was = none → (s.ctx c).run = .paging n → (u.ctx c).run = if ans = 1 then .running else .faulted) ∧
        ((∀ r ∈ s.faults, r.num ≠ n) → refuses (.faultDone q n ans) 2 0x020D 1)))

/-- Of FC3 to FC7: the debugger's requests about a context of a function whose DBGEN is set, the log, the drydock's lists and periods and
its search, keys, VF resets, quay shares and communicators (R321 to R323, R414, R416, R418, R419, R423, R432, R447 to R451). The places of
reply fields that the spec does not give, from byte 16 on, and of the record behind a reply are the model's (log 38). A DRY.LOCATE replays the
record on two clean sets of cores, then searches the placement by halves; the sets and what a replay that cannot run means are the model's
readings (log 60). The words of a tile and of the frame that a debugger writes are log 89, and what a key load leaves of dirty sectors is a free
value (log 85). -/
def Obligations.ServiceRequests : Prop :=
  ∀ (s : State) (q : FwReq) (vf : Nat), s.booted = true → q.vf = 0 →
    let v := s.vf vf
    let a := s.begun q
    let kept (u : State) : Prop := u.mem = s.mem ∧ u.ctxs = s.ctxs
    let refuses (i : Instr) (core kind st : Nat) : Prop := Answers s q i core kind st fun u _ => kept u ∧ u.vfs = s.vfs ∧ u.keys = s.keys
    (∀ c < s.ctxs.length,
      let k := s.ctx c
      k.run ≠ .gone →
      ((s.vf k.vf).dbgen = false → refuses (.dbgAttach q c) 3 0x0301 2 ∧ refuses (.dbgDetach q c) 3 0x0305 2 ∧
        ∀ i w b, refuses (.dbgRead q c i) 3 0x0302 2 ∧ refuses (.dbgWrite q c i w) 3 0x0303 2 ∧ refuses (.dbgResume q c b) 3 0x0304 2) ∧
      ((s.vf k.vf).dbgen = true → s.tdiLocked k.vf = false → (s.vf k.vf).resetting = false →
        (Answers s q (.dbgAttach q c) 3 0x0301 0 fun u _ => u.mem = s.mem ∧ u.ctx c = { k with dbg := true }) ∧
        (Answers s q (.dbgDetach q c) 3 0x0305 0 fun u _ => u.mem = s.mem ∧ (u.ctx c).dbg = false ∧ ∀ st, (u.seq c st).x = (s.seq c st).x ∧
          ∀ i, bitN (vgetD (u.seq c st).bkpt i 0) 63 = false) ∧
        (k.run = .halted ∨ k.run = .saved → ∀ st w,
          (∀ r, (Answers s q (.dbgRead q c (.xreg st r)) 3 0x0302 0 fun u t => kept u ∧ fieldW t 16 = (s.seq c st).rx r) ∧
            Answers s q (.dbgWrite q c (.xreg st r) w) 3 0x0303 0 fun u _ => u.seq c st = (s.seq c st).wx r w ∧ u.mem = s.mem) ∧
          (∀ p, (Answers s q (.dbgRead q c (.pred st p)) 3 0x0302 0 fun u t => kept u ∧ fieldW t 16 = BitVec.ofNat 64 (b2n ((s.seq c st).rp p))) ∧
            Answers s q (.dbgWrite q c (.pred st p) w) 3 0x0303 0 fun u _ => u.seq c st = (s.seq c st).wp p (w ≠ 0) ∧ u.mem = s.mem) ∧
          (Answers s q (.dbgRead q c (.pc st)) 3 0x0302 0 fun u t => kept u ∧ fieldW t 16 = (s.seq c st).pc) ∧
          (Answers s q (.dbgWrite q c (.pc st) w) 3 0x0303 0 fun u _ => u.seq c st = { s.seq c st with pc := w } ∧ u.mem = s.mem) ∧
          (∀ n, bitsN w 57 52 ≤ 20 → Answers s q (.dbgWrite q c (.bkpt st n) w) 3 0x0303 0 fun u _ =>
            vgetD (u.seq c st).bkpt n.toNat 0 = w &&& 0x83FFFFFFFFFFFFF8) ∧
          (∀ n, 20 < bitsN w 57 52 → refuses (.dbgWrite q c (.bkpt st n) w) 3 0x0303 1) ∧
          (∀ o, o + 8 ≤ (k.endBlk - k.baseBlk) * 16384 → k.saved = false → k.coreNo < 128 →
            Answers s q (.dbgWrite q c (.scratch o) w) 3 0x0303 0 fun u _ =>
              sbytes (u.core k.coreNo).spad (k.baseBlk * 16384 + o) 8 = natBytes w.toNat 8 ∧ u.mem = s.mem) ∧
          (∀ o, o % 8 = 0 → o + 8 ≤ 5120 → (Answers s q (.dbgRead q c (.frame o)) 3 0x0302 0 fun u t => kept u ∧ fieldW t 16 = fieldW (k.frameNow c) o) ∧
            Answers s q (.dbgWrite q c (.frame o) w) 3 0x0303 0 fun u _ => fieldW ((u.ctx c).frameNow c) o = w ∧
              ∀ st', o = 64 + 64 * Stream.code st' → (u.seq c st').pc = w) ∧
          (∀ t e, e < 16384 → t < k.acount → k.saved = false → k.coreNo < 128 → k.abase + t < 32 →
            let elem (z : State) : Elem := sget Elem.zero (vgetD (z.core k.coreNo).tiles (k.abase + t) Tile.zero).elems e
            (Answers s q (.dbgWrite q c (.tile t e) w) 3 0x0303 0 fun u _ => elem u = Elem.ofWords w (elem s).tagWord) ∧
            Answers s q (.dbgWrite q c (.tile t (16384 + e)) w) 3 0x0303 0 fun u _ => elem u = Elem.ofWords (elem s).residue w.toNat) ∧
          (∀ pa, s.isShared pa = true → refuses (.dbgWrite q c (.code pa) w) 3 0x0303 3) ∧
          (∀ pa, s.isShared pa = false → k.codeAt pa = true → (Answers s q (.dbgRead q c (.code pa)) 3 0x0302 0 fun u t => kept u ∧
              fieldW t 16 = s.codeNow pa) ∧ Answers s q (.dbgWrite q c (.code pa) w) 3 0x0303 0 fun u _ => u.codeNow pa = w)) ∧
        (k.run ≠ .halted → k.run ≠ .saved → ∀ i w, refuses (.dbgRead q c i) 3 0x0302 2 ∧ refuses (.dbgWrite q c i w) 3 0x0303 2) ∧
        (k.run = .saved → k.was = some .halted → Answers s q (.dbgResume q c false) 3 0x0304 0 fun u _ => (u.ctx c).run = .saved ∧ (u.ctx c).was = none) ∧
        (k.run = .halted → k.was = none → (Answers s q (.dbgResume q c false) 3 0x0304 0 fun u _ => (u.ctx c).run = .running ∧ (u.ctx c).pend = []) ∧
          ∀ it l, k.iter = some it → s.launch? it.launch = some l → l.status = none → Answers s q (.dbgResume q c true) 3 0x0304 0 fun u _ =>
            (u.launch? it.launch).map (fun x => (x.ended, x.status)) = some (true, some (0x0A, k.frame.cause.toNat % 256))) ∧
        (k.stand ≠ .halted → ∀ b, refuses (.dbgResume q c b) 3 0x0304 2))) ∧
    (s.pflog = [] → Answers s q (.logRead q) 3 0x0306 0 fun u r => kept u ∧ fieldW r 16 = 0) ∧
    (∀ e t, s.pflog = e :: t → Answers s q (.logRead q) 3 0x0306 0 fun u r => fieldW r 16 = 1 ∧ t <+: u.pflog ∧
      u.replies = s.replies ++ [(q.ring, e.bytes)]) ∧
    (Answers s q (.leaseList q none 0) 4 0x0401 0 fun _ r => fieldW r 16 = BitVec.ofNat 64 s.leases.length) ∧
    (Answers s q (.retireList q) 4 0x0403 0 fun _ r => fieldW r 16 = BitVec.ofNat 64 s.retired.length) ∧
    (∀ k n, n < unitCount k → (Answers s q (.leaseList q (some k) n) 4 0x0401 0 fun _ r =>
        fieldW r 16 = BitVec.ofNat 64 (s.leases.filter fun l => l.kind = k && l.unit = n).length) ∧
      Answers s q (.scoreRead q k n) 4 0x0402 0 fun u r => kept u ∧ fieldW r 16 = BitVec.ofNat 64 (s.unitRec k n).score ∧
        (∀ l, (s.leases.filter fun l => l.kind = k && l.unit = n).getLast? = some l → fieldW r 24 = BitVec.ofNat 64 l.state) ∧
        ∀ l, (s.leases.filter fun l => l.kind = k && l.unit = n && l.outcome ≠ 0).getLast? = some l → fieldW r 32 = BitVec.ofNat 64 l.outcome) ∧
    (∀ k p, (30 ≤ p → p ≤ 44 → Answers s q (.dryCtl q k p) 4 0x0404 0 fun u _ => kept u ∧ u.period k = 2 ^ p) ∧
      (p < 30 ∨ 44 < p → refuses (.dryCtl q k p) 4 0x0404 1)) ∧
    (∀ ring buf rc, s.locating = none →
      let i : Instr := .dryLocate q ring buf rc vf
      (s.placement? vf ring rc = none → refuses i 4 0x0405 1) ∧
      (∀ p s1, s.placement? vf ring rc = some p →
        (a.findRecord p.vf buf rc = (s1, none) → Answers s q i 4 0x0405 1 fun u _ => u = s1) ∧
        (∀ va, a.findRecord p.vf buf rc = (s1, some va) →
          (s1.cleanSets p = none → Answers s q i 4 0x0405 0 fun u r => fieldW r 16 = 3 ∧ u = s1) ∧
          (∀ q1 q2, s1.cleanSets p = some (q1, q2) → (s.asking q 4 0x0405).isSome →
            (q1 ≠ [] ∧ ∀ n ∈ q1 ++ q2, n ∈ s1.sleeveCores p.vf ∧ n ∉ p.cores) ∧
            let y : Locating := { q := q, ring := ring, vf := p.vf, bufva := buf, record := rc, seq := 0, q2 := q2, set := p.cores, phase := 0,
                                  cores := q1, started := false, ref := [] }
            exec i s = .next { s1 with locating := some y })))) ∧
    (∀ x c s1 ds cause, s.locating = some x → x.q = q →
      let i : Instr := .dryLocate q x.ring x.bufva x.record x.vf
      let gives (verdict unit : Nat) (P : State → Prop) : Prop := ∃ u, P u ∧ u.locating = none ∧
        exec i s = .next (u.answer q 4 0x0405 (FwAns.words [BitVec.ofNat 64 verdict, BitVec.ofNat 64 unit]))
      let goes (y : Locating) : Prop := ∃ u, exec i s = .next u ∧ u.locating = some y
      (x.started = false →
        ((∃ n ∈ x.cores, (s.core n).leased = true) → exec i s = .next s) ∧
        ((∀ n ∈ x.cores, (s.core n).leased = false ∧ (s.core n).leasePending = false) → goes { x with seq := s.fwLaunches, started := true })) ∧
      (x.started = true → (s.ring x.vf fwRing).cmd? x.seq = some c → c.final = false → c.graph = none → s.cmdOver c = some (3, 0, cause, 0) →
        (s.releaseVf x.vf).regionDigests x.vf c.regs = (s1, ds) →
        (x.phase = 0 → goes { x with ref := ds, phase := 1, cores := x.q2, started := false }) ∧
        (x.phase = 1 → ds ≠ x.ref → gives 3 0 fun _ => True) ∧
        (x.phase = 1 → ds = x.ref → c.regs.map (·.2.2) = x.ref → gives 0 0 fun _ => True) ∧
        (x.phase = 2 → ds = x.ref → goes { x with phase := 3, cores := x.set.filter fun n => !x.cores.contains n, started := false }) ∧
        (∀ n, 2 ≤ x.phase → ds ≠ x.ref → x.cores = [n] → n ∈ s1.sleeveCores x.vf → gives 1 n fun u =>
          (u.unitRec .core n).score = min 65535 ((s1.unitRec .core n).score + 512) ∧ ∃ l ∈ u.leases, l.kind = .core ∧ l.unit = n ∧ l.open? = true) ∧
        (∀ p n, 3 ≤ x.phase → ds = x.ref → s1.placement? x.vf x.ring x.record = some p → p.cores = [n] → gives 2 0 fun u =>
          (u.unitRec .core n).score = min 65535 ((s1.unitRec .core n).score + 64)))) ∧
    (v.enabled = true → vf < 4096 → v.resetting = false →
      (∀ n w, (∃ x ∈ s.sessions, x.num = n ∧ x.done = true ∧ (x.vf = vf ∨ x.vf = 0)) → s.tdiLocked vf = false →
        (s.ctxsOf vf = [] → v.berths = [] → (∀ r ∈ s.rings, r.vf = vf → r.en = false) → Answers s q (.keyLoad q vf n w) 5 0x0501 0 fun u _ =>
          sget 0 u.keys vf = Config.unwrapKey n w + 1 ∧ (∀ pa, v.winBase ≤ pa → pa < v.winLimit → sget 0 u.mem pa = 0) ∧
          ∀ pa, pa < v.winBase ∨ v.winLimit ≤ pa →
            sget 0 u.mem pa = if pa / 128 ∈ s.dirtyUnder vf then Config.lostByte s.tide pa else sget 0 s.mem pa) ∧
        (v.berths ≠ [] → refuses (.keyLoad q vf n w) 5 0x0501 2)) ∧
      (∀ n w, (∀ x ∈ s.sessions, x.num = n → x.done = false) → refuses (.keyLoad q vf n w) 5 0x0501 1) ∧
      (vf = 0 → refuses (.vfReset q vf) 6 0x0601 1) ∧
      (vf ≠ 0 → v.stopReq = none → Answers s q (.vfReset q vf) 6 0x0601 0 fun u _ => (u.vf vf).berths = [] ∧ (u.vf vf).tdi = 0 ∧ (u.vf vf).suspended = false ∧
        (∀ r ∈ u.rings, r.vf ≠ vf) ∧ (∀ g ∈ u.graphs, g.vf = vf → g.ended = true) ∧
        ∀ c < s.ctxs.length, (s.ctx c).vf = vf → (u.ctx c).run = .gone) ∧
      (∀ n x,
        let rest := (vgetD s.quays n Quay.reset).shares.filter fun e => e.1 ≠ vf
        n < 24 → s.tdiLocked vf = false → (rest.map (·.2)).sum + x ≤ 240 → (x = 0 ∨ rest.length < 64) →
          Answers s q (.qbwSet q n vf x) 7 0x0701 0 fun u _ => kept u ∧
            (vgetD u.quays n Quay.reset).shares = (if x = 0 then rest else rest ++ [(vf, x)]) ∧
            (vgetD u.quays n Quay.reset).sharesIn = (vgetD u.quays n Quay.reset).shares) ∧
      (∀ n x, 24 ≤ n ∨ 240 < x → refuses (.qbwSet q n vf x) 7 0x0701 1) ∧
      (∀ m size me rs, m ≤ 65535 → 2 ≤ size → size ≤ 256 → me < size → rs.length = size → (∀ r ∈ rs, r.die < 8) →
        (∀ k ∈ s.ctxs, k.vf = vf → ∀ r, k.coll = some r → r.entry.comm ≠ m) →
        Answers s q (.commSet q vf m size me rs) 7 0x0702 0 fun u _ => kept u ∧
          u.comm? vf m = some { vf := vf, num := m, rank := me, ranks := rs }))

/-! ## Reset, attestation and power (R366, R418, R424 to R426, R452 to R457) -/

/-- A cold or warm reset boots the module: with every image verified it is booted with its cores, tide and function state as after reset, each
unit holding the PASS of its sweep lease, and only memory outside it, the retirement table and loaded images kept; a bad image stops it at stage
2, where the sideband shows the image, and stays bad until a LOAD and a cold reset (R454); a unit that fails otherwise is out of service. The
rails come up in the order of R456. A VF reset takes every context, berth and ring of a function; TDISP locks and runs a function; SPDM answers;
PWRLIMIT takes 1,000 to 15,000, and each window of 2^20 cycles moves THROTTLE by at most one. The numbers of SPDM requests and the layout of the
sideband word are the model's (log 60), measurement blocks 1 and 2 and the answers of SPDM beyond what R425 states are free values (log 12). -/
def Obligations.ResetAndPower : Prop :=
  (∀ (s : State) (o : BootObs),
    let clean (cold : Bool) : Prop := if cold then ∀ n ∈ s.badImages, n ∈ s.imageOk else s.badImages = []
    let fails (cold : Bool) (i : Instr) : Prop :=
      (∀ n, clean cold → o.badImage = some n → ∃ t, exec i s = .next t ∧ t.booted = false ∧ t.bootStage = 2 ∧ t.bootImage = n ∧
        t.ctxs = [] ∧ n ∈ t.badImages ∧ n ∉ t.imageOk ∧ t.keys = []) ∧
      (∀ n ∈ s.badImages, (cold = true → n ∉ s.imageOk) → ∃ t, exec i s = .next t ∧ t.booted = false ∧ t.bootStage = 2)
    let boots (cold : Bool) (i : Instr) : Prop := clean cold → o.badImage = none → (∀ u ∈ o.failed, u.2 < unitCount u.1 →
        ∃ t, exec i s = .next t ∧ t.unitOut u.1 u.2 = true) ∧
      (o.badChannels = [] → o.failed = [] → o.sweep = [] → o.silent = [] → o.quayUp = List.range 24 → s.retired = [] →
        ∃ t, exec i s = .next t ∧ t.booted = true ∧ t.tide = 0 ∧ t.ctxs = [] ∧ t.rings = [] ∧ t.launches = [] ∧ t.cores = State.reset.cores ∧
          (∀ k u, u < unitCount k → ∃ l ∈ t.leases, l.kind = k ∧ l.unit = u ∧ l.state = 4 ∧ l.outcome = 1) ∧
          (∀ pa, isDevice pa = true → sget 0 t.mem pa = 0) ∧ ∀ pa, isDevice pa = false → sget 0 t.mem pa = sget 0 s.mem pa)
    boots true (.coldReset o) ∧ fails true (.coldReset o) ∧ boots true (.sidebandCold o) ∧ fails true (.sidebandCold o) ∧
    (s.powerOn = true → boots false (.warmReset o) ∧ fails false (.warmReset o) ∧ boots false (.sidebandWarm o) ∧ fails false (.sidebandWarm o) ∧
      (s.bootObs = o → boots false (.flr 0) ∧ fails false (.flr 0))) ∧
    (∀ k, s.rails = [Rail.auxiliary, .hbm, .core, .serdes].take k →
      ∃ t, exec (.coldReset o) s = .next t ∧ t.rails = [Rail.auxiliary, .hbm, .core, .serdes]) ∧
    (s.powerOn = true → ∃ t, exec .powerDown s = .next t ∧ t.rails = [] ∧ t.powerOn = false ∧ t.booted = false ∧ t.retired = s.retired ∧ t.ctxs = []) ∧
    (∀ r ∈ s.retired, r.kind = .core → r.unit < 128 → clean true → o.badImage = none →
      ∃ t, exec (.coldReset o) s = .next t ∧ (t.core r.unit).inService = false)) ∧
  (∀ s : State, exec .sidebandStatus s = .next { s with sideband := BitVec.ofNat 64 (s.bootImage % 256 * 256 + s.bootStage) } ∧
    ∀ n, s.booted = false → exec (.sidebandLoad n) s = .next { s with imageOk := s.imageOk ++ [n] }) ∧
  (∀ (s : State) (vf : Nat), s.booted = true → (s.vf vf).enabled = true → vf ≠ 0 →
    let gone (i : Instr) : Prop := ∃ t, exec i s = .next t ∧ (t.vf vf).berths = [] ∧ (t.vf vf).tdi = 0 ∧ (∀ r ∈ t.rings, r.vf ≠ vf) ∧
      ∀ c < s.ctxs.length, (s.ctx c).vf = vf → (t.ctx c).run = .gone
    gone (.flr vf) ∧ gone (.tdispError vf) ∧
    (∀ b, exec (.tdispRequest vf b) s = .next
      (if (s.vf vf).tdi = (if b then 1 else 0) then s.upVf vf fun v => { v with tdi := if b then 2 else 1 } else s))) ∧
  (∀ (s : State) (n : Nat), s.booted = true → n ≤ 4095 → (∀ e ∈ s.vfs, e.2.enabled = true → e.1 ≤ n) →
    ∃ t, exec (.sriovVfEnable n) s = .next t ∧ t.ctxs = s.ctxs ∧ t.mem = s.mem ∧
      ∀ v, t.vf v = if 1 ≤ v ∧ v ≤ n ∧ (s.vf v).enabled = false then Vf.enable v else s.vf v) ∧
  (∀ (s : State) (vf code : Nat), s.booted = true → (s.vf vf).enabled = true → code ≤ 9 → ∃ t b, exec (.spdmRequest vf code) s = .next t ∧
    t.replies = s.replies ++ [(vf, b)] ∧ (code = 6 → b = s.measurements vf) ∧ (code = 7 → t.sessions.length = s.sessions.length + 1) ∧
    (code = 8 → ∀ x, s.sessions = [x] → x.vf = vf → t.sessions = [{ x with done := true }]) ∧
    t.mem = s.mem ∧ t.ctxs = s.ctxs) ∧
  (∀ (s : State) (w : Word),
    let n := bitsN w 47 32
    exec (.pwrstatWrite w) s = .next (if 1000 ≤ n ∧ n ≤ 15000 then { s with pwrstat := putBits s.pwrstat 47 32 n } else s)) ∧
  (∀ (s : State) (e : Nat),
    let lim := bitsN s.pwrstat 47 32
    let old := bitsN s.pwrstat 2 0
    (s.tide < (s.powerWindow + 1) * 2 ^ 20 → exec (.powerWindow e) s = .next s) ∧
    ((s.powerWindow + 1) * 2 ^ 20 ≤ s.tide → ∃ t, exec (.powerWindow e) s = .next t ∧ t.powerWindow = s.powerWindow + 1 ∧ t.mem = s.mem ∧ t.ctxs = s.ctxs ∧ bitsN t.pwrstat 31 16 = min 65535 e ∧ bitsN t.pwrstat 47 32 = lim ∧
      bitsN t.pwrstat 2 0 = if lim < e then min 7 (old + 1) else if e * 10 < lim * 9 then old - 1 else old))
end

