-- ==== Sys2Proof/Laws/State.lean ====
section
/-! SUPPORT. What each update of the state leaves alone: one lemma for each field and each update, true by unfolding, so that no later
proof opens a record. -/

namespace Sys2Proof.Machine

/-! ## Changing a context -/

@[simp] theorem upCtx_tide (s : State) (c : Nat) (f : Ctx → Ctx) : (s.upCtx c f).tide = s.tide := rfl
@[simp] theorem upCtx_mem (s : State) (c : Nat) (f : Ctx → Ctx) : (s.upCtx c f).mem = s.mem := rfl
@[simp] theorem upCtx_code (s : State) (c : Nat) (f : Ctx → Ctx) : (s.upCtx c f).code = s.code := rfl
@[simp] theorem upCtx_codeEdits (s : State) (c : Nat) (f : Ctx → Ctx) : (s.upCtx c f).codeEdits = s.codeEdits := rfl
@[simp] theorem upCtx_sharedCode (s : State) (c : Nat) (f : Ctx → Ctx) : (s.upCtx c f).sharedCode = s.sharedCode := rfl
@[simp] theorem upCtx_uncorr (s : State) (c : Nat) (f : Ctx → Ctx) : (s.upCtx c f).uncorr = s.uncorr := rfl
@[simp] theorem upCtx_keys (s : State) (c : Nat) (f : Ctx → Ctx) : (s.upCtx c f).keys = s.keys := rfl
@[simp] theorem upCtx_sectorKey (s : State) (c : Nat) (f : Ctx → Ctx) : (s.upCtx c f).sectorKey = s.sectorKey := rfl
@[simp] theorem upCtx_keySpans (s : State) (c : Nat) (f : Ctx → Ctx) : (s.upCtx c f).keySpans = s.keySpans := rfl
@[simp] theorem upCtx_nextKey (s : State) (c : Nat) (f : Ctx → Ctx) : (s.upCtx c f).nextKey = s.nextKey := rfl
@[simp] theorem upCtx_l2 (s : State) (c : Nat) (f : Ctx → Ctx) : (s.upCtx c f).l2 = s.l2 := rfl
@[simp] theorem upCtx_l2cls (s : State) (c : Nat) (f : Ctx → Ctx) : (s.upCtx c f).l2cls = s.l2cls := rfl
@[simp] theorem upCtx_l2mon (s : State) (c : Nat) (f : Ctx → Ctx) : (s.upCtx c f).l2mon = s.l2mon := rfl
@[simp] theorem upCtx_rdc (s : State) (c : Nat) (f : Ctx → Ctx) : (s.upCtx c f).rdc = s.rdc := rfl
@[simp] theorem upCtx_mat (s : State) (c : Nat) (f : Ctx → Ctx) : (s.upCtx c f).mat = s.mat := rfl
@[simp] theorem upCtx_wcsBase (s : State) (c : Nat) (f : Ctx → Ctx) : (s.upCtx c f).wcsBase = s.wcsBase := rfl
@[simp] theorem upCtx_cores (s : State) (c : Nat) (f : Ctx → Ctx) : (s.upCtx c f).cores = s.cores := rfl
@[simp] theorem upCtx_vfs (s : State) (c : Nat) (f : Ctx → Ctx) : (s.upCtx c f).vfs = s.vfs := rfl
@[simp] theorem upCtx_rings (s : State) (c : Nat) (f : Ctx → Ctx) : (s.upCtx c f).rings = s.rings := rfl
@[simp] theorem upCtx_launches (s : State) (c : Nat) (f : Ctx → Ctx) : (s.upCtx c f).launches = s.launches := rfl
@[simp] theorem upCtx_graphs (s : State) (c : Nat) (f : Ctx → Ctx) : (s.upCtx c f).graphs = s.graphs := rfl
@[simp] theorem upCtx_sleeves (s : State) (c : Nat) (f : Ctx → Ctx) : (s.upCtx c f).sleeves = s.sleeves := rfl
@[simp] theorem upCtx_faults (s : State) (c : Nat) (f : Ctx → Ctx) : (s.upCtx c f).faults = s.faults := rfl
@[simp] theorem upCtx_nextFault (s : State) (c : Nat) (f : Ctx → Ctx) : (s.upCtx c f).nextFault = s.nextFault := rfl
@[simp] theorem upCtx_pflog (s : State) (c : Nat) (f : Ctx → Ctx) : (s.upCtx c f).pflog = s.pflog := rfl
@[simp] theorem upCtx_msix (s : State) (c : Nat) (f : Ctx → Ctx) : (s.upCtx c f).msix = s.msix := rfl
@[simp] theorem upCtx_replies (s : State) (c : Nat) (f : Ctx → Ctx) : (s.upCtx c f).replies = s.replies := rfl
@[simp] theorem upCtx_leases (s : State) (c : Nat) (f : Ctx → Ctx) : (s.upCtx c f).leases = s.leases := rfl
@[simp] theorem upCtx_nextLease (s : State) (c : Nat) (f : Ctx → Ctx) : (s.upCtx c f).nextLease = s.nextLease := rfl
@[simp] theorem upCtx_units (s : State) (c : Nat) (f : Ctx → Ctx) : (s.upCtx c f).units = s.units := rfl
@[simp] theorem upCtx_periods (s : State) (c : Nat) (f : Ctx → Ctx) : (s.upCtx c f).periods = s.periods := rfl
@[simp] theorem upCtx_retired (s : State) (c : Nat) (f : Ctx → Ctx) : (s.upCtx c f).retired = s.retired := rfl
@[simp] theorem upCtx_holds (s : State) (c : Nat) (f : Ctx → Ctx) : (s.upCtx c f).holds = s.holds := rfl
@[simp] theorem upCtx_lastHold (s : State) (c : Nat) (f : Ctx → Ctx) : (s.upCtx c f).lastHold = s.lastHold := rfl
@[simp] theorem upCtx_placements (s : State) (c : Nat) (f : Ctx → Ctx) : (s.upCtx c f).placements = s.placements := rfl
@[simp] theorem upCtx_locating (s : State) (c : Nat) (f : Ctx → Ctx) : (s.upCtx c f).locating = s.locating := rfl
@[simp] theorem upCtx_tableSig (s : State) (c : Nat) (f : Ctx → Ctx) : (s.upCtx c f).tableSig = s.tableSig := rfl
@[simp] theorem upCtx_quays (s : State) (c : Nat) (f : Ctx → Ctx) : (s.upCtx c f).quays = s.quays := rfl
@[simp] theorem upCtx_reqs (s : State) (c : Nat) (f : Ctx → Ctx) : (s.upCtx c f).reqs = s.reqs := rfl
@[simp] theorem upCtx_nextReq (s : State) (c : Nat) (f : Ctx → Ctx) : (s.upCtx c f).nextReq = s.nextReq := rfl
@[simp] theorem upCtx_peerWants (s : State) (c : Nat) (f : Ctx → Ctx) : (s.upCtx c f).peerWants = s.peerWants := rfl
@[simp] theorem upCtx_exports (s : State) (c : Nat) (f : Ctx → Ctx) : (s.upCtx c f).exports = s.exports := rfl
@[simp] theorem upCtx_comms (s : State) (c : Nat) (f : Ctx → Ctx) : (s.upCtx c f).comms = s.comms := rfl
@[simp] theorem upCtx_recvStore (s : State) (c : Nat) (f : Ctx → Ctx) : (s.upCtx c f).recvStore = s.recvStore := rfl
@[simp] theorem upCtx_arriving (s : State) (c : Nat) (f : Ctx → Ctx) : (s.upCtx c f).arriving = s.arriving := rfl
@[simp] theorem upCtx_aborted (s : State) (c : Nat) (f : Ctx → Ctx) : (s.upCtx c f).aborted = s.aborted := rfl
@[simp] theorem upCtx_sessions (s : State) (c : Nat) (f : Ctx → Ctx) : (s.upCtx c f).sessions = s.sessions := rfl
@[simp] theorem upCtx_pwrstat (s : State) (c : Nat) (f : Ctx → Ctx) : (s.upCtx c f).pwrstat = s.pwrstat := rfl
@[simp] theorem upCtx_atomicReq (s : State) (c : Nat) (f : Ctx → Ctx) : (s.upCtx c f).atomicReq = s.atomicReq := rfl
@[simp] theorem upCtx_rails (s : State) (c : Nat) (f : Ctx → Ctx) : (s.upCtx c f).rails = s.rails := rfl
@[simp] theorem upCtx_booted (s : State) (c : Nat) (f : Ctx → Ctx) : (s.upCtx c f).booted = s.booted := rfl
@[simp] theorem upCtx_bootStage (s : State) (c : Nat) (f : Ctx → Ctx) : (s.upCtx c f).bootStage = s.bootStage := rfl
@[simp] theorem upCtx_bootImage (s : State) (c : Nat) (f : Ctx → Ctx) : (s.upCtx c f).bootImage = s.bootImage := rfl
@[simp] theorem upCtx_imageOk (s : State) (c : Nat) (f : Ctx → Ctx) : (s.upCtx c f).imageOk = s.imageOk := rfl
@[simp] theorem upCtx_badImages (s : State) (c : Nat) (f : Ctx → Ctx) : (s.upCtx c f).badImages = s.badImages := rfl
@[simp] theorem upCtx_sideband (s : State) (c : Nat) (f : Ctx → Ctx) : (s.upCtx c f).sideband = s.sideband := rfl
@[simp] theorem upCtx_fwLaunches (s : State) (c : Nat) (f : Ctx → Ctx) : (s.upCtx c f).fwLaunches = s.fwLaunches := rfl
@[simp] theorem upCtx_periodNo (s : State) (c : Nat) (f : Ctx → Ctx) : (s.upCtx c f).periodNo = s.periodNo := rfl
@[simp] theorem upCtx_decayNo (s : State) (c : Nat) (f : Ctx → Ctx) : (s.upCtx c f).decayNo = s.decayNo := rfl
@[simp] theorem upCtx_powerWindow (s : State) (c : Nat) (f : Ctx → Ctx) : (s.upCtx c f).powerWindow = s.powerWindow := rfl
@[simp] theorem upCtx_bootObs (s : State) (c : Nat) (f : Ctx → Ctx) : (s.upCtx c f).bootObs = s.bootObs := rfl
@[simp] theorem upCtx_agenda (s : State) (c : Nat) (f : Ctx → Ctx) : (s.upCtx c f).agenda = s.agenda := rfl
@[simp] theorem upCtx_deferred (s : State) (c : Nat) (f : Ctx → Ctx) : (s.upCtx c f).deferred = s.deferred := rfl
@[simp] theorem upCtx_inputs (s : State) (c : Nat) (f : Ctx → Ctx) : (s.upCtx c f).inputs = s.inputs := rfl
@[simp] theorem upCtx_mail (s : State) (c : Nat) (f : Ctx → Ctx) : (s.upCtx c f).mail = s.mail := rfl
@[simp] theorem upCtx_cpls (s : State) (c : Nat) (f : Ctx → Ctx) : (s.upCtx c f).cpls = s.cpls := rfl
@[simp] theorem upCtx_edits (s : State) (c : Nat) (f : Ctx → Ctx) : (s.upCtx c f).edits = s.edits := rfl
@[simp] theorem upCtx_fwWaits (s : State) (c : Nat) (f : Ctx → Ctx) : (s.upCtx c f).fwWaits = s.fwWaits := rfl
@[simp] theorem upCtx_netBad (s : State) (c : Nat) (f : Ctx → Ctx) : (s.upCtx c f).netBad = s.netBad := rfl
@[simp] theorem upCtx_turn (s : State) (c : Nat) (f : Ctx → Ctx) : (s.upCtx c f).turn = s.turn := rfl
@[simp] theorem upCtx_late (s : State) (c : Nat) (f : Ctx → Ctx) : (s.upCtx c f).late = s.late := rfl

/-! ## Changing a core -/

@[simp] theorem upCore_tide (s : State) (n : Nat) (f : Core → Core) : (s.upCore n f).tide = s.tide := rfl
@[simp] theorem upCore_mem (s : State) (n : Nat) (f : Core → Core) : (s.upCore n f).mem = s.mem := rfl
@[simp] theorem upCore_code (s : State) (n : Nat) (f : Core → Core) : (s.upCore n f).code = s.code := rfl
@[simp] theorem upCore_codeEdits (s : State) (n : Nat) (f : Core → Core) : (s.upCore n f).codeEdits = s.codeEdits := rfl
@[simp] theorem upCore_sharedCode (s : State) (n : Nat) (f : Core → Core) : (s.upCore n f).sharedCode = s.sharedCode := rfl
@[simp] theorem upCore_uncorr (s : State) (n : Nat) (f : Core → Core) : (s.upCore n f).uncorr = s.uncorr := rfl
@[simp] theorem upCore_keys (s : State) (n : Nat) (f : Core → Core) : (s.upCore n f).keys = s.keys := rfl
@[simp] theorem upCore_sectorKey (s : State) (n : Nat) (f : Core → Core) : (s.upCore n f).sectorKey = s.sectorKey := rfl
@[simp] theorem upCore_keySpans (s : State) (n : Nat) (f : Core → Core) : (s.upCore n f).keySpans = s.keySpans := rfl
@[simp] theorem upCore_nextKey (s : State) (n : Nat) (f : Core → Core) : (s.upCore n f).nextKey = s.nextKey := rfl
@[simp] theorem upCore_l2 (s : State) (n : Nat) (f : Core → Core) : (s.upCore n f).l2 = s.l2 := rfl
@[simp] theorem upCore_l2cls (s : State) (n : Nat) (f : Core → Core) : (s.upCore n f).l2cls = s.l2cls := rfl
@[simp] theorem upCore_l2mon (s : State) (n : Nat) (f : Core → Core) : (s.upCore n f).l2mon = s.l2mon := rfl
@[simp] theorem upCore_rdc (s : State) (n : Nat) (f : Core → Core) : (s.upCore n f).rdc = s.rdc := rfl
@[simp] theorem upCore_mat (s : State) (n : Nat) (f : Core → Core) : (s.upCore n f).mat = s.mat := rfl
@[simp] theorem upCore_wcsBase (s : State) (n : Nat) (f : Core → Core) : (s.upCore n f).wcsBase = s.wcsBase := rfl
@[simp] theorem upCore_ctxs (s : State) (n : Nat) (f : Core → Core) : (s.upCore n f).ctxs = s.ctxs := rfl
@[simp] theorem upCore_vfs (s : State) (n : Nat) (f : Core → Core) : (s.upCore n f).vfs = s.vfs := rfl
@[simp] theorem upCore_rings (s : State) (n : Nat) (f : Core → Core) : (s.upCore n f).rings = s.rings := rfl
@[simp] theorem upCore_launches (s : State) (n : Nat) (f : Core → Core) : (s.upCore n f).launches = s.launches := rfl
@[simp] theorem upCore_graphs (s : State) (n : Nat) (f : Core → Core) : (s.upCore n f).graphs = s.graphs := rfl
@[simp] theorem upCore_sleeves (s : State) (n : Nat) (f : Core → Core) : (s.upCore n f).sleeves = s.sleeves := rfl
@[simp] theorem upCore_faults (s : State) (n : Nat) (f : Core → Core) : (s.upCore n f).faults = s.faults := rfl
@[simp] theorem upCore_nextFault (s : State) (n : Nat) (f : Core → Core) : (s.upCore n f).nextFault = s.nextFault := rfl
@[simp] theorem upCore_pflog (s : State) (n : Nat) (f : Core → Core) : (s.upCore n f).pflog = s.pflog := rfl
@[simp] theorem upCore_msix (s : State) (n : Nat) (f : Core → Core) : (s.upCore n f).msix = s.msix := rfl
@[simp] theorem upCore_replies (s : State) (n : Nat) (f : Core → Core) : (s.upCore n f).replies = s.replies := rfl
@[simp] theorem upCore_leases (s : State) (n : Nat) (f : Core → Core) : (s.upCore n f).leases = s.leases := rfl
@[simp] theorem upCore_nextLease (s : State) (n : Nat) (f : Core → Core) : (s.upCore n f).nextLease = s.nextLease := rfl
@[simp] theorem upCore_units (s : State) (n : Nat) (f : Core → Core) : (s.upCore n f).units = s.units := rfl
@[simp] theorem upCore_periods (s : State) (n : Nat) (f : Core → Core) : (s.upCore n f).periods = s.periods := rfl
@[simp] theorem upCore_retired (s : State) (n : Nat) (f : Core → Core) : (s.upCore n f).retired = s.retired := rfl
@[simp] theorem upCore_holds (s : State) (n : Nat) (f : Core → Core) : (s.upCore n f).holds = s.holds := rfl
@[simp] theorem upCore_lastHold (s : State) (n : Nat) (f : Core → Core) : (s.upCore n f).lastHold = s.lastHold := rfl
@[simp] theorem upCore_placements (s : State) (n : Nat) (f : Core → Core) : (s.upCore n f).placements = s.placements := rfl
@[simp] theorem upCore_locating (s : State) (n : Nat) (f : Core → Core) : (s.upCore n f).locating = s.locating := rfl
@[simp] theorem upCore_tableSig (s : State) (n : Nat) (f : Core → Core) : (s.upCore n f).tableSig = s.tableSig := rfl
@[simp] theorem upCore_quays (s : State) (n : Nat) (f : Core → Core) : (s.upCore n f).quays = s.quays := rfl
@[simp] theorem upCore_reqs (s : State) (n : Nat) (f : Core → Core) : (s.upCore n f).reqs = s.reqs := rfl
@[simp] theorem upCore_nextReq (s : State) (n : Nat) (f : Core → Core) : (s.upCore n f).nextReq = s.nextReq := rfl
@[simp] theorem upCore_peerWants (s : State) (n : Nat) (f : Core → Core) : (s.upCore n f).peerWants = s.peerWants := rfl
@[simp] theorem upCore_exports (s : State) (n : Nat) (f : Core → Core) : (s.upCore n f).exports = s.exports := rfl
@[simp] theorem upCore_comms (s : State) (n : Nat) (f : Core → Core) : (s.upCore n f).comms = s.comms := rfl
@[simp] theorem upCore_recvStore (s : State) (n : Nat) (f : Core → Core) : (s.upCore n f).recvStore = s.recvStore := rfl
@[simp] theorem upCore_arriving (s : State) (n : Nat) (f : Core → Core) : (s.upCore n f).arriving = s.arriving := rfl
@[simp] theorem upCore_aborted (s : State) (n : Nat) (f : Core → Core) : (s.upCore n f).aborted = s.aborted := rfl
@[simp] theorem upCore_sessions (s : State) (n : Nat) (f : Core → Core) : (s.upCore n f).sessions = s.sessions := rfl
@[simp] theorem upCore_pwrstat (s : State) (n : Nat) (f : Core → Core) : (s.upCore n f).pwrstat = s.pwrstat := rfl
@[simp] theorem upCore_atomicReq (s : State) (n : Nat) (f : Core → Core) : (s.upCore n f).atomicReq = s.atomicReq := rfl
@[simp] theorem upCore_rails (s : State) (n : Nat) (f : Core → Core) : (s.upCore n f).rails = s.rails := rfl
@[simp] theorem upCore_booted (s : State) (n : Nat) (f : Core → Core) : (s.upCore n f).booted = s.booted := rfl
@[simp] theorem upCore_bootStage (s : State) (n : Nat) (f : Core → Core) : (s.upCore n f).bootStage = s.bootStage := rfl
@[simp] theorem upCore_bootImage (s : State) (n : Nat) (f : Core → Core) : (s.upCore n f).bootImage = s.bootImage := rfl
@[simp] theorem upCore_imageOk (s : State) (n : Nat) (f : Core → Core) : (s.upCore n f).imageOk = s.imageOk := rfl
@[simp] theorem upCore_badImages (s : State) (n : Nat) (f : Core → Core) : (s.upCore n f).badImages = s.badImages := rfl
@[simp] theorem upCore_sideband (s : State) (n : Nat) (f : Core → Core) : (s.upCore n f).sideband = s.sideband := rfl
@[simp] theorem upCore_fwLaunches (s : State) (n : Nat) (f : Core → Core) : (s.upCore n f).fwLaunches = s.fwLaunches := rfl
@[simp] theorem upCore_periodNo (s : State) (n : Nat) (f : Core → Core) : (s.upCore n f).periodNo = s.periodNo := rfl
@[simp] theorem upCore_decayNo (s : State) (n : Nat) (f : Core → Core) : (s.upCore n f).decayNo = s.decayNo := rfl
@[simp] theorem upCore_powerWindow (s : State) (n : Nat) (f : Core → Core) : (s.upCore n f).powerWindow = s.powerWindow := rfl
@[simp] theorem upCore_bootObs (s : State) (n : Nat) (f : Core → Core) : (s.upCore n f).bootObs = s.bootObs := rfl
@[simp] theorem upCore_agenda (s : State) (n : Nat) (f : Core → Core) : (s.upCore n f).agenda = s.agenda := rfl
@[simp] theorem upCore_deferred (s : State) (n : Nat) (f : Core → Core) : (s.upCore n f).deferred = s.deferred := rfl
@[simp] theorem upCore_inputs (s : State) (n : Nat) (f : Core → Core) : (s.upCore n f).inputs = s.inputs := rfl
@[simp] theorem upCore_mail (s : State) (n : Nat) (f : Core → Core) : (s.upCore n f).mail = s.mail := rfl
@[simp] theorem upCore_cpls (s : State) (n : Nat) (f : Core → Core) : (s.upCore n f).cpls = s.cpls := rfl
@[simp] theorem upCore_edits (s : State) (n : Nat) (f : Core → Core) : (s.upCore n f).edits = s.edits := rfl
@[simp] theorem upCore_fwWaits (s : State) (n : Nat) (f : Core → Core) : (s.upCore n f).fwWaits = s.fwWaits := rfl
@[simp] theorem upCore_netBad (s : State) (n : Nat) (f : Core → Core) : (s.upCore n f).netBad = s.netBad := rfl
@[simp] theorem upCore_turn (s : State) (n : Nat) (f : Core → Core) : (s.upCore n f).turn = s.turn := rfl
@[simp] theorem upCore_late (s : State) (n : Nat) (f : Core → Core) : (s.upCore n f).late = s.late := rfl

/-! ## Changing a function -/

@[simp] theorem upVf_tide (s : State) (n : Nat) (f : Vf → Vf) : (s.upVf n f).tide = s.tide := rfl
@[simp] theorem upVf_mem (s : State) (n : Nat) (f : Vf → Vf) : (s.upVf n f).mem = s.mem := rfl
@[simp] theorem upVf_code (s : State) (n : Nat) (f : Vf → Vf) : (s.upVf n f).code = s.code := rfl
@[simp] theorem upVf_codeEdits (s : State) (n : Nat) (f : Vf → Vf) : (s.upVf n f).codeEdits = s.codeEdits := rfl
@[simp] theorem upVf_sharedCode (s : State) (n : Nat) (f : Vf → Vf) : (s.upVf n f).sharedCode = s.sharedCode := rfl
@[simp] theorem upVf_uncorr (s : State) (n : Nat) (f : Vf → Vf) : (s.upVf n f).uncorr = s.uncorr := rfl
@[simp] theorem upVf_keys (s : State) (n : Nat) (f : Vf → Vf) : (s.upVf n f).keys = s.keys := rfl
@[simp] theorem upVf_sectorKey (s : State) (n : Nat) (f : Vf → Vf) : (s.upVf n f).sectorKey = s.sectorKey := rfl
@[simp] theorem upVf_keySpans (s : State) (n : Nat) (f : Vf → Vf) : (s.upVf n f).keySpans = s.keySpans := rfl
@[simp] theorem upVf_nextKey (s : State) (n : Nat) (f : Vf → Vf) : (s.upVf n f).nextKey = s.nextKey := rfl
@[simp] theorem upVf_l2 (s : State) (n : Nat) (f : Vf → Vf) : (s.upVf n f).l2 = s.l2 := rfl
@[simp] theorem upVf_l2cls (s : State) (n : Nat) (f : Vf → Vf) : (s.upVf n f).l2cls = s.l2cls := rfl
@[simp] theorem upVf_l2mon (s : State) (n : Nat) (f : Vf → Vf) : (s.upVf n f).l2mon = s.l2mon := rfl
@[simp] theorem upVf_rdc (s : State) (n : Nat) (f : Vf → Vf) : (s.upVf n f).rdc = s.rdc := rfl
@[simp] theorem upVf_mat (s : State) (n : Nat) (f : Vf → Vf) : (s.upVf n f).mat = s.mat := rfl
@[simp] theorem upVf_wcsBase (s : State) (n : Nat) (f : Vf → Vf) : (s.upVf n f).wcsBase = s.wcsBase := rfl
@[simp] theorem upVf_cores (s : State) (n : Nat) (f : Vf → Vf) : (s.upVf n f).cores = s.cores := rfl
@[simp] theorem upVf_ctxs (s : State) (n : Nat) (f : Vf → Vf) : (s.upVf n f).ctxs = s.ctxs := rfl
@[simp] theorem upVf_rings (s : State) (n : Nat) (f : Vf → Vf) : (s.upVf n f).rings = s.rings := rfl
@[simp] theorem upVf_launches (s : State) (n : Nat) (f : Vf → Vf) : (s.upVf n f).launches = s.launches := rfl
@[simp] theorem upVf_graphs (s : State) (n : Nat) (f : Vf → Vf) : (s.upVf n f).graphs = s.graphs := rfl
@[simp] theorem upVf_sleeves (s : State) (n : Nat) (f : Vf → Vf) : (s.upVf n f).sleeves = s.sleeves := rfl
@[simp] theorem upVf_faults (s : State) (n : Nat) (f : Vf → Vf) : (s.upVf n f).faults = s.faults := rfl
@[simp] theorem upVf_nextFault (s : State) (n : Nat) (f : Vf → Vf) : (s.upVf n f).nextFault = s.nextFault := rfl
@[simp] theorem upVf_pflog (s : State) (n : Nat) (f : Vf → Vf) : (s.upVf n f).pflog = s.pflog := rfl
@[simp] theorem upVf_msix (s : State) (n : Nat) (f : Vf → Vf) : (s.upVf n f).msix = s.msix := rfl
@[simp] theorem upVf_replies (s : State) (n : Nat) (f : Vf → Vf) : (s.upVf n f).replies = s.replies := rfl
@[simp] theorem upVf_leases (s : State) (n : Nat) (f : Vf → Vf) : (s.upVf n f).leases = s.leases := rfl
@[simp] theorem upVf_nextLease (s : State) (n : Nat) (f : Vf → Vf) : (s.upVf n f).nextLease = s.nextLease := rfl
@[simp] theorem upVf_units (s : State) (n : Nat) (f : Vf → Vf) : (s.upVf n f).units = s.units := rfl
@[simp] theorem upVf_periods (s : State) (n : Nat) (f : Vf → Vf) : (s.upVf n f).periods = s.periods := rfl
@[simp] theorem upVf_retired (s : State) (n : Nat) (f : Vf → Vf) : (s.upVf n f).retired = s.retired := rfl
@[simp] theorem upVf_holds (s : State) (n : Nat) (f : Vf → Vf) : (s.upVf n f).holds = s.holds := rfl
@[simp] theorem upVf_lastHold (s : State) (n : Nat) (f : Vf → Vf) : (s.upVf n f).lastHold = s.lastHold := rfl
@[simp] theorem upVf_placements (s : State) (n : Nat) (f : Vf → Vf) : (s.upVf n f).placements = s.placements := rfl
@[simp] theorem upVf_locating (s : State) (n : Nat) (f : Vf → Vf) : (s.upVf n f).locating = s.locating := rfl
@[simp] theorem upVf_tableSig (s : State) (n : Nat) (f : Vf → Vf) : (s.upVf n f).tableSig = s.tableSig := rfl
@[simp] theorem upVf_quays (s : State) (n : Nat) (f : Vf → Vf) : (s.upVf n f).quays = s.quays := rfl
@[simp] theorem upVf_reqs (s : State) (n : Nat) (f : Vf → Vf) : (s.upVf n f).reqs = s.reqs := rfl
@[simp] theorem upVf_nextReq (s : State) (n : Nat) (f : Vf → Vf) : (s.upVf n f).nextReq = s.nextReq := rfl
@[simp] theorem upVf_peerWants (s : State) (n : Nat) (f : Vf → Vf) : (s.upVf n f).peerWants = s.peerWants := rfl
@[simp] theorem upVf_exports (s : State) (n : Nat) (f : Vf → Vf) : (s.upVf n f).exports = s.exports := rfl
@[simp] theorem upVf_comms (s : State) (n : Nat) (f : Vf → Vf) : (s.upVf n f).comms = s.comms := rfl
@[simp] theorem upVf_recvStore (s : State) (n : Nat) (f : Vf → Vf) : (s.upVf n f).recvStore = s.recvStore := rfl
@[simp] theorem upVf_arriving (s : State) (n : Nat) (f : Vf → Vf) : (s.upVf n f).arriving = s.arriving := rfl
@[simp] theorem upVf_aborted (s : State) (n : Nat) (f : Vf → Vf) : (s.upVf n f).aborted = s.aborted := rfl
@[simp] theorem upVf_sessions (s : State) (n : Nat) (f : Vf → Vf) : (s.upVf n f).sessions = s.sessions := rfl
@[simp] theorem upVf_pwrstat (s : State) (n : Nat) (f : Vf → Vf) : (s.upVf n f).pwrstat = s.pwrstat := rfl
@[simp] theorem upVf_atomicReq (s : State) (n : Nat) (f : Vf → Vf) : (s.upVf n f).atomicReq = s.atomicReq := rfl
@[simp] theorem upVf_rails (s : State) (n : Nat) (f : Vf → Vf) : (s.upVf n f).rails = s.rails := rfl
@[simp] theorem upVf_booted (s : State) (n : Nat) (f : Vf → Vf) : (s.upVf n f).booted = s.booted := rfl
@[simp] theorem upVf_bootStage (s : State) (n : Nat) (f : Vf → Vf) : (s.upVf n f).bootStage = s.bootStage := rfl
@[simp] theorem upVf_bootImage (s : State) (n : Nat) (f : Vf → Vf) : (s.upVf n f).bootImage = s.bootImage := rfl
@[simp] theorem upVf_imageOk (s : State) (n : Nat) (f : Vf → Vf) : (s.upVf n f).imageOk = s.imageOk := rfl
@[simp] theorem upVf_badImages (s : State) (n : Nat) (f : Vf → Vf) : (s.upVf n f).badImages = s.badImages := rfl
@[simp] theorem upVf_sideband (s : State) (n : Nat) (f : Vf → Vf) : (s.upVf n f).sideband = s.sideband := rfl
@[simp] theorem upVf_fwLaunches (s : State) (n : Nat) (f : Vf → Vf) : (s.upVf n f).fwLaunches = s.fwLaunches := rfl
@[simp] theorem upVf_periodNo (s : State) (n : Nat) (f : Vf → Vf) : (s.upVf n f).periodNo = s.periodNo := rfl
@[simp] theorem upVf_decayNo (s : State) (n : Nat) (f : Vf → Vf) : (s.upVf n f).decayNo = s.decayNo := rfl
@[simp] theorem upVf_powerWindow (s : State) (n : Nat) (f : Vf → Vf) : (s.upVf n f).powerWindow = s.powerWindow := rfl
@[simp] theorem upVf_bootObs (s : State) (n : Nat) (f : Vf → Vf) : (s.upVf n f).bootObs = s.bootObs := rfl
@[simp] theorem upVf_agenda (s : State) (n : Nat) (f : Vf → Vf) : (s.upVf n f).agenda = s.agenda := rfl
@[simp] theorem upVf_deferred (s : State) (n : Nat) (f : Vf → Vf) : (s.upVf n f).deferred = s.deferred := rfl
@[simp] theorem upVf_inputs (s : State) (n : Nat) (f : Vf → Vf) : (s.upVf n f).inputs = s.inputs := rfl
@[simp] theorem upVf_mail (s : State) (n : Nat) (f : Vf → Vf) : (s.upVf n f).mail = s.mail := rfl
@[simp] theorem upVf_cpls (s : State) (n : Nat) (f : Vf → Vf) : (s.upVf n f).cpls = s.cpls := rfl
@[simp] theorem upVf_edits (s : State) (n : Nat) (f : Vf → Vf) : (s.upVf n f).edits = s.edits := rfl
@[simp] theorem upVf_fwWaits (s : State) (n : Nat) (f : Vf → Vf) : (s.upVf n f).fwWaits = s.fwWaits := rfl
@[simp] theorem upVf_netBad (s : State) (n : Nat) (f : Vf → Vf) : (s.upVf n f).netBad = s.netBad := rfl
@[simp] theorem upVf_turn (s : State) (n : Nat) (f : Vf → Vf) : (s.upVf n f).turn = s.turn := rfl
@[simp] theorem upVf_late (s : State) (n : Nat) (f : Vf → Vf) : (s.upVf n f).late = s.late := rfl

/-! ## Changing a launch -/

@[simp] theorem upLaunch_tide (s : State) (n : Nat) (f : Launch → Launch) : (s.upLaunch n f).tide = s.tide := rfl
@[simp] theorem upLaunch_mem (s : State) (n : Nat) (f : Launch → Launch) : (s.upLaunch n f).mem = s.mem := rfl
@[simp] theorem upLaunch_code (s : State) (n : Nat) (f : Launch → Launch) : (s.upLaunch n f).code = s.code := rfl
@[simp] theorem upLaunch_codeEdits (s : State) (n : Nat) (f : Launch → Launch) : (s.upLaunch n f).codeEdits = s.codeEdits := rfl
@[simp] theorem upLaunch_sharedCode (s : State) (n : Nat) (f : Launch → Launch) : (s.upLaunch n f).sharedCode = s.sharedCode := rfl
@[simp] theorem upLaunch_uncorr (s : State) (n : Nat) (f : Launch → Launch) : (s.upLaunch n f).uncorr = s.uncorr := rfl
@[simp] theorem upLaunch_keys (s : State) (n : Nat) (f : Launch → Launch) : (s.upLaunch n f).keys = s.keys := rfl
@[simp] theorem upLaunch_sectorKey (s : State) (n : Nat) (f : Launch → Launch) : (s.upLaunch n f).sectorKey = s.sectorKey := rfl
@[simp] theorem upLaunch_keySpans (s : State) (n : Nat) (f : Launch → Launch) : (s.upLaunch n f).keySpans = s.keySpans := rfl
@[simp] theorem upLaunch_nextKey (s : State) (n : Nat) (f : Launch → Launch) : (s.upLaunch n f).nextKey = s.nextKey := rfl
@[simp] theorem upLaunch_l2 (s : State) (n : Nat) (f : Launch → Launch) : (s.upLaunch n f).l2 = s.l2 := rfl
@[simp] theorem upLaunch_l2cls (s : State) (n : Nat) (f : Launch → Launch) : (s.upLaunch n f).l2cls = s.l2cls := rfl
@[simp] theorem upLaunch_l2mon (s : State) (n : Nat) (f : Launch → Launch) : (s.upLaunch n f).l2mon = s.l2mon := rfl
@[simp] theorem upLaunch_rdc (s : State) (n : Nat) (f : Launch → Launch) : (s.upLaunch n f).rdc = s.rdc := rfl
@[simp] theorem upLaunch_mat (s : State) (n : Nat) (f : Launch → Launch) : (s.upLaunch n f).mat = s.mat := rfl
@[simp] theorem upLaunch_wcsBase (s : State) (n : Nat) (f : Launch → Launch) : (s.upLaunch n f).wcsBase = s.wcsBase := rfl
@[simp] theorem upLaunch_cores (s : State) (n : Nat) (f : Launch → Launch) : (s.upLaunch n f).cores = s.cores := rfl
@[simp] theorem upLaunch_ctxs (s : State) (n : Nat) (f : Launch → Launch) : (s.upLaunch n f).ctxs = s.ctxs := rfl
@[simp] theorem upLaunch_vfs (s : State) (n : Nat) (f : Launch → Launch) : (s.upLaunch n f).vfs = s.vfs := rfl
@[simp] theorem upLaunch_rings (s : State) (n : Nat) (f : Launch → Launch) : (s.upLaunch n f).rings = s.rings := rfl
@[simp] theorem upLaunch_graphs (s : State) (n : Nat) (f : Launch → Launch) : (s.upLaunch n f).graphs = s.graphs := rfl
@[simp] theorem upLaunch_sleeves (s : State) (n : Nat) (f : Launch → Launch) : (s.upLaunch n f).sleeves = s.sleeves := rfl
@[simp] theorem upLaunch_faults (s : State) (n : Nat) (f : Launch → Launch) : (s.upLaunch n f).faults = s.faults := rfl
@[simp] theorem upLaunch_nextFault (s : State) (n : Nat) (f : Launch → Launch) : (s.upLaunch n f).nextFault = s.nextFault := rfl
@[simp] theorem upLaunch_pflog (s : State) (n : Nat) (f : Launch → Launch) : (s.upLaunch n f).pflog = s.pflog := rfl
@[simp] theorem upLaunch_msix (s : State) (n : Nat) (f : Launch → Launch) : (s.upLaunch n f).msix = s.msix := rfl
@[simp] theorem upLaunch_replies (s : State) (n : Nat) (f : Launch → Launch) : (s.upLaunch n f).replies = s.replies := rfl
@[simp] theorem upLaunch_leases (s : State) (n : Nat) (f : Launch → Launch) : (s.upLaunch n f).leases = s.leases := rfl
@[simp] theorem upLaunch_nextLease (s : State) (n : Nat) (f : Launch → Launch) : (s.upLaunch n f).nextLease = s.nextLease := rfl
@[simp] theorem upLaunch_units (s : State) (n : Nat) (f : Launch → Launch) : (s.upLaunch n f).units = s.units := rfl
@[simp] theorem upLaunch_periods (s : State) (n : Nat) (f : Launch → Launch) : (s.upLaunch n f).periods = s.periods := rfl
@[simp] theorem upLaunch_retired (s : State) (n : Nat) (f : Launch → Launch) : (s.upLaunch n f).retired = s.retired := rfl
@[simp] theorem upLaunch_holds (s : State) (n : Nat) (f : Launch → Launch) : (s.upLaunch n f).holds = s.holds := rfl
@[simp] theorem upLaunch_lastHold (s : State) (n : Nat) (f : Launch → Launch) : (s.upLaunch n f).lastHold = s.lastHold := rfl
@[simp] theorem upLaunch_placements (s : State) (n : Nat) (f : Launch → Launch) : (s.upLaunch n f).placements = s.placements := rfl
@[simp] theorem upLaunch_locating (s : State) (n : Nat) (f : Launch → Launch) : (s.upLaunch n f).locating = s.locating := rfl
@[simp] theorem upLaunch_tableSig (s : State) (n : Nat) (f : Launch → Launch) : (s.upLaunch n f).tableSig = s.tableSig := rfl
@[simp] theorem upLaunch_quays (s : State) (n : Nat) (f : Launch → Launch) : (s.upLaunch n f).quays = s.quays := rfl
@[simp] theorem upLaunch_reqs (s : State) (n : Nat) (f : Launch → Launch) : (s.upLaunch n f).reqs = s.reqs := rfl
@[simp] theorem upLaunch_nextReq (s : State) (n : Nat) (f : Launch → Launch) : (s.upLaunch n f).nextReq = s.nextReq := rfl
@[simp] theorem upLaunch_peerWants (s : State) (n : Nat) (f : Launch → Launch) : (s.upLaunch n f).peerWants = s.peerWants := rfl
@[simp] theorem upLaunch_exports (s : State) (n : Nat) (f : Launch → Launch) : (s.upLaunch n f).exports = s.exports := rfl
@[simp] theorem upLaunch_comms (s : State) (n : Nat) (f : Launch → Launch) : (s.upLaunch n f).comms = s.comms := rfl
@[simp] theorem upLaunch_recvStore (s : State) (n : Nat) (f : Launch → Launch) : (s.upLaunch n f).recvStore = s.recvStore := rfl
@[simp] theorem upLaunch_arriving (s : State) (n : Nat) (f : Launch → Launch) : (s.upLaunch n f).arriving = s.arriving := rfl
@[simp] theorem upLaunch_aborted (s : State) (n : Nat) (f : Launch → Launch) : (s.upLaunch n f).aborted = s.aborted := rfl
@[simp] theorem upLaunch_sessions (s : State) (n : Nat) (f : Launch → Launch) : (s.upLaunch n f).sessions = s.sessions := rfl
@[simp] theorem upLaunch_pwrstat (s : State) (n : Nat) (f : Launch → Launch) : (s.upLaunch n f).pwrstat = s.pwrstat := rfl
@[simp] theorem upLaunch_atomicReq (s : State) (n : Nat) (f : Launch → Launch) : (s.upLaunch n f).atomicReq = s.atomicReq := rfl
@[simp] theorem upLaunch_rails (s : State) (n : Nat) (f : Launch → Launch) : (s.upLaunch n f).rails = s.rails := rfl
@[simp] theorem upLaunch_booted (s : State) (n : Nat) (f : Launch → Launch) : (s.upLaunch n f).booted = s.booted := rfl
@[simp] theorem upLaunch_bootStage (s : State) (n : Nat) (f : Launch → Launch) : (s.upLaunch n f).bootStage = s.bootStage := rfl
@[simp] theorem upLaunch_bootImage (s : State) (n : Nat) (f : Launch → Launch) : (s.upLaunch n f).bootImage = s.bootImage := rfl
@[simp] theorem upLaunch_imageOk (s : State) (n : Nat) (f : Launch → Launch) : (s.upLaunch n f).imageOk = s.imageOk := rfl
@[simp] theorem upLaunch_badImages (s : State) (n : Nat) (f : Launch → Launch) : (s.upLaunch n f).badImages = s.badImages := rfl
@[simp] theorem upLaunch_sideband (s : State) (n : Nat) (f : Launch → Launch) : (s.upLaunch n f).sideband = s.sideband := rfl
@[simp] theorem upLaunch_fwLaunches (s : State) (n : Nat) (f : Launch → Launch) : (s.upLaunch n f).fwLaunches = s.fwLaunches := rfl
@[simp] theorem upLaunch_periodNo (s : State) (n : Nat) (f : Launch → Launch) : (s.upLaunch n f).periodNo = s.periodNo := rfl
@[simp] theorem upLaunch_decayNo (s : State) (n : Nat) (f : Launch → Launch) : (s.upLaunch n f).decayNo = s.decayNo := rfl
@[simp] theorem upLaunch_powerWindow (s : State) (n : Nat) (f : Launch → Launch) : (s.upLaunch n f).powerWindow = s.powerWindow := rfl
@[simp] theorem upLaunch_bootObs (s : State) (n : Nat) (f : Launch → Launch) : (s.upLaunch n f).bootObs = s.bootObs := rfl
@[simp] theorem upLaunch_agenda (s : State) (n : Nat) (f : Launch → Launch) : (s.upLaunch n f).agenda = s.agenda := rfl
@[simp] theorem upLaunch_deferred (s : State) (n : Nat) (f : Launch → Launch) : (s.upLaunch n f).deferred = s.deferred := rfl
@[simp] theorem upLaunch_inputs (s : State) (n : Nat) (f : Launch → Launch) : (s.upLaunch n f).inputs = s.inputs := rfl
@[simp] theorem upLaunch_mail (s : State) (n : Nat) (f : Launch → Launch) : (s.upLaunch n f).mail = s.mail := rfl
@[simp] theorem upLaunch_cpls (s : State) (n : Nat) (f : Launch → Launch) : (s.upLaunch n f).cpls = s.cpls := rfl
@[simp] theorem upLaunch_edits (s : State) (n : Nat) (f : Launch → Launch) : (s.upLaunch n f).edits = s.edits := rfl
@[simp] theorem upLaunch_fwWaits (s : State) (n : Nat) (f : Launch → Launch) : (s.upLaunch n f).fwWaits = s.fwWaits := rfl
@[simp] theorem upLaunch_netBad (s : State) (n : Nat) (f : Launch → Launch) : (s.upLaunch n f).netBad = s.netBad := rfl
@[simp] theorem upLaunch_turn (s : State) (n : Nat) (f : Launch → Launch) : (s.upLaunch n f).turn = s.turn := rfl
@[simp] theorem upLaunch_late (s : State) (n : Nat) (f : Launch → Launch) : (s.upLaunch n f).late = s.late := rfl

/-! ## Changing a sequencer of a context -/

@[simp] theorem upSeq_tide (s : State) (c : Nat) (st : Stream) (f : Seq → Seq) : (s.upSeq c st f).tide = s.tide := rfl
@[simp] theorem upSeq_mem (s : State) (c : Nat) (st : Stream) (f : Seq → Seq) : (s.upSeq c st f).mem = s.mem := rfl
@[simp] theorem upSeq_code (s : State) (c : Nat) (st : Stream) (f : Seq → Seq) : (s.upSeq c st f).code = s.code := rfl
@[simp] theorem upSeq_codeEdits (s : State) (c : Nat) (st : Stream) (f : Seq → Seq) : (s.upSeq c st f).codeEdits = s.codeEdits := rfl
@[simp] theorem upSeq_sharedCode (s : State) (c : Nat) (st : Stream) (f : Seq → Seq) : (s.upSeq c st f).sharedCode = s.sharedCode := rfl
@[simp] theorem upSeq_uncorr (s : State) (c : Nat) (st : Stream) (f : Seq → Seq) : (s.upSeq c st f).uncorr = s.uncorr := rfl
@[simp] theorem upSeq_keys (s : State) (c : Nat) (st : Stream) (f : Seq → Seq) : (s.upSeq c st f).keys = s.keys := rfl
@[simp] theorem upSeq_sectorKey (s : State) (c : Nat) (st : Stream) (f : Seq → Seq) : (s.upSeq c st f).sectorKey = s.sectorKey := rfl
@[simp] theorem upSeq_keySpans (s : State) (c : Nat) (st : Stream) (f : Seq → Seq) : (s.upSeq c st f).keySpans = s.keySpans := rfl
@[simp] theorem upSeq_nextKey (s : State) (c : Nat) (st : Stream) (f : Seq → Seq) : (s.upSeq c st f).nextKey = s.nextKey := rfl
@[simp] theorem upSeq_l2 (s : State) (c : Nat) (st : Stream) (f : Seq → Seq) : (s.upSeq c st f).l2 = s.l2 := rfl
@[simp] theorem upSeq_l2cls (s : State) (c : Nat) (st : Stream) (f : Seq → Seq) : (s.upSeq c st f).l2cls = s.l2cls := rfl
@[simp] theorem upSeq_l2mon (s : State) (c : Nat) (st : Stream) (f : Seq → Seq) : (s.upSeq c st f).l2mon = s.l2mon := rfl
@[simp] theorem upSeq_rdc (s : State) (c : Nat) (st : Stream) (f : Seq → Seq) : (s.upSeq c st f).rdc = s.rdc := rfl
@[simp] theorem upSeq_mat (s : State) (c : Nat) (st : Stream) (f : Seq → Seq) : (s.upSeq c st f).mat = s.mat := rfl
@[simp] theorem upSeq_wcsBase (s : State) (c : Nat) (st : Stream) (f : Seq → Seq) : (s.upSeq c st f).wcsBase = s.wcsBase := rfl
@[simp] theorem upSeq_cores (s : State) (c : Nat) (st : Stream) (f : Seq → Seq) : (s.upSeq c st f).cores = s.cores := rfl
@[simp] theorem upSeq_vfs (s : State) (c : Nat) (st : Stream) (f : Seq → Seq) : (s.upSeq c st f).vfs = s.vfs := rfl
@[simp] theorem upSeq_rings (s : State) (c : Nat) (st : Stream) (f : Seq → Seq) : (s.upSeq c st f).rings = s.rings := rfl
@[simp] theorem upSeq_launches (s : State) (c : Nat) (st : Stream) (f : Seq → Seq) : (s.upSeq c st f).launches = s.launches := rfl
@[simp] theorem upSeq_graphs (s : State) (c : Nat) (st : Stream) (f : Seq → Seq) : (s.upSeq c st f).graphs = s.graphs := rfl
@[simp] theorem upSeq_sleeves (s : State) (c : Nat) (st : Stream) (f : Seq → Seq) : (s.upSeq c st f).sleeves = s.sleeves := rfl
@[simp] theorem upSeq_faults (s : State) (c : Nat) (st : Stream) (f : Seq → Seq) : (s.upSeq c st f).faults = s.faults := rfl
@[simp] theorem upSeq_nextFault (s : State) (c : Nat) (st : Stream) (f : Seq → Seq) : (s.upSeq c st f).nextFault = s.nextFault := rfl
@[simp] theorem upSeq_pflog (s : State) (c : Nat) (st : Stream) (f : Seq → Seq) : (s.upSeq c st f).pflog = s.pflog := rfl
@[simp] theorem upSeq_msix (s : State) (c : Nat) (st : Stream) (f : Seq → Seq) : (s.upSeq c st f).msix = s.msix := rfl
@[simp] theorem upSeq_replies (s : State) (c : Nat) (st : Stream) (f : Seq → Seq) : (s.upSeq c st f).replies = s.replies := rfl
@[simp] theorem upSeq_leases (s : State) (c : Nat) (st : Stream) (f : Seq → Seq) : (s.upSeq c st f).leases = s.leases := rfl
@[simp] theorem upSeq_nextLease (s : State) (c : Nat) (st : Stream) (f : Seq → Seq) : (s.upSeq c st f).nextLease = s.nextLease := rfl
@[simp] theorem upSeq_units (s : State) (c : Nat) (st : Stream) (f : Seq → Seq) : (s.upSeq c st f).units = s.units := rfl
@[simp] theorem upSeq_periods (s : State) (c : Nat) (st : Stream) (f : Seq → Seq) : (s.upSeq c st f).periods = s.periods := rfl
@[simp] theorem upSeq_retired (s : State) (c : Nat) (st : Stream) (f : Seq → Seq) : (s.upSeq c st f).retired = s.retired := rfl
@[simp] theorem upSeq_holds (s : State) (c : Nat) (st : Stream) (f : Seq → Seq) : (s.upSeq c st f).holds = s.holds := rfl
@[simp] theorem upSeq_lastHold (s : State) (c : Nat) (st : Stream) (f : Seq → Seq) : (s.upSeq c st f).lastHold = s.lastHold := rfl
@[simp] theorem upSeq_placements (s : State) (c : Nat) (st : Stream) (f : Seq → Seq) : (s.upSeq c st f).placements = s.placements := rfl
@[simp] theorem upSeq_locating (s : State) (c : Nat) (st : Stream) (f : Seq → Seq) : (s.upSeq c st f).locating = s.locating := rfl
@[simp] theorem upSeq_tableSig (s : State) (c : Nat) (st : Stream) (f : Seq → Seq) : (s.upSeq c st f).tableSig = s.tableSig := rfl
@[simp] theorem upSeq_quays (s : State) (c : Nat) (st : Stream) (f : Seq → Seq) : (s.upSeq c st f).quays = s.quays := rfl
@[simp] theorem upSeq_reqs (s : State) (c : Nat) (st : Stream) (f : Seq → Seq) : (s.upSeq c st f).reqs = s.reqs := rfl
@[simp] theorem upSeq_nextReq (s : State) (c : Nat) (st : Stream) (f : Seq → Seq) : (s.upSeq c st f).nextReq = s.nextReq := rfl
@[simp] theorem upSeq_peerWants (s : State) (c : Nat) (st : Stream) (f : Seq → Seq) : (s.upSeq c st f).peerWants = s.peerWants := rfl
@[simp] theorem upSeq_exports (s : State) (c : Nat) (st : Stream) (f : Seq → Seq) : (s.upSeq c st f).exports = s.exports := rfl
@[simp] theorem upSeq_comms (s : State) (c : Nat) (st : Stream) (f : Seq → Seq) : (s.upSeq c st f).comms = s.comms := rfl
@[simp] theorem upSeq_recvStore (s : State) (c : Nat) (st : Stream) (f : Seq → Seq) : (s.upSeq c st f).recvStore = s.recvStore := rfl
@[simp] theorem upSeq_arriving (s : State) (c : Nat) (st : Stream) (f : Seq → Seq) : (s.upSeq c st f).arriving = s.arriving := rfl
@[simp] theorem upSeq_aborted (s : State) (c : Nat) (st : Stream) (f : Seq → Seq) : (s.upSeq c st f).aborted = s.aborted := rfl
@[simp] theorem upSeq_sessions (s : State) (c : Nat) (st : Stream) (f : Seq → Seq) : (s.upSeq c st f).sessions = s.sessions := rfl
@[simp] theorem upSeq_pwrstat (s : State) (c : Nat) (st : Stream) (f : Seq → Seq) : (s.upSeq c st f).pwrstat = s.pwrstat := rfl
@[simp] theorem upSeq_atomicReq (s : State) (c : Nat) (st : Stream) (f : Seq → Seq) : (s.upSeq c st f).atomicReq = s.atomicReq := rfl
@[simp] theorem upSeq_rails (s : State) (c : Nat) (st : Stream) (f : Seq → Seq) : (s.upSeq c st f).rails = s.rails := rfl
@[simp] theorem upSeq_booted (s : State) (c : Nat) (st : Stream) (f : Seq → Seq) : (s.upSeq c st f).booted = s.booted := rfl
@[simp] theorem upSeq_bootStage (s : State) (c : Nat) (st : Stream) (f : Seq → Seq) : (s.upSeq c st f).bootStage = s.bootStage := rfl
@[simp] theorem upSeq_bootImage (s : State) (c : Nat) (st : Stream) (f : Seq → Seq) : (s.upSeq c st f).bootImage = s.bootImage := rfl
@[simp] theorem upSeq_imageOk (s : State) (c : Nat) (st : Stream) (f : Seq → Seq) : (s.upSeq c st f).imageOk = s.imageOk := rfl
@[simp] theorem upSeq_badImages (s : State) (c : Nat) (st : Stream) (f : Seq → Seq) : (s.upSeq c st f).badImages = s.badImages := rfl
@[simp] theorem upSeq_sideband (s : State) (c : Nat) (st : Stream) (f : Seq → Seq) : (s.upSeq c st f).sideband = s.sideband := rfl
@[simp] theorem upSeq_fwLaunches (s : State) (c : Nat) (st : Stream) (f : Seq → Seq) : (s.upSeq c st f).fwLaunches = s.fwLaunches := rfl
@[simp] theorem upSeq_periodNo (s : State) (c : Nat) (st : Stream) (f : Seq → Seq) : (s.upSeq c st f).periodNo = s.periodNo := rfl
@[simp] theorem upSeq_decayNo (s : State) (c : Nat) (st : Stream) (f : Seq → Seq) : (s.upSeq c st f).decayNo = s.decayNo := rfl
@[simp] theorem upSeq_powerWindow (s : State) (c : Nat) (st : Stream) (f : Seq → Seq) : (s.upSeq c st f).powerWindow = s.powerWindow := rfl
@[simp] theorem upSeq_bootObs (s : State) (c : Nat) (st : Stream) (f : Seq → Seq) : (s.upSeq c st f).bootObs = s.bootObs := rfl
@[simp] theorem upSeq_agenda (s : State) (c : Nat) (st : Stream) (f : Seq → Seq) : (s.upSeq c st f).agenda = s.agenda := rfl
@[simp] theorem upSeq_deferred (s : State) (c : Nat) (st : Stream) (f : Seq → Seq) : (s.upSeq c st f).deferred = s.deferred := rfl
@[simp] theorem upSeq_inputs (s : State) (c : Nat) (st : Stream) (f : Seq → Seq) : (s.upSeq c st f).inputs = s.inputs := rfl
@[simp] theorem upSeq_mail (s : State) (c : Nat) (st : Stream) (f : Seq → Seq) : (s.upSeq c st f).mail = s.mail := rfl
@[simp] theorem upSeq_cpls (s : State) (c : Nat) (st : Stream) (f : Seq → Seq) : (s.upSeq c st f).cpls = s.cpls := rfl
@[simp] theorem upSeq_edits (s : State) (c : Nat) (st : Stream) (f : Seq → Seq) : (s.upSeq c st f).edits = s.edits := rfl
@[simp] theorem upSeq_fwWaits (s : State) (c : Nat) (st : Stream) (f : Seq → Seq) : (s.upSeq c st f).fwWaits = s.fwWaits := rfl
@[simp] theorem upSeq_netBad (s : State) (c : Nat) (st : Stream) (f : Seq → Seq) : (s.upSeq c st f).netBad = s.netBad := rfl
@[simp] theorem upSeq_turn (s : State) (c : Nat) (st : Stream) (f : Seq → Seq) : (s.upSeq c st f).turn = s.turn := rfl
@[simp] theorem upSeq_late (s : State) (c : Nat) (st : Stream) (f : Seq → Seq) : (s.upSeq c st f).late = s.late := rfl

/-! ## Logging for the physical function -/

@[simp] theorem logPf_tide (s : State) (e : LogEntry) : (s.logPf e).tide = s.tide := rfl
@[simp] theorem logPf_mem (s : State) (e : LogEntry) : (s.logPf e).mem = s.mem := rfl
@[simp] theorem logPf_code (s : State) (e : LogEntry) : (s.logPf e).code = s.code := rfl
@[simp] theorem logPf_codeEdits (s : State) (e : LogEntry) : (s.logPf e).codeEdits = s.codeEdits := rfl
@[simp] theorem logPf_sharedCode (s : State) (e : LogEntry) : (s.logPf e).sharedCode = s.sharedCode := rfl
@[simp] theorem logPf_uncorr (s : State) (e : LogEntry) : (s.logPf e).uncorr = s.uncorr := rfl
@[simp] theorem logPf_keys (s : State) (e : LogEntry) : (s.logPf e).keys = s.keys := rfl
@[simp] theorem logPf_sectorKey (s : State) (e : LogEntry) : (s.logPf e).sectorKey = s.sectorKey := rfl
@[simp] theorem logPf_keySpans (s : State) (e : LogEntry) : (s.logPf e).keySpans = s.keySpans := rfl
@[simp] theorem logPf_nextKey (s : State) (e : LogEntry) : (s.logPf e).nextKey = s.nextKey := rfl
@[simp] theorem logPf_l2 (s : State) (e : LogEntry) : (s.logPf e).l2 = s.l2 := rfl
@[simp] theorem logPf_l2cls (s : State) (e : LogEntry) : (s.logPf e).l2cls = s.l2cls := rfl
@[simp] theorem logPf_l2mon (s : State) (e : LogEntry) : (s.logPf e).l2mon = s.l2mon := rfl
@[simp] theorem logPf_rdc (s : State) (e : LogEntry) : (s.logPf e).rdc = s.rdc := rfl
@[simp] theorem logPf_mat (s : State) (e : LogEntry) : (s.logPf e).mat = s.mat := rfl
@[simp] theorem logPf_wcsBase (s : State) (e : LogEntry) : (s.logPf e).wcsBase = s.wcsBase := rfl
@[simp] theorem logPf_cores (s : State) (e : LogEntry) : (s.logPf e).cores = s.cores := rfl
@[simp] theorem logPf_ctxs (s : State) (e : LogEntry) : (s.logPf e).ctxs = s.ctxs := rfl
@[simp] theorem logPf_vfs (s : State) (e : LogEntry) : (s.logPf e).vfs = s.vfs := rfl
@[simp] theorem logPf_rings (s : State) (e : LogEntry) : (s.logPf e).rings = s.rings := rfl
@[simp] theorem logPf_launches (s : State) (e : LogEntry) : (s.logPf e).launches = s.launches := rfl
@[simp] theorem logPf_graphs (s : State) (e : LogEntry) : (s.logPf e).graphs = s.graphs := rfl
@[simp] theorem logPf_sleeves (s : State) (e : LogEntry) : (s.logPf e).sleeves = s.sleeves := rfl
@[simp] theorem logPf_faults (s : State) (e : LogEntry) : (s.logPf e).faults = s.faults := rfl
@[simp] theorem logPf_nextFault (s : State) (e : LogEntry) : (s.logPf e).nextFault = s.nextFault := rfl
@[simp] theorem logPf_replies (s : State) (e : LogEntry) : (s.logPf e).replies = s.replies := rfl
@[simp] theorem logPf_leases (s : State) (e : LogEntry) : (s.logPf e).leases = s.leases := rfl
@[simp] theorem logPf_nextLease (s : State) (e : LogEntry) : (s.logPf e).nextLease = s.nextLease := rfl
@[simp] theorem logPf_units (s : State) (e : LogEntry) : (s.logPf e).units = s.units := rfl
@[simp] theorem logPf_periods (s : State) (e : LogEntry) : (s.logPf e).periods = s.periods := rfl
@[simp] theorem logPf_retired (s : State) (e : LogEntry) : (s.logPf e).retired = s.retired := rfl
@[simp] theorem logPf_holds (s : State) (e : LogEntry) : (s.logPf e).holds = s.holds := rfl
@[simp] theorem logPf_lastHold (s : State) (e : LogEntry) : (s.logPf e).lastHold = s.lastHold := rfl
@[simp] theorem logPf_placements (s : State) (e : LogEntry) : (s.logPf e).placements = s.placements := rfl
@[simp] theorem logPf_locating (s : State) (e : LogEntry) : (s.logPf e).locating = s.locating := rfl
@[simp] theorem logPf_tableSig (s : State) (e : LogEntry) : (s.logPf e).tableSig = s.tableSig := rfl
@[simp] theorem logPf_quays (s : State) (e : LogEntry) : (s.logPf e).quays = s.quays := rfl
@[simp] theorem logPf_reqs (s : State) (e : LogEntry) : (s.logPf e).reqs = s.reqs := rfl
@[simp] theorem logPf_nextReq (s : State) (e : LogEntry) : (s.logPf e).nextReq = s.nextReq := rfl
@[simp] theorem logPf_peerWants (s : State) (e : LogEntry) : (s.logPf e).peerWants = s.peerWants := rfl
@[simp] theorem logPf_exports (s : State) (e : LogEntry) : (s.logPf e).exports = s.exports := rfl
@[simp] theorem logPf_comms (s : State) (e : LogEntry) : (s.logPf e).comms = s.comms := rfl
@[simp] theorem logPf_recvStore (s : State) (e : LogEntry) : (s.logPf e).recvStore = s.recvStore := rfl
@[simp] theorem logPf_arriving (s : State) (e : LogEntry) : (s.logPf e).arriving = s.arriving := rfl
@[simp] theorem logPf_aborted (s : State) (e : LogEntry) : (s.logPf e).aborted = s.aborted := rfl
@[simp] theorem logPf_sessions (s : State) (e : LogEntry) : (s.logPf e).sessions = s.sessions := rfl
@[simp] theorem logPf_pwrstat (s : State) (e : LogEntry) : (s.logPf e).pwrstat = s.pwrstat := rfl
@[simp] theorem logPf_atomicReq (s : State) (e : LogEntry) : (s.logPf e).atomicReq = s.atomicReq := rfl
@[simp] theorem logPf_rails (s : State) (e : LogEntry) : (s.logPf e).rails = s.rails := rfl
@[simp] theorem logPf_booted (s : State) (e : LogEntry) : (s.logPf e).booted = s.booted := rfl
@[simp] theorem logPf_bootStage (s : State) (e : LogEntry) : (s.logPf e).bootStage = s.bootStage := rfl
@[simp] theorem logPf_bootImage (s : State) (e : LogEntry) : (s.logPf e).bootImage = s.bootImage := rfl
@[simp] theorem logPf_imageOk (s : State) (e : LogEntry) : (s.logPf e).imageOk = s.imageOk := rfl
@[simp] theorem logPf_badImages (s : State) (e : LogEntry) : (s.logPf e).badImages = s.badImages := rfl
@[simp] theorem logPf_sideband (s : State) (e : LogEntry) : (s.logPf e).sideband = s.sideband := rfl
@[simp] theorem logPf_fwLaunches (s : State) (e : LogEntry) : (s.logPf e).fwLaunches = s.fwLaunches := rfl
@[simp] theorem logPf_periodNo (s : State) (e : LogEntry) : (s.logPf e).periodNo = s.periodNo := rfl
@[simp] theorem logPf_decayNo (s : State) (e : LogEntry) : (s.logPf e).decayNo = s.decayNo := rfl
@[simp] theorem logPf_powerWindow (s : State) (e : LogEntry) : (s.logPf e).powerWindow = s.powerWindow := rfl
@[simp] theorem logPf_bootObs (s : State) (e : LogEntry) : (s.logPf e).bootObs = s.bootObs := rfl
@[simp] theorem logPf_agenda (s : State) (e : LogEntry) : (s.logPf e).agenda = s.agenda := rfl
@[simp] theorem logPf_deferred (s : State) (e : LogEntry) : (s.logPf e).deferred = s.deferred := rfl
@[simp] theorem logPf_inputs (s : State) (e : LogEntry) : (s.logPf e).inputs = s.inputs := rfl
@[simp] theorem logPf_mail (s : State) (e : LogEntry) : (s.logPf e).mail = s.mail := rfl
@[simp] theorem logPf_cpls (s : State) (e : LogEntry) : (s.logPf e).cpls = s.cpls := rfl
@[simp] theorem logPf_edits (s : State) (e : LogEntry) : (s.logPf e).edits = s.edits := rfl
@[simp] theorem logPf_fwWaits (s : State) (e : LogEntry) : (s.logPf e).fwWaits = s.fwWaits := rfl
@[simp] theorem logPf_netBad (s : State) (e : LogEntry) : (s.logPf e).netBad = s.netBad := rfl
@[simp] theorem logPf_turn (s : State) (e : LogEntry) : (s.logPf e).turn = s.turn := rfl
@[simp] theorem logPf_late (s : State) (e : LogEntry) : (s.logPf e).late = s.late := rfl

/-! ## Logging for a function -/

@[simp] theorem logVf_tide (s : State) (n : Nat) (e : LogEntry) : (s.logVf n e).tide = s.tide := rfl
@[simp] theorem logVf_mem (s : State) (n : Nat) (e : LogEntry) : (s.logVf n e).mem = s.mem := rfl
@[simp] theorem logVf_code (s : State) (n : Nat) (e : LogEntry) : (s.logVf n e).code = s.code := rfl
@[simp] theorem logVf_codeEdits (s : State) (n : Nat) (e : LogEntry) : (s.logVf n e).codeEdits = s.codeEdits := rfl
@[simp] theorem logVf_sharedCode (s : State) (n : Nat) (e : LogEntry) : (s.logVf n e).sharedCode = s.sharedCode := rfl
@[simp] theorem logVf_uncorr (s : State) (n : Nat) (e : LogEntry) : (s.logVf n e).uncorr = s.uncorr := rfl
@[simp] theorem logVf_keys (s : State) (n : Nat) (e : LogEntry) : (s.logVf n e).keys = s.keys := rfl
@[simp] theorem logVf_sectorKey (s : State) (n : Nat) (e : LogEntry) : (s.logVf n e).sectorKey = s.sectorKey := rfl
@[simp] theorem logVf_keySpans (s : State) (n : Nat) (e : LogEntry) : (s.logVf n e).keySpans = s.keySpans := rfl
@[simp] theorem logVf_nextKey (s : State) (n : Nat) (e : LogEntry) : (s.logVf n e).nextKey = s.nextKey := rfl
@[simp] theorem logVf_l2 (s : State) (n : Nat) (e : LogEntry) : (s.logVf n e).l2 = s.l2 := rfl
@[simp] theorem logVf_l2cls (s : State) (n : Nat) (e : LogEntry) : (s.logVf n e).l2cls = s.l2cls := rfl
@[simp] theorem logVf_l2mon (s : State) (n : Nat) (e : LogEntry) : (s.logVf n e).l2mon = s.l2mon := rfl
@[simp] theorem logVf_rdc (s : State) (n : Nat) (e : LogEntry) : (s.logVf n e).rdc = s.rdc := rfl
@[simp] theorem logVf_mat (s : State) (n : Nat) (e : LogEntry) : (s.logVf n e).mat = s.mat := rfl
@[simp] theorem logVf_wcsBase (s : State) (n : Nat) (e : LogEntry) : (s.logVf n e).wcsBase = s.wcsBase := rfl
@[simp] theorem logVf_cores (s : State) (n : Nat) (e : LogEntry) : (s.logVf n e).cores = s.cores := rfl
@[simp] theorem logVf_ctxs (s : State) (n : Nat) (e : LogEntry) : (s.logVf n e).ctxs = s.ctxs := rfl
@[simp] theorem logVf_rings (s : State) (n : Nat) (e : LogEntry) : (s.logVf n e).rings = s.rings := rfl
@[simp] theorem logVf_launches (s : State) (n : Nat) (e : LogEntry) : (s.logVf n e).launches = s.launches := rfl
@[simp] theorem logVf_graphs (s : State) (n : Nat) (e : LogEntry) : (s.logVf n e).graphs = s.graphs := rfl
@[simp] theorem logVf_sleeves (s : State) (n : Nat) (e : LogEntry) : (s.logVf n e).sleeves = s.sleeves := rfl
@[simp] theorem logVf_faults (s : State) (n : Nat) (e : LogEntry) : (s.logVf n e).faults = s.faults := rfl
@[simp] theorem logVf_nextFault (s : State) (n : Nat) (e : LogEntry) : (s.logVf n e).nextFault = s.nextFault := rfl
@[simp] theorem logVf_pflog (s : State) (n : Nat) (e : LogEntry) : (s.logVf n e).pflog = s.pflog := rfl
@[simp] theorem logVf_replies (s : State) (n : Nat) (e : LogEntry) : (s.logVf n e).replies = s.replies := rfl
@[simp] theorem logVf_leases (s : State) (n : Nat) (e : LogEntry) : (s.logVf n e).leases = s.leases := rfl
@[simp] theorem logVf_nextLease (s : State) (n : Nat) (e : LogEntry) : (s.logVf n e).nextLease = s.nextLease := rfl
@[simp] theorem logVf_units (s : State) (n : Nat) (e : LogEntry) : (s.logVf n e).units = s.units := rfl
@[simp] theorem logVf_periods (s : State) (n : Nat) (e : LogEntry) : (s.logVf n e).periods = s.periods := rfl
@[simp] theorem logVf_retired (s : State) (n : Nat) (e : LogEntry) : (s.logVf n e).retired = s.retired := rfl
@[simp] theorem logVf_holds (s : State) (n : Nat) (e : LogEntry) : (s.logVf n e).holds = s.holds := rfl
@[simp] theorem logVf_lastHold (s : State) (n : Nat) (e : LogEntry) : (s.logVf n e).lastHold = s.lastHold := rfl
@[simp] theorem logVf_placements (s : State) (n : Nat) (e : LogEntry) : (s.logVf n e).placements = s.placements := rfl
@[simp] theorem logVf_locating (s : State) (n : Nat) (e : LogEntry) : (s.logVf n e).locating = s.locating := rfl
@[simp] theorem logVf_tableSig (s : State) (n : Nat) (e : LogEntry) : (s.logVf n e).tableSig = s.tableSig := rfl
@[simp] theorem logVf_quays (s : State) (n : Nat) (e : LogEntry) : (s.logVf n e).quays = s.quays := rfl
@[simp] theorem logVf_reqs (s : State) (n : Nat) (e : LogEntry) : (s.logVf n e).reqs = s.reqs := rfl
@[simp] theorem logVf_nextReq (s : State) (n : Nat) (e : LogEntry) : (s.logVf n e).nextReq = s.nextReq := rfl
@[simp] theorem logVf_peerWants (s : State) (n : Nat) (e : LogEntry) : (s.logVf n e).peerWants = s.peerWants := rfl
@[simp] theorem logVf_exports (s : State) (n : Nat) (e : LogEntry) : (s.logVf n e).exports = s.exports := rfl
@[simp] theorem logVf_comms (s : State) (n : Nat) (e : LogEntry) : (s.logVf n e).comms = s.comms := rfl
@[simp] theorem logVf_recvStore (s : State) (n : Nat) (e : LogEntry) : (s.logVf n e).recvStore = s.recvStore := rfl
@[simp] theorem logVf_arriving (s : State) (n : Nat) (e : LogEntry) : (s.logVf n e).arriving = s.arriving := rfl
@[simp] theorem logVf_aborted (s : State) (n : Nat) (e : LogEntry) : (s.logVf n e).aborted = s.aborted := rfl
@[simp] theorem logVf_sessions (s : State) (n : Nat) (e : LogEntry) : (s.logVf n e).sessions = s.sessions := rfl
@[simp] theorem logVf_pwrstat (s : State) (n : Nat) (e : LogEntry) : (s.logVf n e).pwrstat = s.pwrstat := rfl
@[simp] theorem logVf_atomicReq (s : State) (n : Nat) (e : LogEntry) : (s.logVf n e).atomicReq = s.atomicReq := rfl
@[simp] theorem logVf_rails (s : State) (n : Nat) (e : LogEntry) : (s.logVf n e).rails = s.rails := rfl
@[simp] theorem logVf_booted (s : State) (n : Nat) (e : LogEntry) : (s.logVf n e).booted = s.booted := rfl
@[simp] theorem logVf_bootStage (s : State) (n : Nat) (e : LogEntry) : (s.logVf n e).bootStage = s.bootStage := rfl
@[simp] theorem logVf_bootImage (s : State) (n : Nat) (e : LogEntry) : (s.logVf n e).bootImage = s.bootImage := rfl
@[simp] theorem logVf_imageOk (s : State) (n : Nat) (e : LogEntry) : (s.logVf n e).imageOk = s.imageOk := rfl
@[simp] theorem logVf_badImages (s : State) (n : Nat) (e : LogEntry) : (s.logVf n e).badImages = s.badImages := rfl
@[simp] theorem logVf_sideband (s : State) (n : Nat) (e : LogEntry) : (s.logVf n e).sideband = s.sideband := rfl
@[simp] theorem logVf_fwLaunches (s : State) (n : Nat) (e : LogEntry) : (s.logVf n e).fwLaunches = s.fwLaunches := rfl
@[simp] theorem logVf_periodNo (s : State) (n : Nat) (e : LogEntry) : (s.logVf n e).periodNo = s.periodNo := rfl
@[simp] theorem logVf_decayNo (s : State) (n : Nat) (e : LogEntry) : (s.logVf n e).decayNo = s.decayNo := rfl
@[simp] theorem logVf_powerWindow (s : State) (n : Nat) (e : LogEntry) : (s.logVf n e).powerWindow = s.powerWindow := rfl
@[simp] theorem logVf_bootObs (s : State) (n : Nat) (e : LogEntry) : (s.logVf n e).bootObs = s.bootObs := rfl
@[simp] theorem logVf_agenda (s : State) (n : Nat) (e : LogEntry) : (s.logVf n e).agenda = s.agenda := rfl
@[simp] theorem logVf_deferred (s : State) (n : Nat) (e : LogEntry) : (s.logVf n e).deferred = s.deferred := rfl
@[simp] theorem logVf_inputs (s : State) (n : Nat) (e : LogEntry) : (s.logVf n e).inputs = s.inputs := rfl
@[simp] theorem logVf_mail (s : State) (n : Nat) (e : LogEntry) : (s.logVf n e).mail = s.mail := rfl
@[simp] theorem logVf_cpls (s : State) (n : Nat) (e : LogEntry) : (s.logVf n e).cpls = s.cpls := rfl
@[simp] theorem logVf_edits (s : State) (n : Nat) (e : LogEntry) : (s.logVf n e).edits = s.edits := rfl
@[simp] theorem logVf_fwWaits (s : State) (n : Nat) (e : LogEntry) : (s.logVf n e).fwWaits = s.fwWaits := rfl
@[simp] theorem logVf_netBad (s : State) (n : Nat) (e : LogEntry) : (s.logVf n e).netBad = s.netBad := rfl
@[simp] theorem logVf_turn (s : State) (n : Nat) (e : LogEntry) : (s.logVf n e).turn = s.turn := rfl
@[simp] theorem logVf_late (s : State) (n : Nat) (e : LogEntry) : (s.logVf n e).late = s.late := rfl

/-! ## Changing a sequencer, within the context -/

@[simp] theorem Ctx.upSeq_vf (k : Ctx) (st : Stream) (f : Seq → Seq) : (k.upSeq st f).vf = k.vf := rfl
@[simp] theorem Ctx.upSeq_sleeve (k : Ctx) (st : Stream) (f : Seq → Seq) : (k.upSeq st f).sleeve = k.sleeve := rfl
@[simp] theorem Ctx.upSeq_core (k : Ctx) (st : Stream) (f : Seq → Seq) : (k.upSeq st f).core = k.core := rfl
@[simp] theorem Ctx.upSeq_service (k : Ctx) (st : Stream) (f : Seq → Seq) : (k.upSeq st f).service = k.service := rfl
@[simp] theorem Ctx.upSeq_dbg (k : Ctx) (st : Stream) (f : Seq → Seq) : (k.upSeq st f).dbg = k.dbg := rfl
@[simp] theorem Ctx.upSeq_run (k : Ctx) (st : Stream) (f : Seq → Seq) : (k.upSeq st f).run = k.run := rfl
@[simp] theorem Ctx.upSeq_iter (k : Ctx) (st : Stream) (f : Seq → Seq) : (k.upSeq st f).iter = k.iter := rfl
@[simp] theorem Ctx.upSeq_launchesSeen (k : Ctx) (st : Stream) (f : Seq → Seq) : (k.upSeq st f).launchesSeen = k.launchesSeen := rfl
@[simp] theorem Ctx.upSeq_boost (k : Ctx) (st : Stream) (f : Seq → Seq) : (k.upSeq st f).boost = k.boost := rfl
@[simp] theorem Ctx.upSeq_csr (k : Ctx) (st : Stream) (f : Seq → Seq) : (k.upSeq st f).csr = k.csr := rfl
@[simp] theorem Ctx.upSeq_csrOld (k : Ctx) (st : Stream) (f : Seq → Seq) : (k.upSeq st f).csrOld = k.csrOld := rfl
@[simp] theorem Ctx.upSeq_tok (k : Ctx) (st : Stream) (f : Seq → Seq) : (k.upSeq st f).tok = k.tok := rfl
@[simp] theorem Ctx.upSeq_region (k : Ctx) (st : Stream) (f : Seq → Seq) : (k.upSeq st f).region = k.region := rfl
@[simp] theorem Ctx.upSeq_fq (k : Ctx) (st : Stream) (f : Seq → Seq) : (k.upSeq st f).fq = k.fq := rfl
@[simp] theorem Ctx.upSeq_sq0 (k : Ctx) (st : Stream) (f : Seq → Seq) : (k.upSeq st f).sq0 = k.sq0 := rfl
@[simp] theorem Ctx.upSeq_sq1 (k : Ctx) (st : Stream) (f : Seq → Seq) : (k.upSeq st f).sq1 = k.sq1 := rfl
@[simp] theorem Ctx.upSeq_sqBlk (k : Ctx) (st : Stream) (f : Seq → Seq) : (k.upSeq st f).sqBlk = k.sqBlk := rfl
@[simp] theorem Ctx.upSeq_collq (k : Ctx) (st : Stream) (f : Seq → Seq) : (k.upSeq st f).collq = k.collq := rfl
@[simp] theorem Ctx.upSeq_yq (k : Ctx) (st : Stream) (f : Seq → Seq) : (k.upSeq st f).yq = k.yq := rfl
@[simp] theorem Ctx.upSeq_heldCap (k : Ctx) (st : Stream) (f : Seq → Seq) : (k.upSeq st f).heldCap = k.heldCap := rfl
@[simp] theorem Ctx.upSeq_journal (k : Ctx) (st : Stream) (f : Seq → Seq) : (k.upSeq st f).journal = k.journal := rfl
@[simp] theorem Ctx.upSeq_jnlOut (k : Ctx) (st : Stream) (f : Seq → Seq) : (k.upSeq st f).jnlOut = k.jnlOut := rfl
@[simp] theorem Ctx.upSeq_jnlPending (k : Ctx) (st : Stream) (f : Seq → Seq) : (k.upSeq st f).jnlPending = k.jnlPending := rfl
@[simp] theorem Ctx.upSeq_v (k : Ctx) (st : Stream) (f : Seq → Seq) : (k.upSeq st f).v = k.v := rfl
@[simp] theorem Ctx.upSeq_m (k : Ctx) (st : Stream) (f : Seq → Seq) : (k.upSeq st f).m = k.m := rfl
@[simp] theorem Ctx.upSeq_win (k : Ctx) (st : Stream) (f : Seq → Seq) : (k.upSeq st f).win = k.win := rfl
@[simp] theorem Ctx.upSeq_winNew (k : Ctx) (st : Stream) (f : Seq → Seq) : (k.upSeq st f).winNew = k.winNew := rfl
@[simp] theorem Ctx.upSeq_ag (k : Ctx) (st : Stream) (f : Seq → Seq) : (k.upSeq st f).ag = k.ag := rfl
@[simp] theorem Ctx.upSeq_sp (k : Ctx) (st : Stream) (f : Seq → Seq) : (k.upSeq st f).sp = k.sp := rfl
@[simp] theorem Ctx.upSeq_eqM (k : Ctx) (st : Stream) (f : Seq → Seq) : (k.upSeq st f).eqM = k.eqM := rfl
@[simp] theorem Ctx.upSeq_eqV (k : Ctx) (st : Stream) (f : Seq → Seq) : (k.upSeq st f).eqV = k.eqV := rfl
@[simp] theorem Ctx.upSeq_eqS (k : Ctx) (st : Stream) (f : Seq → Seq) : (k.upSeq st f).eqS = k.eqS := rfl
@[simp] theorem Ctx.upSeq_flight (k : Ctx) (st : Stream) (f : Seq → Seq) : (k.upSeq st f).flight = k.flight := rfl
@[simp] theorem Ctx.upSeq_copies (k : Ctx) (st : Stream) (f : Seq → Seq) : (k.upSeq st f).copies = k.copies := rfl
@[simp] theorem Ctx.upSeq_ie (k : Ctx) (st : Stream) (f : Seq → Seq) : (k.upSeq st f).ie = k.ie := rfl
@[simp] theorem Ctx.upSeq_mu (k : Ctx) (st : Stream) (f : Seq → Seq) : (k.upSeq st f).mu = k.mu := rfl
@[simp] theorem Ctx.upSeq_coll (k : Ctx) (st : Stream) (f : Seq → Seq) : (k.upSeq st f).coll = k.coll := rfl
@[simp] theorem Ctx.upSeq_posts (k : Ctx) (st : Stream) (f : Seq → Seq) : (k.upSeq st f).posts = k.posts := rfl
@[simp] theorem Ctx.upSeq_binding (k : Ctx) (st : Stream) (f : Seq → Seq) : (k.upSeq st f).binding = k.binding := rfl
@[simp] theorem Ctx.upSeq_bindNew (k : Ctx) (st : Stream) (f : Seq → Seq) : (k.upSeq st f).bindNew = k.bindNew := rfl
@[simp] theorem Ctx.upSeq_image (k : Ctx) (st : Stream) (f : Seq → Seq) : (k.upSeq st f).image = k.image := rfl
@[simp] theorem Ctx.upSeq_frame (k : Ctx) (st : Stream) (f : Seq → Seq) : (k.upSeq st f).frame = k.frame := rfl
@[simp] theorem Ctx.upSeq_pend (k : Ctx) (st : Stream) (f : Seq → Seq) : (k.upSeq st f).pend = k.pend := rfl
@[simp] theorem Ctx.upSeq_saveArea (k : Ctx) (st : Stream) (f : Seq → Seq) : (k.upSeq st f).saveArea = k.saveArea := rfl
@[simp] theorem Ctx.upSeq_saved (k : Ctx) (st : Stream) (f : Seq → Seq) : (k.upSeq st f).saved = k.saved := rfl
@[simp] theorem Ctx.upSeq_deadSince (k : Ctx) (st : Stream) (f : Seq → Seq) : (k.upSeq st f).deadSince = k.deadSince := rfl
@[simp] theorem Ctx.upSeq_quantum (k : Ctx) (st : Stream) (f : Seq → Seq) : (k.upSeq st f).quantum = k.quantum := rfl
@[simp] theorem Ctx.upSeq_spent (k : Ctx) (st : Stream) (f : Seq → Seq) : (k.upSeq st f).spent = k.spent := rfl
@[simp] theorem Ctx.upSeq_hold (k : Ctx) (st : Stream) (f : Seq → Seq) : (k.upSeq st f).hold = k.hold := rfl
@[simp] theorem Ctx.upSeq_was (k : Ctx) (st : Stream) (f : Seq → Seq) : (k.upSeq st f).was = k.was := rfl
@[simp] theorem Ctx.upSeq_idleFrom (k : Ctx) (st : Stream) (f : Seq → Seq) : (k.upSeq st f).idleFrom = k.idleFrom := rfl
@[simp] theorem Ctx.upSeq_order (k : Ctx) (st : Stream) (f : Seq → Seq) : (k.upSeq st f).order = k.order := rfl

/-! ## Raising flags -/

@[simp] theorem Ctx.orVstat_vf (k : Ctx) (f : Word) : (k.orVstat f).vf = k.vf := rfl
@[simp] theorem Ctx.orVstat_sleeve (k : Ctx) (f : Word) : (k.orVstat f).sleeve = k.sleeve := rfl
@[simp] theorem Ctx.orVstat_core (k : Ctx) (f : Word) : (k.orVstat f).core = k.core := rfl
@[simp] theorem Ctx.orVstat_service (k : Ctx) (f : Word) : (k.orVstat f).service = k.service := rfl
@[simp] theorem Ctx.orVstat_dbg (k : Ctx) (f : Word) : (k.orVstat f).dbg = k.dbg := rfl
@[simp] theorem Ctx.orVstat_run (k : Ctx) (f : Word) : (k.orVstat f).run = k.run := rfl
@[simp] theorem Ctx.orVstat_iter (k : Ctx) (f : Word) : (k.orVstat f).iter = k.iter := rfl
@[simp] theorem Ctx.orVstat_launchesSeen (k : Ctx) (f : Word) : (k.orVstat f).launchesSeen = k.launchesSeen := rfl
@[simp] theorem Ctx.orVstat_seqs (k : Ctx) (f : Word) : (k.orVstat f).seqs = k.seqs := rfl
@[simp] theorem Ctx.orVstat_boost (k : Ctx) (f : Word) : (k.orVstat f).boost = k.boost := rfl
@[simp] theorem Ctx.orVstat_csrOld (k : Ctx) (f : Word) : (k.orVstat f).csrOld = k.csrOld := rfl
@[simp] theorem Ctx.orVstat_tok (k : Ctx) (f : Word) : (k.orVstat f).tok = k.tok := rfl
@[simp] theorem Ctx.orVstat_region (k : Ctx) (f : Word) : (k.orVstat f).region = k.region := rfl
@[simp] theorem Ctx.orVstat_fq (k : Ctx) (f : Word) : (k.orVstat f).fq = k.fq := rfl
@[simp] theorem Ctx.orVstat_sq0 (k : Ctx) (f : Word) : (k.orVstat f).sq0 = k.sq0 := rfl
@[simp] theorem Ctx.orVstat_sq1 (k : Ctx) (f : Word) : (k.orVstat f).sq1 = k.sq1 := rfl
@[simp] theorem Ctx.orVstat_sqBlk (k : Ctx) (f : Word) : (k.orVstat f).sqBlk = k.sqBlk := rfl
@[simp] theorem Ctx.orVstat_collq (k : Ctx) (f : Word) : (k.orVstat f).collq = k.collq := rfl
@[simp] theorem Ctx.orVstat_yq (k : Ctx) (f : Word) : (k.orVstat f).yq = k.yq := rfl
@[simp] theorem Ctx.orVstat_heldCap (k : Ctx) (f : Word) : (k.orVstat f).heldCap = k.heldCap := rfl
@[simp] theorem Ctx.orVstat_journal (k : Ctx) (f : Word) : (k.orVstat f).journal = k.journal := rfl
@[simp] theorem Ctx.orVstat_jnlOut (k : Ctx) (f : Word) : (k.orVstat f).jnlOut = k.jnlOut := rfl
@[simp] theorem Ctx.orVstat_jnlPending (k : Ctx) (f : Word) : (k.orVstat f).jnlPending = k.jnlPending := rfl
@[simp] theorem Ctx.orVstat_v (k : Ctx) (f : Word) : (k.orVstat f).v = k.v := rfl
@[simp] theorem Ctx.orVstat_m (k : Ctx) (f : Word) : (k.orVstat f).m = k.m := rfl
@[simp] theorem Ctx.orVstat_win (k : Ctx) (f : Word) : (k.orVstat f).win = k.win := rfl
@[simp] theorem Ctx.orVstat_winNew (k : Ctx) (f : Word) : (k.orVstat f).winNew = k.winNew := rfl
@[simp] theorem Ctx.orVstat_ag (k : Ctx) (f : Word) : (k.orVstat f).ag = k.ag := rfl
@[simp] theorem Ctx.orVstat_sp (k : Ctx) (f : Word) : (k.orVstat f).sp = k.sp := rfl
@[simp] theorem Ctx.orVstat_eqM (k : Ctx) (f : Word) : (k.orVstat f).eqM = k.eqM := rfl
@[simp] theorem Ctx.orVstat_eqV (k : Ctx) (f : Word) : (k.orVstat f).eqV = k.eqV := rfl
@[simp] theorem Ctx.orVstat_eqS (k : Ctx) (f : Word) : (k.orVstat f).eqS = k.eqS := rfl
@[simp] theorem Ctx.orVstat_flight (k : Ctx) (f : Word) : (k.orVstat f).flight = k.flight := rfl
@[simp] theorem Ctx.orVstat_copies (k : Ctx) (f : Word) : (k.orVstat f).copies = k.copies := rfl
@[simp] theorem Ctx.orVstat_ie (k : Ctx) (f : Word) : (k.orVstat f).ie = k.ie := rfl
@[simp] theorem Ctx.orVstat_mu (k : Ctx) (f : Word) : (k.orVstat f).mu = k.mu := rfl
@[simp] theorem Ctx.orVstat_coll (k : Ctx) (f : Word) : (k.orVstat f).coll = k.coll := rfl
@[simp] theorem Ctx.orVstat_posts (k : Ctx) (f : Word) : (k.orVstat f).posts = k.posts := rfl
@[simp] theorem Ctx.orVstat_binding (k : Ctx) (f : Word) : (k.orVstat f).binding = k.binding := rfl
@[simp] theorem Ctx.orVstat_bindNew (k : Ctx) (f : Word) : (k.orVstat f).bindNew = k.bindNew := rfl
@[simp] theorem Ctx.orVstat_image (k : Ctx) (f : Word) : (k.orVstat f).image = k.image := rfl
@[simp] theorem Ctx.orVstat_frame (k : Ctx) (f : Word) : (k.orVstat f).frame = k.frame := rfl
@[simp] theorem Ctx.orVstat_pend (k : Ctx) (f : Word) : (k.orVstat f).pend = k.pend := rfl
@[simp] theorem Ctx.orVstat_saveArea (k : Ctx) (f : Word) : (k.orVstat f).saveArea = k.saveArea := rfl
@[simp] theorem Ctx.orVstat_saved (k : Ctx) (f : Word) : (k.orVstat f).saved = k.saved := rfl
@[simp] theorem Ctx.orVstat_deadSince (k : Ctx) (f : Word) : (k.orVstat f).deadSince = k.deadSince := rfl
@[simp] theorem Ctx.orVstat_quantum (k : Ctx) (f : Word) : (k.orVstat f).quantum = k.quantum := rfl
@[simp] theorem Ctx.orVstat_spent (k : Ctx) (f : Word) : (k.orVstat f).spent = k.spent := rfl
@[simp] theorem Ctx.orVstat_hold (k : Ctx) (f : Word) : (k.orVstat f).hold = k.hold := rfl
@[simp] theorem Ctx.orVstat_was (k : Ctx) (f : Word) : (k.orVstat f).was = k.was := rfl
@[simp] theorem Ctx.orVstat_idleFrom (k : Ctx) (f : Word) : (k.orVstat f).idleFrom = k.idleFrom := rfl
@[simp] theorem Ctx.orVstat_order (k : Ctx) (f : Word) : (k.orVstat f).order = k.order := rfl

/-! ## Setting a token count -/

@[simp] theorem Ctx.setTok_vf (k : Ctx) (q n : Nat) : (k.setTok q n).vf = k.vf := rfl
@[simp] theorem Ctx.setTok_sleeve (k : Ctx) (q n : Nat) : (k.setTok q n).sleeve = k.sleeve := rfl
@[simp] theorem Ctx.setTok_core (k : Ctx) (q n : Nat) : (k.setTok q n).core = k.core := rfl
@[simp] theorem Ctx.setTok_service (k : Ctx) (q n : Nat) : (k.setTok q n).service = k.service := rfl
@[simp] theorem Ctx.setTok_dbg (k : Ctx) (q n : Nat) : (k.setTok q n).dbg = k.dbg := rfl
@[simp] theorem Ctx.setTok_run (k : Ctx) (q n : Nat) : (k.setTok q n).run = k.run := rfl
@[simp] theorem Ctx.setTok_iter (k : Ctx) (q n : Nat) : (k.setTok q n).iter = k.iter := rfl
@[simp] theorem Ctx.setTok_launchesSeen (k : Ctx) (q n : Nat) : (k.setTok q n).launchesSeen = k.launchesSeen := rfl
@[simp] theorem Ctx.setTok_seqs (k : Ctx) (q n : Nat) : (k.setTok q n).seqs = k.seqs := rfl
@[simp] theorem Ctx.setTok_boost (k : Ctx) (q n : Nat) : (k.setTok q n).boost = k.boost := rfl
@[simp] theorem Ctx.setTok_csr (k : Ctx) (q n : Nat) : (k.setTok q n).csr = k.csr := rfl
@[simp] theorem Ctx.setTok_csrOld (k : Ctx) (q n : Nat) : (k.setTok q n).csrOld = k.csrOld := rfl
@[simp] theorem Ctx.setTok_region (k : Ctx) (q n : Nat) : (k.setTok q n).region = k.region := rfl
@[simp] theorem Ctx.setTok_fq (k : Ctx) (q n : Nat) : (k.setTok q n).fq = k.fq := rfl
@[simp] theorem Ctx.setTok_sq0 (k : Ctx) (q n : Nat) : (k.setTok q n).sq0 = k.sq0 := rfl
@[simp] theorem Ctx.setTok_sq1 (k : Ctx) (q n : Nat) : (k.setTok q n).sq1 = k.sq1 := rfl
@[simp] theorem Ctx.setTok_sqBlk (k : Ctx) (q n : Nat) : (k.setTok q n).sqBlk = k.sqBlk := rfl
@[simp] theorem Ctx.setTok_collq (k : Ctx) (q n : Nat) : (k.setTok q n).collq = k.collq := rfl
@[simp] theorem Ctx.setTok_yq (k : Ctx) (q n : Nat) : (k.setTok q n).yq = k.yq := rfl
@[simp] theorem Ctx.setTok_heldCap (k : Ctx) (q n : Nat) : (k.setTok q n).heldCap = k.heldCap := rfl
@[simp] theorem Ctx.setTok_journal (k : Ctx) (q n : Nat) : (k.setTok q n).journal = k.journal := rfl
@[simp] theorem Ctx.setTok_jnlOut (k : Ctx) (q n : Nat) : (k.setTok q n).jnlOut = k.jnlOut := rfl
@[simp] theorem Ctx.setTok_jnlPending (k : Ctx) (q n : Nat) : (k.setTok q n).jnlPending = k.jnlPending := rfl
@[simp] theorem Ctx.setTok_v (k : Ctx) (q n : Nat) : (k.setTok q n).v = k.v := rfl
@[simp] theorem Ctx.setTok_m (k : Ctx) (q n : Nat) : (k.setTok q n).m = k.m := rfl
@[simp] theorem Ctx.setTok_win (k : Ctx) (q n : Nat) : (k.setTok q n).win = k.win := rfl
@[simp] theorem Ctx.setTok_winNew (k : Ctx) (q n : Nat) : (k.setTok q n).winNew = k.winNew := rfl
@[simp] theorem Ctx.setTok_ag (k : Ctx) (q n : Nat) : (k.setTok q n).ag = k.ag := rfl
@[simp] theorem Ctx.setTok_sp (k : Ctx) (q n : Nat) : (k.setTok q n).sp = k.sp := rfl
@[simp] theorem Ctx.setTok_eqM (k : Ctx) (q n : Nat) : (k.setTok q n).eqM = k.eqM := rfl
@[simp] theorem Ctx.setTok_eqV (k : Ctx) (q n : Nat) : (k.setTok q n).eqV = k.eqV := rfl
@[simp] theorem Ctx.setTok_eqS (k : Ctx) (q n : Nat) : (k.setTok q n).eqS = k.eqS := rfl
@[simp] theorem Ctx.setTok_flight (k : Ctx) (q n : Nat) : (k.setTok q n).flight = k.flight := rfl
@[simp] theorem Ctx.setTok_copies (k : Ctx) (q n : Nat) : (k.setTok q n).copies = k.copies := rfl
@[simp] theorem Ctx.setTok_ie (k : Ctx) (q n : Nat) : (k.setTok q n).ie = k.ie := rfl
@[simp] theorem Ctx.setTok_mu (k : Ctx) (q n : Nat) : (k.setTok q n).mu = k.mu := rfl
@[simp] theorem Ctx.setTok_coll (k : Ctx) (q n : Nat) : (k.setTok q n).coll = k.coll := rfl
@[simp] theorem Ctx.setTok_posts (k : Ctx) (q n : Nat) : (k.setTok q n).posts = k.posts := rfl
@[simp] theorem Ctx.setTok_binding (k : Ctx) (q n : Nat) : (k.setTok q n).binding = k.binding := rfl
@[simp] theorem Ctx.setTok_bindNew (k : Ctx) (q n : Nat) : (k.setTok q n).bindNew = k.bindNew := rfl
@[simp] theorem Ctx.setTok_image (k : Ctx) (q n : Nat) : (k.setTok q n).image = k.image := rfl
@[simp] theorem Ctx.setTok_frame (k : Ctx) (q n : Nat) : (k.setTok q n).frame = k.frame := rfl
@[simp] theorem Ctx.setTok_pend (k : Ctx) (q n : Nat) : (k.setTok q n).pend = k.pend := rfl
@[simp] theorem Ctx.setTok_saveArea (k : Ctx) (q n : Nat) : (k.setTok q n).saveArea = k.saveArea := rfl
@[simp] theorem Ctx.setTok_saved (k : Ctx) (q n : Nat) : (k.setTok q n).saved = k.saved := rfl
@[simp] theorem Ctx.setTok_deadSince (k : Ctx) (q n : Nat) : (k.setTok q n).deadSince = k.deadSince := rfl
@[simp] theorem Ctx.setTok_quantum (k : Ctx) (q n : Nat) : (k.setTok q n).quantum = k.quantum := rfl
@[simp] theorem Ctx.setTok_spent (k : Ctx) (q n : Nat) : (k.setTok q n).spent = k.spent := rfl
@[simp] theorem Ctx.setTok_hold (k : Ctx) (q n : Nat) : (k.setTok q n).hold = k.hold := rfl
@[simp] theorem Ctx.setTok_was (k : Ctx) (q n : Nat) : (k.setTok q n).was = k.was := rfl
@[simp] theorem Ctx.setTok_idleFrom (k : Ctx) (q n : Nat) : (k.setTok q n).idleFrom = k.idleFrom := rfl
@[simp] theorem Ctx.setTok_order (k : Ctx) (q n : Nat) : (k.setTok q n).order = k.order := rfl

/-! ## What was changed reads as changed -/

@[simp] theorem logPf_pflog (s : State) (e : LogEntry) : (s.logPf e).pflog = s.pflog ++ [e] := rfl
@[simp] theorem logPf_msix (s : State) (e : LogEntry) : (s.logPf e).msix = s.msix ++ [(0, 16)] := rfl
@[simp] theorem logVf_msix (s : State) (n : Nat) (e : LogEntry) : (s.logVf n e).msix = s.msix ++ [(n, 16)] := rfl

@[simp] theorem upCtx_ctx_same (s : State) (c : Nat) (f : Ctx → Ctx) (h : c < s.ctxs.length) : (s.upCtx c f).ctx c = f (s.ctx c) := by
  simp [State.ctx, State.upCtx, List.getD_eq_getElem?_getD, h]

@[simp] theorem upCtx_ctx_other (s : State) (c d : Nat) (f : Ctx → Ctx) (h : d ≠ c) : (s.upCtx c f).ctx d = s.ctx d := by
  simp [State.ctx, State.upCtx, List.getD_eq_getElem?_getD, Ne.symm h]

@[simp] theorem upCtx_length (s : State) (c : Nat) (f : Ctx → Ctx) : (s.upCtx c f).ctxs.length = s.ctxs.length := by
  simp [State.upCtx]

@[simp] theorem upCore_core_same (s : State) (n : Nat) (f : Core → Core) (h : n < 128) : (s.upCore n f).core n = f (s.core n) := by
  simp [State.core, State.upCore, vgetD, vmod, h]

@[simp] theorem upCore_core_other (s : State) (n m : Nat) (f : Core → Core) (h : m ≠ n) : (s.upCore n f).core m = s.core m := by
  by_cases hn : n < 128 <;> simp [State.core, State.upCore, vgetD, vmod, hn, Ne.symm h]

@[simp] theorem upLaunch_same (s : State) (n : Nat) (f : Launch → Launch) : (s.upLaunch n f).launch? n = (s.launch? n).map f := by
  simp [State.launch?, State.upLaunch]

@[simp] theorem upLaunch_other (s : State) (n m : Nat) (f : Launch → Launch) (h : m ≠ n) : (s.upLaunch n f).launch? m = s.launch? m := by
  simp [State.launch?, State.upLaunch, Ne.symm h]

@[simp] theorem Ctx.upSeq_seq_same (k : Ctx) (st : Stream) (f : Seq → Seq) : (k.upSeq st f).seq st = f (k.seq st) := by
  cases st <;> rfl

@[simp] theorem Ctx.upSeq_seq_other (k : Ctx) (st u : Stream) (f : Seq → Seq) (h : u ≠ st) : (k.upSeq st f).seq u = k.seq u := by
  cases st <;> cases u <;> first | rfl | exact absurd rfl h

@[simp] theorem upSeq_seq_same (s : State) (c : Nat) (st : Stream) (f : Seq → Seq) (h : c < s.ctxs.length) :
    (s.upSeq c st f).seq c st = f (s.seq c st) := by
  simp [State.seq, State.upSeq, h]

@[simp] theorem upSeq_seq_stream (s : State) (c : Nat) (st u : Stream) (f : Seq → Seq) (h : u ≠ st) :
    (s.upSeq c st f).seq c u = s.seq c u := by
  by_cases hc : c < s.ctxs.length
  · simp [State.seq, State.upSeq, hc, h]
  · simp [State.seq, State.upSeq, State.upCtx, State.ctx, List.getD_eq_getElem?_getD, Nat.le_of_not_lt hc]

@[simp] theorem upSeq_seq_other (s : State) (c d : Nat) (st u : Stream) (f : Seq → Seq) (h : d ≠ c) :
    (s.upSeq c st f).seq d u = s.seq d u := by
  simp [State.seq, State.upSeq, h]

@[simp] theorem upSeq_upSeq (s : State) (c : Nat) (st : Stream) (f g : Seq → Seq) :
    (s.upSeq c st f).upSeq c st g = s.upSeq c st fun q => g (f q) := by
  cases st <;> simp [State.upSeq, State.upCtx, List.modify_modify_eq, Function.comp_def, Ctx.upSeq, Seqs.put, Seqs.get]

/-! ## Registers -/

@[simp] theorem rx_zero (q : Seq) : q.rx 0 = 0 := rfl
@[simp] theorem wx_zero (q : Seq) (v : Word) : q.wx 0 v = q := rfl
@[simp] theorem rp_zero (q : Seq) : q.rp 0 = true := rfl
@[simp] theorem wp_zero (q : Seq) (b : Bool) : q.wp 0 b = q := rfl

theorem rx_wx_same (q : Seq) (r : BitVec 5) (v : Word) (h : r ≠ 0) : (q.wx r v).rx r = v := by
  unfold Seq.wx Seq.rx
  rw [if_neg h, if_neg h]
  simp

theorem rx_wx_other (q : Seq) (r e : BitVec 5) (v : Word) (h : e ≠ r) : (q.wx r v).rx e = q.rx e := by
  unfold Seq.wx
  split
  · rfl
  · have : r.toNat ≠ e.toNat := fun t => h (BitVec.eq_of_toNat_eq t.symm)
    simp [Seq.rx, this]

theorem rp_wp_same (q : Seq) (r : BitVec 3) (b : Bool) (h : r ≠ 0) : (q.wp r b).rp r = b := by
  unfold Seq.wp Seq.rp
  rw [if_neg h, if_neg h]
  simp

theorem rp_wp_other (q : Seq) (r e : BitVec 3) (b : Bool) (h : e ≠ r) : (q.wp r b).rp e = q.rp e := by
  unfold Seq.wp
  split
  · rfl
  · have : r.toNat ≠ e.toNat := fun t => h (BitVec.eq_of_toNat_eq t.symm)
    simp [Seq.rp, this]

@[simp] theorem wx_pc (q : Seq) (r : BitVec 5) (v : Word) : (q.wx r v).pc = q.pc := by unfold Seq.wx; split <;> rfl
@[simp] theorem wx_p (q : Seq) (r : BitVec 5) (v : Word) : (q.wx r v).p = q.p := by unfold Seq.wx; split <;> rfl
@[simp] theorem wx_bt (q : Seq) (r : BitVec 5) (v : Word) : (q.wx r v).bt = q.bt := by unfold Seq.wx; split <;> rfl
@[simp] theorem wx_lc (q : Seq) (r : BitVec 5) (v : Word) : (q.wx r v).lc = q.lc := by unfold Seq.wx; split <;> rfl
@[simp] theorem wx_loops (q : Seq) (r : BitVec 5) (v : Word) : (q.wx r v).loops = q.loops := by unfold Seq.wx; split <;> rfl
@[simp] theorem wx_loopBuf (q : Seq) (r : BitVec 5) (v : Word) : (q.wx r v).loopBuf = q.loopBuf := by unfold Seq.wx; split <;> rfl
@[simp] theorem wx_xfer (q : Seq) (r : BitVec 5) (v : Word) : (q.wx r v).xfer = q.xfer := by unfold Seq.wx; split <;> rfl
@[simp] theorem wx_exited (q : Seq) (r : BitVec 5) (v : Word) : (q.wx r v).exited = q.exited := by unfold Seq.wx; split <;> rfl
@[simp] theorem wx_bundles (q : Seq) (r : BitVec 5) (v : Word) : (q.wx r v).bundles = q.bundles := by unfold Seq.wx; split <;> rfl
@[simp] theorem wx_loadQ (q : Seq) (r : BitVec 5) (v : Word) : (q.wx r v).loadQ = q.loadQ := by unfold Seq.wx; split <;> rfl
@[simp] theorem wx_storeQ (q : Seq) (r : BitVec 5) (v : Word) : (q.wx r v).storeQ = q.storeQ := by unfold Seq.wx; split <;> rfl
@[simp] theorem wx_ord (q : Seq) (r : BitVec 5) (v : Word) : (q.wx r v).ord = q.ord := by unfold Seq.wx; split <;> rfl
@[simp] theorem wx_bkpt (q : Seq) (r : BitVec 5) (v : Word) : (q.wx r v).bkpt = q.bkpt := by unfold Seq.wx; split <;> rfl
@[simp] theorem wx_bkptSkip (q : Seq) (r : BitVec 5) (v : Word) : (q.wx r v).bkptSkip = q.bkptSkip := by unfold Seq.wx; split <;> rfl
@[simp] theorem wx_stall (q : Seq) (r : BitVec 5) (v : Word) : (q.wx r v).stall = q.stall := by unfold Seq.wx; split <;> rfl
@[simp] theorem wx_micro (q : Seq) (r : BitVec 5) (v : Word) : (q.wx r v).micro = q.micro := by unfold Seq.wx; split <;> rfl
@[simp] theorem wp_pc (q : Seq) (r : BitVec 3) (b : Bool) : (q.wp r b).pc = q.pc := by unfold Seq.wp; split <;> rfl
@[simp] theorem wp_x (q : Seq) (r : BitVec 3) (b : Bool) : (q.wp r b).x = q.x := by unfold Seq.wp; split <;> rfl
@[simp] theorem wp_bt (q : Seq) (r : BitVec 3) (b : Bool) : (q.wp r b).bt = q.bt := by unfold Seq.wp; split <;> rfl
@[simp] theorem wp_lc (q : Seq) (r : BitVec 3) (b : Bool) : (q.wp r b).lc = q.lc := by unfold Seq.wp; split <;> rfl
@[simp] theorem wp_loops (q : Seq) (r : BitVec 3) (b : Bool) : (q.wp r b).loops = q.loops := by unfold Seq.wp; split <;> rfl
@[simp] theorem wp_loopBuf (q : Seq) (r : BitVec 3) (b : Bool) : (q.wp r b).loopBuf = q.loopBuf := by unfold Seq.wp; split <;> rfl
@[simp] theorem wp_xfer (q : Seq) (r : BitVec 3) (b : Bool) : (q.wp r b).xfer = q.xfer := by unfold Seq.wp; split <;> rfl
@[simp] theorem wp_exited (q : Seq) (r : BitVec 3) (b : Bool) : (q.wp r b).exited = q.exited := by unfold Seq.wp; split <;> rfl
@[simp] theorem wp_marks (q : Seq) (r : BitVec 3) (b : Bool) : (q.wp r b).marks = q.marks := by unfold Seq.wp; split <;> rfl
@[simp] theorem wp_bundles (q : Seq) (r : BitVec 3) (b : Bool) : (q.wp r b).bundles = q.bundles := by unfold Seq.wp; split <;> rfl
@[simp] theorem wp_loadQ (q : Seq) (r : BitVec 3) (b : Bool) : (q.wp r b).loadQ = q.loadQ := by unfold Seq.wp; split <;> rfl
@[simp] theorem wp_storeQ (q : Seq) (r : BitVec 3) (b : Bool) : (q.wp r b).storeQ = q.storeQ := by unfold Seq.wp; split <;> rfl
@[simp] theorem wp_ord (q : Seq) (r : BitVec 3) (b : Bool) : (q.wp r b).ord = q.ord := by unfold Seq.wp; split <;> rfl
@[simp] theorem wp_bkpt (q : Seq) (r : BitVec 3) (b : Bool) : (q.wp r b).bkpt = q.bkpt := by unfold Seq.wp; split <;> rfl
@[simp] theorem wp_bkptSkip (q : Seq) (r : BitVec 3) (b : Bool) : (q.wp r b).bkptSkip = q.bkptSkip := by unfold Seq.wp; split <;> rfl
@[simp] theorem wp_stall (q : Seq) (r : BitVec 3) (b : Bool) : (q.wp r b).stall = q.stall := by unfold Seq.wp; split <;> rfl
@[simp] theorem wp_micro (q : Seq) (r : BitVec 3) (b : Bool) : (q.wp r b).micro = q.micro := by unfold Seq.wp; split <;> rfl

end Sys2Proof.Machine
end

