-- ==== Sys2Proof/Laws/Issue.lean ====
section
/-! SUPPORT. What issuing one word can do: the four ends of an issue, the gates before a word's own effect, and the faults that a word
or an agent raises. -/

namespace Sys2Proof.Machine

/-! ## The four ends -/

@[simp] theorem finishRes_done (i : Instr) (c : Nat) (st : Stream) (s : State) : finishRes i c st (.done s) = .next (s.retire c st) := rfl
@[simp] theorem finishRes_jump (i : Instr) (c : Nat) (st : Stream) (s : State) :
    finishRes i c st (.jump s) = .next (s.retireJump c st) := rfl
@[simp] theorem finishRes_stall (i : Instr) (c : Nat) (st : Stream) (k : StallKind) (s : State) :
    finishRes i c st (.stall k s) = .next (s.stand c st i k) := rfl
@[simp] theorem finishRes_trap (i : Instr) (c : Nat) (st : Stream) (e : Cause) (s : State) :
    finishRes i c st (.trap e s) = .next (s.trapAt c st i e) := rfl

/-- However a word ends, the machine goes on. -/
theorem finishRes_next (i : Instr) (c : Nat) (st : Stream) (r : Res) : ∃ t, finishRes i c st r = .next t := by
  cases r <;> exact ⟨_, rfl⟩

/-! ## The gates before a word's effect -/

/-- A word whose turn it is not does nothing. -/
theorem runSeq_agents (i : Instr) (g : Guard) (inSpan ctl : Bool) (xs ws : List (BitVec 5)) (body : Nat → Stream → State → Res)
    (s : State) (h : s.turn = .agents) : runSeq i g inSpan ctl xs ws body s = .next s := by
  simp only [runSeq, h]

/-- A word always goes on. -/
theorem runSeq_next (i : Instr) (g : Guard) (inSpan ctl : Bool) (xs ws : List (BitVec 5)) (body : Nat → Stream → State → Res)
    (s : State) : ∃ t, runSeq i g inSpan ctl xs ws body s = .next t := by
  unfold runSeq
  cases s.turn with
  | agents => exact ⟨s, rfl⟩
  | issue c st b => exact finishRes_next ..

/-- A stream that `turnOf` names has its turn, in a context that exists. -/
theorem turnOf_turn {s : State} {c : Nat} {st : Stream} (h : s.turnOf c st = true) : c < s.ctxs.length ∧ ∃ b, s.turn = .issue c st b := by
  unfold State.turnOf at h
  rw [Bool.and_eq_true] at h
  refine ⟨of_decide_eq_true h.1, ?_⟩
  have h2 := h.2
  cases ht : s.turn with
  | agents => rw [ht] at h2; cases h2
  | issue d u b =>
    rw [ht] at h2
    dsimp only at h2
    rw [Bool.and_eq_true] at h2
    have hd := of_decide_eq_true h2.1
    have hu := of_decide_eq_true h2.2
    subst hd hu
    exact ⟨b, rfl⟩

/-- A word whose guard is false only advances the sequencer. -/
theorem runSeq_false (i : Instr) (g : Guard) (inSpan ctl : Bool) (xs ws : List (BitVec 5)) (body : Nat → Stream → State → Res)
    {s : State} {c : Nat} {st : Stream} (ht : s.turnOf c st = true) (hg : (s.seq c st).rp g.gp = g.gn) :
    runSeq i g inSpan ctl xs ws body s = .next (s.retire c st) := by
  obtain ⟨-, b, hb⟩ := turnOf_turn ht
  unfold runSeq
  rw [hb]
  dsimp only
  rw [if_pos (by exact hg)]
  rfl

/-- An unboosted word that meets nothing that holds it back ends as its own body says. -/
theorem runSeq_runs (i : Instr) (g : Guard) (inSpan ctl : Bool) (xs ws : List (BitVec 5)) (body : Nat → Stream → State → Res)
    {s : State} {c : Nat} {st : Stream} (h : s.runs c st g xs ws = true) (hc : ctl = true → s.noSlot c st = true) :
    runSeq i g inSpan ctl xs ws body s = finishRes i c st (body c st s) := by
  unfold State.runs at h
  simp only [Bool.and_eq_true] at h
  obtain ⟨⟨⟨⟨⟨⟨ht, -⟩, hg⟩, hs⟩, ho⟩, he⟩, hm⟩ := h
  obtain ⟨-, b, hb⟩ := turnOf_turn ht
  generalize hq : (s.ctx c).seq st = q at hg ho hm
  have hx : ¬((ctl && q.xfer.isSome) = true) := by
    intro hh
    rw [Bool.and_eq_true] at hh
    have := hc hh.1
    unfold State.noSlot State.seq at this
    rw [hq] at this
    cases hx : q.xfer <;> simp_all
  have hm' : markOf q xs = none := by
    cases hk : markOf q xs with
    | none => rfl
    | some m => rw [hk] at hm; cases hm
  unfold runSeq
  rw [hb]
  dsimp only
  rw [hq, if_neg (by intro h; rw [h] at hg; simp at hg), if_neg (by intro h; simp_all), if_neg hx,
    if_neg (by
      intro h
      rw [Bool.not_eq_true'] at ho he
      rw [ho, he] at h
      cases h), hm']

/-- A register-to-register word without boost is a word of its stream. -/
theorem runAlu_unboosted (i : Instr) (g : Guard) (xs : List (BitVec 5)) (ps : List (BitVec 3)) (d : Dest)
    (val : (BitVec 5 → Word) → (BitVec 3 → Bool) → Word) (s : State) (h : g.boost = 0) :
    runAlu i g xs ps d val s = runSeq i g true false xs d.xs
      (fun c st s => .done (s.upSeq c st fun q => q.wDest d (val (s.seq c st).rx (s.seq c st).rp))) s := by
  unfold runAlu
  rw [if_pos h]

/-- A register-to-register word always goes on. -/
theorem runAlu_next (i : Instr) (g : Guard) (xs : List (BitVec 5)) (ps : List (BitVec 3)) (d : Dest)
    (val : (BitVec 5 → Word) → (BitVec 3 → Bool) → Word) (s : State) : ∃ t, runAlu i g xs ps d val s = .next t := by
  unfold runAlu
  split
  · exact runSeq_next ..
  · cases s.turn with
    | agents => exact ⟨s, rfl⟩
    | issue c st b => exact finishRes_next ..

/-- A register-to-register word that may execute writes its destination and nothing else. -/
theorem runAlu_runs (i : Instr) (g : Guard) (xs : List (BitVec 5)) (ps : List (BitVec 3)) (d : Dest)
    (val : (BitVec 5 → Word) → (BitVec 3 → Bool) → Word) {s : State} {c : Nat} {st : Stream} (h : s.runs c st g xs d.xs = true) :
    runAlu i g xs ps d val s =
      .next ((s.upSeq c st fun q => q.wDest d (val (s.seq c st).rx (s.seq c st).rp)).retire c st) := by
  have hb : g.boost = 0 := by
    unfold State.runs at h
    simp only [Bool.and_eq_true] at h
    exact of_decide_eq_true h.1.1.1.1.1.2
  rw [runAlu_unboosted _ _ _ _ _ _ _ hb, runSeq_runs _ _ _ _ _ _ _ h (by intro q; cases q)]
  rfl

/-! ## Taking a fault -/

/-- A fault leaves memory and the byte store of programs alone. -/
theorem takeFault_mem (s : State) (c : Nat) (f : Pending) : (takeFault s c f).mem = s.mem := by
  unfold takeFault
  extract_lets s'
  unfold s'
  split <;> rfl

theorem takeFault_code (s : State) (c : Nat) (f : Pending) : (takeFault s c f).code = s.code := by
  unfold takeFault
  extract_lets s'
  unfold s'
  split <;> rfl

theorem takeFault_cores (s : State) (c : Nat) (f : Pending) : (takeFault s c f).cores = s.cores := by
  unfold takeFault
  extract_lets s'
  unfold s'
  split <;> rfl

theorem takeFault_tide (s : State) (c : Nat) (f : Pending) : (takeFault s c f).tide = s.tide := by
  unfold takeFault
  extract_lets s'
  unfold s'
  split <;> rfl

theorem takeFault_turn (s : State) (c : Nat) (f : Pending) : (takeFault s c f).turn = s.turn := by
  unfold takeFault
  extract_lets s'
  unfold s'
  split <;> rfl

theorem preciseFault_mem (s : State) (c : Nat) (st : Stream) (pc word : Word) (e : Cause) : (preciseFault s c st pc word e).mem = s.mem :=
  takeFault_mem ..
theorem preciseFault_code (s : State) (c : Nat) (st : Stream) (pc word : Word) (e : Cause) :
    (preciseFault s c st pc word e).code = s.code := takeFault_code ..
theorem looseFault_mem (s : State) (c source : Nat) (e : Cause) : (looseFault s c source e).mem = s.mem := takeFault_mem ..
theorem looseFault_code (s : State) (c source : Nat) (e : Cause) : (looseFault s c source e).code = s.code := takeFault_code ..

end Sys2Proof.Machine
end

