-- ==== Sys2Proof/Laws/Mem.lean ====
section
/-! SUPPORT. Sparse data: what a write reads as, that every operation keeps the canonical form, and the operations on memory. -/

namespace Sys2Proof.Machine

/-! ## A write and what is read after it -/

variable {β : Type} [DecidableEq β] (d : β)

omit [DecidableEq β] in
theorem sget_sput_same (m : Sparse β) (a : Nat) (b : β) : sget d (sput m a b) a = b := by
  induction m with
  | nil => simp [sput, sget]
  | cons e t ih =>
    unfold sput
    split
    · simp [sget]
    · split
      · simp [sget]
      · simp [sget, *]

omit [DecidableEq β] in
theorem sget_sput_other (m : Sparse β) (a x : Nat) (b : β) (h : x ≠ a) : sget d (sput m a b) x = sget d m x := by
  induction m with
  | nil => simp [sput, sget, h]
  | cons e t ih =>
    unfold sput
    split
    · simp [sget, h]
    · split
      · rename_i hk
        simp [sget, hk ▸ h, h]
      · simp [sget, ih]

omit [DecidableEq β] in
theorem sget_filter_out (m : Sparse β) (p : Nat → Bool) (a : Nat) (h : p a = false) :
    sget d (m.filter fun e => p e.1) a = d := by
  induction m with
  | nil => rfl
  | cons e t ih =>
    by_cases hp : p e.1 = true
    · have : a ≠ e.1 := fun t => by rw [← t, h] at hp; cases hp
      simp [List.filter, hp, sget, this, ih]
    · simp [List.filter, hp, ih]

omit [DecidableEq β] in
theorem sget_filter_in (m : Sparse β) (p : Nat → Bool) (a : Nat) (h : p a = true) :
    sget d (m.filter fun e => p e.1) a = sget d m a := by
  induction m with
  | nil => rfl
  | cons e t ih =>
    by_cases hp : p e.1 = true
    · simp [List.filter, hp, sget, ih]
    · have : a ≠ e.1 := fun t => hp (t ▸ h)
      simp [List.filter, hp, sget, this, ih]

/-- A read after a write to the same key gives the value written. -/
@[simp] theorem sget_sset_same (m : Sparse β) (a : Nat) (b : β) : sget d (sset d m a b) a = b := by
  unfold sset
  split
  · rename_i hb
    have := sget_filter_out d m (fun k => decide (k ≠ a)) a (by simp)
    simpa [hb] using this
  · exact sget_sput_same d m a b

/-- A write leaves every other key alone. -/
theorem sget_sset_other (m : Sparse β) (a x : Nat) (b : β) (h : x ≠ a) : sget d (sset d m a b) x = sget d m x := by
  unfold sset
  split
  · exact sget_filter_in d m (fun k => decide (k ≠ a)) x (by simpa using h)
  · exact sget_sput_other d m a x b h

/-- Writing several entries leaves the keys outside them alone. -/
theorem sget_ssets_other (m : Sparse β) (l : List (Nat × β)) (x : Nat) (h : ∀ e ∈ l, x ≠ e.1) : sget d (ssets d m l) x = sget d m x := by
  induction l generalizing m with
  | nil => rfl
  | cons e t ih =>
    obtain ⟨a, b⟩ := e
    have ht := ih (sset d m a b) fun e he => h e (List.mem_cons_of_mem _ he)
    simp only [ssets, ht]
    exact sget_sset_other d m a x b (h (a, b) (List.mem_cons_self ..))

theorem mem_keyed (bs : List Byte) (a : Nat) (e : Nat × Byte) (h : e ∈ keyed a bs) : a ≤ e.1 ∧ e.1 < a + bs.length := by
  induction bs generalizing a with
  | nil => simp [keyed] at h
  | cons b t ih =>
    simp only [keyed, List.mem_cons] at h
    rcases h with rfl | h
    · simp
    · have := ih (a + 1) h
      simp only [List.length_cons]
      omega

/-- Bytes written from `a` read back one by one. -/
theorem sget_ssets_keyed (m : Sparse Byte) (bs : List Byte) (a i : Nat) (h : i < bs.length) :
    sget 0 (ssets 0 m (keyed a bs)) (a + i) = bs.getD i 0 := by
  induction bs generalizing m a i with
  | nil => simp at h
  | cons b t ih =>
    simp only [keyed, ssets]
    cases i with
    | zero =>
      rw [sget_ssets_other]
      · simp
      · intro e he
        have := mem_keyed t (a + 1) e he
        omega
    | succ n =>
      have := ih (sset 0 m a b) (a + 1) n (by simpa using h)
      simpa [Nat.add_assoc, Nat.add_comm 1 n] using this

/-- Bytes outside those written read as before. -/
theorem sget_ssets_outside (m : Sparse Byte) (bs : List Byte) (a x : Nat) (h : x < a ∨ a + bs.length ≤ x) :
    sget 0 (ssets 0 m (keyed a bs)) x = sget 0 m x :=
  sget_ssets_other 0 m _ x fun e he => by
    have := mem_keyed bs a e he
    omega

@[simp] theorem sbytes_length (m : Sparse Byte) (a n : Nat) : (sbytes m a n).length = n := by
  induction n generalizing a with
  | zero => rfl
  | succ n ih => simp [sbytes, ih]

@[simp] theorem natBytes_length (v n : Nat) : (natBytes v n).length = n := by
  induction n generalizing v with
  | zero => rfl
  | succ n ih => simp [natBytes, ih]

/-! ## The canonical form is kept -/

theorem swfFrom_weaken (m : Sparse β) (lo hi : Nat) (h : lo ≤ hi) (w : swfFrom d (some hi) m = true) : swfFrom d (some lo) m = true := by
  cases m with
  | nil => rfl
  | cons e t =>
    simp only [swfFrom, Bool.and_eq_true, decide_eq_true_eq] at w ⊢
    exact ⟨⟨by omega, w.1.2⟩, w.2⟩

theorem swfFrom_none (m : Sparse β) (lo : Nat) (w : swfFrom d (some lo) m = true) : swfFrom d none m = true := by
  cases m with
  | nil => rfl
  | cons e t =>
    simp only [swfFrom, Bool.and_eq_true, Bool.true_and] at w ⊢
    exact ⟨w.1.2, w.2⟩

theorem swfFrom_sput (m : Sparse β) (lo : Option Nat) (a : Nat) (b : β) (hb : b ≠ d) (hl : ∀ x, lo = some x → x < a)
    (w : swfFrom d lo m = true) : swfFrom d lo (sput m a b) = true := by
  induction m generalizing lo with
  | nil =>
    cases lo with
    | none => simp [sput, swfFrom, hb]
    | some x => simp [sput, swfFrom, hb, hl x rfl]
  | cons e t ih =>
    obtain ⟨k, v⟩ := e
    simp only [swfFrom, Bool.and_eq_true, decide_eq_true_eq] at w
    unfold sput
    split
    · rename_i hk
      cases lo with
      | none => simp [swfFrom, hb, hk, w.1.2, w.2]
      | some x => simp [swfFrom, hb, hk, w.1.2, w.2, hl x rfl]
    · split
      · rename_i h1 h2
        subst h2
        cases lo with
        | none => simp [swfFrom, hb, w.2]
        | some x => simp [swfFrom, hb, w.2, hl x rfl]
      · have hr := ih (some k) (fun x hx => by cases hx; omega) w.2
        cases lo with
        | none => simp [swfFrom, w.1.2, hr]
        | some x =>
          have := w.1.1
          simp only [decide_eq_true_eq] at this
          simp [swfFrom, w.1.2, hr, this]

theorem swfFrom_filter (m : Sparse β) (lo : Option Nat) (p : Nat × β → Bool) (w : swfFrom d lo m = true) :
    swfFrom d lo (m.filter p) = true := by
  induction m generalizing lo with
  | nil => exact w
  | cons e t ih =>
    obtain ⟨k, v⟩ := e
    simp only [swfFrom, Bool.and_eq_true, decide_eq_true_eq] at w
    have hr := ih (some k) w.2
    by_cases hp : p (k, v) = true
    · simp only [List.filter, hp, swfFrom, Bool.and_eq_true, decide_eq_true_eq]
      exact ⟨w.1, hr⟩
    · simp only [List.filter, hp]
      cases lo with
      | none => exact swfFrom_none d _ _ hr
      | some x =>
        have := w.1.1
        simp only [decide_eq_true_eq] at this
        exact swfFrom_weaken d _ x k (by omega) hr

/-- Removing entries keeps the canonical form. -/
theorem swf_filter (m : Sparse β) (p : Nat × β → Bool) (w : swf d m = true) : swf d (m.filter p) = true := swfFrom_filter d m none p w

/-- One write keeps the canonical form. -/
theorem swf_sset (m : Sparse β) (a : Nat) (b : β) (w : swf d m = true) : swf d (sset d m a b) = true := by
  unfold sset
  split
  · exact swf_filter d m _ w
  · rename_i hb
    exact swfFrom_sput d m none a b hb (fun x hx => by cases hx) w

/-- Several writes keep the canonical form. -/
theorem swf_ssets (m : Sparse β) (l : List (Nat × β)) (w : swf d m = true) : swf d (ssets d m l) = true := by
  induction l generalizing m with
  | nil => exact w
  | cons e t ih =>
    obtain ⟨a, b⟩ := e
    exact ih (sset d m a b) (swf_sset d m a b w)

/-- Clearing a range keeps the canonical form. -/
theorem swf_sclear (m : Sparse β) (lo hi : Nat) (w : swf d m = true) : swf d (sclear m lo hi) = true := swf_filter d m _ w

/-! ## Memory -/

theorem rekey_wf (s : State) (key sec : Nat) (w : Memory.wf s.mem = true) : Memory.wf (s.rekey key sec).mem = true := by
  unfold State.rekey
  extract_lets st k bs
  generalize keyed (sec * 128) bs = l
  split
  · exact w
  · exact swf_ssets 0 s.mem l w

theorem foldl_rekey_wf (l : List Nat) (s : State) (key : Nat) (w : Memory.wf s.mem = true) :
    Memory.wf (l.foldl (fun s x => s.rekey key x) s).mem = true := by
  induction l generalizing s with
  | nil => exact w
  | cons x t ih => exact ih (s.rekey key x) (rekey_wf s key x w)

/-- Bytes that land at their home keep memory's canonical form. -/
theorem pokeHome_wf (s : State) (key pa : Nat) (bs : List Byte) (w : Memory.wf s.mem = true) :
    Memory.wf (s.pokeHome key pa bs).mem = true := by
  unfold State.pokeHome
  split
  · exact swf_ssets 0 _ _ (foldl_rekey_wf _ s key w)
  · exact swf_ssets 0 _ _ w

theorem upL2c_mem (s : State) (d k : Nat) (f : L2Class → L2Class) : (s.upL2c d k f).mem = s.mem := rfl
theorem l2drop_mem (s : State) (d i : Nat) (l : L2Line) : (s.l2drop d i l).mem = s.mem := rfl

/-- The access path of the L2 leaves memory alone. -/
theorem l2line_mem (s : State) (k key pa : Nat) (xs : List Nat) (store : Bool) : (s.l2line k key pa xs store).mem = s.mem := by
  unfold State.l2line
  extract_lets d i n add mark
  clear_value d i n mark
  split
  · rfl
  · rename_i u _ _
    have hu : u.mem = s.mem := by
      unfold u
      split <;> rfl
    clear_value u
    split
    · exact hu
    · extract_lets v w
      rw [upL2c_mem]
      refine Eq.trans ?_ hu
      unfold w v
      split <;> rfl

theorem l2touch_mem (s : State) (k key pa : Nat) (store : Bool) : (s.l2touch k key pa store).mem = s.mem := l2line_mem ..

/-- A zeroed page keeps memory's canonical form. -/
theorem zeroPage_wf (s : State) (key pa n : Nat) (w : Memory.wf s.mem = true) : Memory.wf (s.zeroPage key pa n).mem = true :=
  swf_sclear 0 s.mem pa (pa + n) w

/-- An access that waits for a channel leaves memory alone. -/
theorem holdWait_mem (s : State) (key pa n : Nat) (store : Bool) : (s.holdWait key pa n store).mem = s.mem := by
  unfold State.holdWait
  split <;> rfl

/-- A request to another module leaves this module's memory alone. -/
theorem askPeer_mem (s : State) (vf pa n op code : Nat) (data : List Byte) (who : Option (Nat × Nat)) :
    (s.askPeer vf pa n op code data who).mem = s.mem := by
  unfold State.askPeer
  split
  · rfl
  · split <;> rfl

theorem peerStore_mem (s : State) (vf pa : Nat) (bs : List Byte) (who : Option (Nat × Nat)) : (s.peerStore vf pa bs who).mem = s.mem := by
  unfold State.peerStore
  generalize sectorsOf pa bs.length = l
  induction l generalizing s with
  | nil => rfl
  | cons x t ih => exact (ih _).trans (askPeer_mem ..)

theorem reset_mem : State.reset.mem = [] := rfl
theorem reset_code : State.reset.code = [] := rfl

end Sys2Proof.Machine
end

