-- ==== Sys2Proof/Laws/Agents.lean ====
section
/-! SUPPORT. What the operations that engines, queues, rings and the firmware share can do. -/

namespace Sys2Proof.Machine

/-! ## Stores at their home -/

/-- The L2's accesses leave memory alone, one after another. -/
theorem foldl_l2touch_mem (l : List Nat) (s : State) (cls key : Nat) :
    (l.foldl (fun s x => s.l2touch cls key (x * 128) true) s).mem = s.mem := by
  induction l generalizing s with
  | nil => rfl
  | cons x t ih => exact (ih _).trans (l2touch_mem ..)

/-- A store that performs keeps memory's canonical form. -/
theorem homeStore_wf (s : State) (cls key : Nat) (die : Option Nat) (vf pa : Nat) (bs : List Byte) (w : Memory.wf s.mem = true) :
    Memory.wf (s.homeStore cls key die vf pa bs).1.mem = true := by
  unfold State.homeStore
  extract_lets n secs covered
  clear_value n secs covered
  split
  · split
    · exact w
    · rw [peerStore_mem]; exact w
  split
  · exact w
  · rename_i s1 s2 s3 lines s4 _ _
    have h1 : Memory.wf s1.mem = true := by
      unfold s1
      split
      · rw [foldl_l2touch_mem, holdWait_mem]; exact w
      · exact w
    have h2 : Memory.wf s2.mem = true := pokeHome_wf s1 key pa bs h1
    have h3 : s3.mem = s2.mem := rfl
    have h4 : s4.mem = s3.mem := by
      unfold s4
      clear_value s3
      split <;> rfl
    show Memory.wf s4.mem = true
    rw [h4, h3]
    exact h2

/-- An uncorrectable partial store writes nothing and changes nothing. -/
theorem homeStore_uncorr (s : State) (cls key : Nat) (die : Option Nat) (vf pa : Nat) (bs : List Byte)
    (h : (s.homeStore cls key die vf pa bs).2 = true) : (s.homeStore cls key die vf pa bs).1 = s := by
  unfold State.homeStore at h ⊢
  dsimp only at h ⊢
  split at h
  · rename_i hp
    rw [if_pos hp]
    split at h
    · rename_i hd
      rw [if_pos hd]
    · cases h
  · rename_i hp
    rw [if_neg hp]
    split at h
    · rename_i hc
      rw [if_pos hc]
    · cases h

/-! ## Rings -/

theorem upRing_mem (s : State) (vf n : Nat) (f : Ring → Ring) : (s.upRing vf n f).mem = s.mem := by
  unfold State.upRing
  split <;> rfl

theorem upRing_ctxs (s : State) (vf n : Nat) (f : Ring → Ring) : (s.upRing vf n f).ctxs = s.ctxs := by
  unfold State.upRing
  split <;> rfl

@[simp] theorem upCmd_mem (s : State) (vf ring idx : Nat) (f : Cmd → Cmd) : (s.upCmd vf ring idx f).mem = s.mem := rfl
@[simp] theorem upCmd_ctxs (s : State) (vf ring idx : Nat) (f : Cmd → Cmd) : (s.upCmd vf ring idx f).ctxs = s.ctxs := rfl
@[simp] theorem endCmd_mem (s : State) (vf ring idx status cause : Nat) (r : Word) : (s.endCmd vf ring idx status cause r).mem = s.mem := rfl
@[simp] theorem endCmd_ctxs (s : State) (vf ring idx status cause : Nat) (r : Word) :
    (s.endCmd vf ring idx status cause r).ctxs = s.ctxs := rfl

/-- Nothing starts on a ring that has no command to start. -/
theorem tryStart_none (ops : Nat → Bool) (body : Cmd → State → State) (vf ring : Nat) (s : State) (h : s.nextCmd vf ring = none) :
    tryStart ops body vf ring s = none := by
  unfold tryStart
  rw [h]

/-- A command whose predecessor failed is skipped; any other runs. -/
theorem tryStart_some (ops : Nat → Bool) (body : Cmd → State → State) (vf ring : Nat) (s : State) (c : Cmd)
    (h : s.nextCmd vf ring = some c) (ho : ops c.opcode = true) :
    tryStart ops body vf ring s =
      if s.depFailed vf ring c then some ((s.upCmd vf ring c.seq fun c => { c with status := 9 }).finishCmd vf ring c.seq 5)
      else some (body c (s.upCmd vf ring c.seq fun c => { c with state := 2, tstart := s.tide })) := by
  unfold tryStart
  rw [h]
  dsimp only
  rw [if_neg (by rw [ho]; simp)]

/-! ## The queues of a stream -/

@[simp] theorem enqueue_mem (s : State) (c : Nat) (st : Stream) (l q : Bool) (e : QEntry) : (s.enqueue c st l q e).mem = s.mem := rfl
@[simp] theorem enqueue_cores (s : State) (c : Nat) (st : Stream) (l q : Bool) (e : QEntry) :
    (s.enqueue c st l q e).cores = s.cores := rfl

/-- A load whose check failed traps, or, boosted, leaves its failure in the shadow; one that passed joins the stream's load queue. -/
theorem issueLoad_next (i : Instr) (g : Guard) (d : BitVec 5) (c : Nat) (st : Stream) (e : QEntry)
    (r : State × Except Cause (Nat × Nat)) : ∃ t, finishRes i c st (issueLoad g d c st e r) = .next t := finishRes_next ..

/-- An unboosted load whose check passed joins the load queue and nothing else. -/
theorem issueLoad_ok (g : Guard) (d : BitVec 5) (c : Nat) (st : Stream) (e : QEntry) (s : State) (pa key : Nat) (h : g.boost = 0) :
    issueLoad g d c st e (s, .ok (pa, key)) =
      .done (s.enqueue c st true false { e with pa := pa, key := key, ord := (s.seq c st).ord, reg := d, boost := g.boost.toNat }) := by
  unfold issueLoad
  dsimp only
  rw [if_pos h]

/-! ## Words for the engines -/

/-- A word for an engine always goes on. -/
theorem sendWord_next (i : Instr) (op : EngOp) (s : State) : ∃ t, sendWord i op s = .next t := by
  unfold sendWord
  cases s.turn with
  | agents => exact ⟨s, rfl⟩
  | issue c st b => exact finishRes_next ..

/-- A word that is due waits for its post queue, and else completes. -/
theorem landDue_posts (s : State) (c : Nat) (f : Inflight) (h : (s.ctx c).canPost f.post = true) : s.landDue c f = some (s.complete c f) := by
  unfold State.landDue
  rw [if_pos h]

/-! ## Requests to the firmware -/

/-- A request always goes on. -/
theorem fwRun_next (q : FwReq) (core kind : Nat) (body : State → State × FwAns) (s : State) : ∃ t, fwRun q core kind body s = .next t :=
  ⟨_, rfl⟩

/-- A machine that has not booted answers nothing. -/
theorem fwRun_off (q : FwReq) (core kind : Nat) (body : State → State × FwAns) (s : State) (h : s.booted = false) :
    fwRun q core kind body s = .next s := by
  unfold fwRun
  rw [if_neg (by simp [h])]

/-- A request without its message at the head of the mailbox does nothing. -/
theorem fwRun_idle (q : FwReq) (core kind : Nat) (body : State → State × FwAns) (s : State) (h : s.asking q core kind = none) :
    fwRun q core kind body s = .next s := by
  unfold fwRun
  rw [h, ite_self]

/-- A request of the physical function runs from the state without its message, and is answered. -/
theorem fwRun_asked (q : FwReq) (core kind : Nat) (body : State → State × FwAns) (s : State) (c : Cmd) (hb : s.booted = true)
    (hv : q.vf = 0) (h : s.asking q core kind = some c) :
    fwRun q core kind body s = .next ((body (s.takeMail c)).1.answer q core kind (body (s.takeMail c)).2) := by
  unfold fwRun
  rw [if_pos (by simp [hb, hv]), h]

/-- The command that a request answers is the one that its ring and sequence number name, and it runs. -/
theorem asking_cmd (s : State) (q : FwReq) (core kind : Nat) (c : Cmd) (h : s.asking q core kind = some c) :
    (s.ring q.vf q.ring).cmd? q.seq = some c ∧ c.state = 2 := by
  unfold State.asking at h
  rw [Option.filter_eq_some_iff] at h
  simp only [Bool.and_eq_true, decide_eq_true_eq] at h
  exact ⟨h.1, h.2.1.1.1.1.1.1⟩

/-- A request has its effect in the state without its message. -/
theorem begun_asked (s : State) (q : FwReq) (core kind : Nat) (c : Cmd) (h : s.asking q core kind = some c) : s.begun q = s.takeMail c := by
  unfold State.begun
  rw [(asking_cmd s q core kind c h).1]

/-! ## Pinned lines -/

/-- What needed no pinned line and no other module stays done. -/
theorem keep_free (s t : State) (h : t.stands = true) : s.keep t = t := if_pos h

/-- A word that met neither leaves all that it did. -/
theorem issued_free (s t : State) (c : Nat) (st : Stream) (h : t.stands = true) : s.issued c st t = t := if_pos h

/-! ## Uncorrectable scratchpad words -/

/-- On a core whose scratchpad holds no uncorrectable word, no operand is bad. -/
theorem readBad_clean (s : State) (k : Ctx) (os : List Nat) (h : (s.core k.coreNo).spadErr = []) : s.readBad k os = none := if_pos h

/-- Where no operand is bad, an engine instruction begins as its own start says. -/
theorem begin_clean (op : EngOp) (s : State) (c : Nat) (f : Inflight) (h : s.readBad (s.ctx c) (op.reads (s.ctx c) f) = none) :
    op.begin s c f = op.start s c f := by
  unfold EngOp.begin
  rw [h]
  cases op.start s c f <;> rfl

/-- A bad operand is the cause of an instruction that has passed the checks of its start (R348). -/
theorem begin_bad (op : EngOp) (s : State) (c : Nat) (f : Inflight) (cause : Cause) (h : s.readBad (s.ctx c) (op.reads (s.ctx c) f) = some cause)
    (hs : (op.start s c f).toBool = true) : op.begin s c f = .error cause := by
  unfold EngOp.begin
  rw [h]
  cases hr : op.start s c f with
  | ok r => rfl
  | error e => rw [hr] at hs; cases hs

end Sys2Proof.Machine
end

