-- ==== Sys2Proof/Tests/Slice0.lean ====
section
/-! SUPPORT. Tests: words of the spec's encodings and their decoding, ill-formed terms that are refused, states that meet the hypotheses
of the statements, and single steps. -/

open Sys2Proof Sys2Proof.Machine

set_option Elab.async false

namespace Sys2Proof.Tests

/-! ## Small states -/

def g0 : Guard := { boost := 0, gn := false, gp := 0 }
/-- A guard that is never true. -/
def gNo : Guard := { boost := 0, gn := true, gp := 0 }
/-- A context that runs on core 0. -/
def kRun : Ctx := { Ctx.blank with core := some 0, run := .running }
/-- The module with one context, whose stream has the turn. -/
def mk1 (k : Ctx) (st : Stream) : State := { State.reset with leases := [], ctxs := [k], turn := .issue 0 st [], tide := 50 }
/-- The module with one context, whose agents have the turn. -/
def mkA (k : Ctx) : State := { State.reset with leases := [], ctxs := [k], tide := 50 }
/-- Set registers of one stream. -/
def setX (k : Ctx) (st : Stream) (l : List (BitVec 5 × Word)) : Ctx := k.upSeq st fun q => l.foldl (fun q e => q.wx e.1 e.2) q
/-- A page table of the physical function: the first GiB, readable and writable, under the module key. -/
def pages : List Host.Cell :=
  [(0x40000000, 1), (0x40000001, 8), (0x40000003, 0x40), (0x40000800, 0x7F), (0x1EF00000000, 1), (0x1EF00000003, 0x40)]
def mapped (s : State) : State := { s with mem := pages }
def isOk {ε α : Type} : Except ε α → Bool
  | .ok _ => true
  | .error _ => false
def goes (o : Out) : Bool := match o with | .next _ => true | _ => false
def getOk {ε α : Type} : Except ε α → Option α
  | .ok a => some a
  | .error _ => none

/-! ## Witnesses: reset, the whole machine and encodings -/

theorem wit_StepKeepsInvariant : State.reset.Inv ∧ goes (step State.reset) = true := ⟨⟨by decide, by decide⟩, by decide +kernel⟩
theorem wit_StepGoesOn_power : State.reset.powerOn = true ∧ State.reset.agenda = [] := by decide
theorem wit_StepGoesOn_agenda : ({ State.reset with agenda := [.powerDown] } : State).agenda ≠ [] := by decide
theorem wit_StepGoesOn_off : let s : State := { State.reset with rails := [] }; s.agenda = [] ∧ s.powerOn = false := by decide

/-- The addition of the spec's example, placed for the next step. -/
def sFetch : State := State.reset.withFetchWord 64 0x0000A63800000000

theorem wit_StepRunsDecoded : let s := sFetch
    let u := (s.fetchBundle 0 .x (s.seq 0 .x).pc.toNat).fetchBundle 0 .x ((s.seq 0 .x).pc.toNat / 64 * 64 + 64)
    s.agenda = [] ∧ s.inputs = [] ∧ s.powerOn = true ∧ s.turn = .issue 0 .x [] ∧ s.canIssue 0 .x = true ∧ (s.seq 0 .x).loopBuf = [] ∧
    (s.seq 0 .x).micro.active = false ∧ getOk (u.wordAtPc 0 .x) = some 0x0000A63800000000 ∧ (u.seq 0 .x).atBkpt = false ∧
    checkWord (checkEnv (u.ctx 0) .x 0x0000A63800000000) 0x0000A63800000000 = none ∧
    getOk (decode 0x0000A63800000000) = some (.add g0 5 6 7) := by decide
theorem wit_FetchReadsArena : let s := sFetch
    0 < s.ctxs.length ∧ (s.seq 0 .x).pc.toNat % 8 = 0 ∧ (s.seq 0 .x).loopBuf = [] ∧ (s.seq 0 .x).bundles = [] ∧
    s.bundlePoison (s.ctx 0) (s.seq 0 .x).pc.toNat = none ∧ (s.ctx 0).run = .running := by decide
/-- The first byte of the code was changed after the iteration started, and before it. -/
theorem wit_FetchReadsArena_edit : let e : CodeEdit := { addr := (sFetch.seq 0 .x).pc.toNat, old := [7] }
    let it : Iter := { launch := 0, ordinal := 0, flat := 0, trig := false, placed := 5 }
    let s (n : Nat) : State := { sFetch with codeEdits := [e], ctxs := sFetch.ctxs.map fun k => { k with iter := some { it with edits := n } } }
    ((s 0).ctx 0).iter.map (·.edits) = some 0 ∧ ((s 1).ctx 0).iter.map (·.edits) = some 1 ∧
    (s 0).bundlePoison ((s 0).ctx 0) ((s 0).seq 0 .x).pc.toNat = none ∧ ((s 0).seq 0 .x).bundles = [] ∧ e.old.length = 1 := by decide
/-- A target with a low bit set, and an aligned one. -/
theorem wit_FetchReadsArena_target : (0x104 : Word).toNat % 8 ≠ 0 ∧ (0x140 : Word).toNat % 8 = 0 := by decide
theorem wit_DecodeExamples_reserved : reservedOpc ((0xBF00000000000000 : Word).extractLsb' 56 8).toNat = true := by decide
theorem wit_DecodeOfEncode : (Instr.add g0 5 6 7).wf = true ∧ encode (.add g0 5 6 7) = some 0x0000A63800000000 := by decide
theorem wit_EncodeOfDecode : getOk (decode 0x0000A63800000000) = some (.add g0 5 6 7) := by decide

/-! ## Witnesses: scalar words -/

/-- x1 = 7, x2 = 0, and x3 the largest 64-bit number. -/
def kNum : Ctx := setX kRun .x [(1, 7), (2, 0), (3, 0xFFFFFFFFFFFFFFFF), (4, 0x0100000000000000)]
def kFq : Ctx := { kNum with csr := { kNum.csr with jnlbase := 2 }, yq := [5, 6] }

theorem wit_ConstantRegisters_push : let s := mk1 kFq .x
    s.runs 0 .x g0 [1] [0] = true ∧ (s.ctx 0).fq.length < 64 ∧ (s.ctx 0).jnlRoom = true ∧ s.runs 0 .x g0 [] [0] = true ∧
    (s.ctx 0).yq = 5 :: [6] := by decide
theorem wit_ConstantRegisters_load : let s := mk1 kFq .x
    s.runs 0 .x g0 [4] [0] = true ∧ bitsN ((s.seq 0 .x).rx 4 + (0 : BitVec 32).signExtend 64) 63 56 ≠ 0 ∧
    s.runs 0 .x g0 [1, 1] [] = true := by decide
theorem wit_ScalarArithmetic_decode : let w : Word := 0x0000A63800000000
    (fld w 56 8).toNat = 0 ∧ (fld w 32 3).toNat = 0 ∧ fld w 54 2 ≠ 3 ∧ fld w 0 32 = 0 := by decide
theorem wit_ScalarArithmetic_runs : (mk1 kNum .x).runs 0 .x g0 [3, 2] [0] = true ∧ ((mk1 kNum .x).seq 0 .x).rx 2 = 0 := by decide
/-- x1 is poisoned by an uncorrectable load. -/
def kMark : Ctx := kNum.upSeq .x fun q => { q with marks := [{ reg := 1, ord := 3, addr := 0x80 }] }
theorem wit_ScalarArithmetic_poison : let s := mk1 kMark .x
    s.turnOf 0 .x = true ∧ g0.boost = 0 ∧ (s.seq 0 .x).rp g0.gp ≠ g0.gn ∧ (s.ctx 0).boost.entries = [] ∧
    (∀ r, owed (s.seq 0 .x) r = false) ∧ engineBusy (s.ctx 0) .x [1, 2] [3] = false ∧
    markOf (s.seq 0 .x) [1, 2] = some { reg := 1, ord := 3, addr := 0x80 } := by decide
theorem wit_ScalarFields_runs : let s := mk1 kNum .x
    s.runs 0 .x g0 [1] [5] = true ∧ s.runs 0 .x g0 [1, 5] [5] = true ∧ s.runs 0 .x g0 [] [5] = true ∧ badPosLen 63 1 = false ∧
    badPosLen 0 64 = false := by decide
theorem wit_ScalarFields_decode : let w : Word := 0x0300640200002308
    (fld w 56 8).toNat = 3 ∧ (fld w 32 3).toNat = 2 ∧ fld w 54 2 ≠ 3 ∧ fld w 35 5 = 0 ∧ fld w 14 18 = 0 ∧
    (fld w 0 6).toNat + (fld w 6 7).toNat = 20 := by decide
/-- POS 63 and LEN 2 run past the register. -/
theorem wit_ScalarFields_reserved : let w : Word := 0x03006402000000BF
    (fld w 56 8).toNat = 3 ∧ (fld w 32 3).toNat = 2 ∧ (fld w 0 6).toNat + (fld w 6 7).toNat = 65 ∧ reservedDetail w = some 0 := by decide
theorem wit_PredicateResults : let s := mk1 kNum .x
    s.runs 0 .x g0 [1, 2] [] = true ∧ s.runs 0 .x g0 [] [] = true ∧ s.runs 0 .x g0 [1, 2] [3] = true := by decide
theorem wit_ScalarFrame : let s := mk1 kNum .x
    s.runs 0 .x g0 [1, 2] [3] = true ∧ goes (exec (.add g0 3 1 2) s) = true ∧ s.runs 0 .x g0 [1, 2] [] = true ∧
    goes (exec (.cmpEq g0 7 1 2) s) = true := by decide
theorem wit_GuardsAndBoost_false : let s := mk1 kNum .c
    s.turnOf 0 .c = true ∧ gNo.boost = 0 ∧ (s.seq 0 .c).rp gNo.gp = gNo.gn := by decide
/-- x1 holds a value in the shadow of level 1, x2 one in that of level 2. -/
def kShadow : Ctx :=
  { kNum with boost := { entries := [{ lv := 1, isP := false, reg := 1, val := 9, poison := none, ord := 0 },
                                     { lv := 2, isP := false, reg := 2, val := 4, poison := none, ord := 1 }], rec1 := none, rec2 := none } }
theorem wit_GuardsAndBoost_level : let s := mk1 kShadow .x
    s.turnOf 0 .x = true ∧ (∀ e ∈ (s.ctx 0).boost.entries, e.poison = none) ∧ (∀ r, owed (s.seq 0 .x) r = false) ∧
    (s.seq 0 .x).marks = [] := by decide
theorem wit_GuardsAndBoost_load :
    (((mapped (mk1 kShadow .x)).checkVa (some 0) 0 .rd 8 8).2 |> getOk) = some (8, 4096) ∧
    isOk ((mk1 kShadow .x).checkVa (some 0) 0 .rd 8 8).2 = false := by decide

/-! ## Witnesses: control flow -/

theorem wit_Transfers : let s := mk1 kNum .l
    s.runs 0 .l g0 [1] [] = true ∧ s.runs 0 .l g0 [] [31] = true ∧ s.noSlot 0 .l = true ∧ inBodyEnd (s.seq 0 .l) = false ∧
    (s.seq 0 .l).loops = [] := by decide
/-- Two levels hold entries, one of each kind; an entry of level 1 is poisoned. -/
def kTwo : Ctx :=
  { kNum with boost := { entries := [{ lv := 1, isP := false, reg := 31, val := 9, poison := none, ord := 0 },
                                     { lv := 1, isP := true, reg := 7, val := 1, poison := none, ord := 1 },
                                     { lv := 2, isP := false, reg := 31, val := 4, poison := none, ord := 2 }], rec1 := none, rec2 := none } }
def ePoison : Shadow := { lv := 1, isP := false, reg := 31, val := 0, poison := some { code := 0x1A, addr := 64 }, ord := 0 }
def kPoison : Ctx := { kNum with boost := { entries := [ePoison], rec1 := none, rec2 := none } }
theorem wit_Transfers_commit : (let s := mk1 kTwo .x
    s.turnOf 0 .x = true ∧ g0.boost = 0 ∧ (s.seq 0 .x).rp g0.gp ≠ g0.gn ∧ s.noSlot 0 .x = true ∧ inBodyEnd (s.seq 0 .x) = false ∧
    (s.ctx 0).mayCommit = true ∧ ((s.seq 0 .x).rp 0 != false) = true ∧ ((s.seq 0 .x).rp 0 != true) = false ∧
    (s.ctx 0).boost.entries.length = 3) ∧
    (let s := mk1 kPoison .x
    s.turnOf 0 .x = true ∧ (s.ctx 0).boostLoads = false ∧ ((s.ctx 0).boost.entries.filter fun o => o.lv = 1 && o.poison.isSome) = [ePoison] ∧
    ePoison.poison = some { code := 0x1A, addr := 64 }) := by decide
/-- A count of 2^32 in x1 and of 2^32 - 1 in x2. -/
def kCount : Ctx := setX kRun .l [(1, 0x100000000), (2, 0xFFFFFFFF)]
def kBody : Ctx := kCount.upSeq .l fun q =>
  { q with loops := [{ lc := 1, start := 0x100, stop := 0x108 }], pc := 0x100, lc := q.lc.set 1 2 }
/-- The word before the last of an active body: a BT there is in the body's last two words; a target inside the body and one outside. -/
theorem wit_Transfers_body : let k := kBody.upSeq .l fun q => { q with pc := 0xF8, loops := [{ lc := 1, start := 0xF0, stop := 0x108 }] }
    let s := mk1 k .l
    let q := s.seq 0 .l
    s.runs 0 .l g0 [] [] = true ∧ s.runs 0 .l g0 [] [31] = true ∧ s.runs 0 .l g0 [1] [] = true ∧ s.noSlot 0 .l = true ∧ inBodyEnd q = true ∧
    q.loops ≠ [] ∧ (q.loops.dropWhile fun e => !(decide (e.start.toNat ≤ 0xF0) && decide (0xF0 < e.stop.toNat))) ≠ [] ∧
    (q.loops.dropWhile fun e => !(decide (e.start.toNat ≤ 0x108) && decide (0x108 < e.stop.toNat))) = [] := by decide
theorem wit_Loops_count : let s := mk1 kCount .l
    s.runs 0 .l g0 [1] [] = true ∧ s.runs 0 .l g0 [2] [] = true ∧ s.noSlot 0 .l = true ∧ (s.seq 0 .l).loops = [] ∧
    2 ^ 32 ≤ ((s.seq 0 .l).rx 1).toNat ∧ ((s.seq 0 .l).rx 2).toNat < 2 ^ 32 ∧ ((s.seq 0 .l).rx 3).toNat = 0 := by decide
theorem wit_Loops_body : let s := mk1 kBody .l
    let q := s.seq 0 .l
    s.runs 0 .l g0 [] [] = true ∧ s.noSlot 0 .l = true ∧ q.loops = [{ lc := 1, start := 0x100, stop := 0x108 }] ∧ q.xfer = none ∧
    q.pc + 8 = 0x108 ∧ q.lc[(1 : BitVec 2).toNat] ≠ 0 := by decide
theorem wit_EndsAndVotes : let s := mk1 kNum .s
    s.runs 0 .s g0 [] [] = true ∧ s.quiet 0 .s = true ∧ s.ownHome 0 .s 3 = true ∧ (s.ctx 0).mayCommit = true ∧ s.noSlot 0 .s = true ∧ (s.seq 0 .s).loadQ = [] ∧ (s.seq 0 .s).marks = [] ∧
    (s.ctx 0).region = none ∧ (s.ctx 0).boostLoads = false ∧ (s.ctx 0).boost.entries = [] ∧ predBusy (s.ctx 0) 0 = false ∧
    predBusy (s.ctx 0) 7 = false := by decide
def kCommit : Ctx :=
  { kNum with boost := { entries := [{ lv := 1, isP := false, reg := 31, val := 9, poison := none, ord := 0 }], rec1 := none, rec2 := none } }
theorem wit_EndsAndVotes_commit : let s := mk1 kCommit .x
    s.turnOf 0 .x = true ∧ (s.seq 0 .x).rp g0.gp ≠ g0.gn ∧ (s.ctx 0).boostLoads = false ∧
    (s.ctx 0).boost.entries = [{ lv := 1, isP := false, reg := 31, val := 9, poison := none, ord := 0 }] := by decide
theorem wit_EndsAndVotes_poison : let s := mk1 kPoison .x
    s.turnOf 0 .x = true ∧ (s.ctx 0).boostLoads = false ∧ ((s.ctx 0).boost.entries.filter fun o => o.lv = 1 && o.poison.isSome) = [ePoison] ∧
    (s.ctx 0).run = .running ∧ (s.ctx 0).pend = [] ∧ (mk1 kTwo .x).turnOf 0 .x = true ∧ kTwo.mayCommit = true := by decide
theorem wit_EndsAndVotes_nop : let w : Word := 0x2800000000000000
    (fld w 56 8).toNat = 0x28 ∧ fld w 54 2 = 0 ∧ fld w 0 50 = 0 := by decide

/-! ## Witnesses: memory -/

def kMem : Ctx := setX kRun .x [(1, 8), (2, 0x11), (3, 0x0100000000000000), (4, 0xFFFFFFFF)]
theorem wit_MemoryIssue_words : let s := mapped (mk1 kMem .x)
    s.runs 0 .x g0 [1] [5] = true ∧ s.runs 0 .x g0 [1, 2] [] = true ∧ s.runs 0 .x g0 [1, 2, 5] [5] = true ∧
    getOk (s.checkVa (some 0) 0 .rd 8 8).2 = some (8, 4096) ∧ getOk (s.checkVa (some 0) 0 .wr 8 8).2 = some (8, 4096) ∧
    getOk (s.checkVa (some 0) 0 .both 8 8).2 = some (8, 4096) := by decide
theorem wit_MemoryIssue_range : let q := (mk1 kMem .x).seq 0 .x
    bitsN (q.rx 3 + (0 : BitVec 32).signExtend 64) 63 56 ≠ 0 ∧ (q.rx 2 + (0 : BitVec 32).signExtend 64).toNat % 2 ≠ 0 := by decide
/-- No table serves the address; a leaf that is not writable; a page under a key slot that is empty. -/
def noWrite : List Host.Cell := pages.map fun e => if e.1 = 0x40000800 then (e.1, 0x77) else e
def ofVf : List Host.Cell := pages.map fun e => if e.1 = 0x40000800 then (e.1, 0x3F) else e
theorem wit_MemoryIssue_faults : (let s := mk1 kMem .x
    s.runs 0 .x g0 [1] [5] = true ∧ s.runs 0 .x g0 [1, 2] [] = true ∧ s.runs 0 .x g0 [1, 2, 5] [5] = true ∧ (s.core 0).tlb = [] ∧
    (match s.walk 0 8 with | .miss _ _ _ => true | _ => false) = true) ∧
    (let s : State := { mk1 kMem .x with mem := noWrite }
    (match s.walk 0 8 with | .leaf _ e _ => e.getLsbD 2 && !e.getLsbD 3 | _ => false) = true ∧ (s.core 0).tlb = []) ∧
    (let s : State := { mk1 kMem .x with mem := ofVf }
    ∀ need ∈ [Need.rd, .wr, .both], (let t := s.translate (some 0) 0 8 need
      t.2 = some (8, 0) ∧ t.1.targetPass 0 4 0 need 8 = false)) := by decide
theorem wit_MemoryIssue_atomic : let q := (mk1 kMem .x).seq 0 .x
    bitsN (q.rx 3) 63 56 ≠ 0 ∧ bitsN (q.rx 2) 63 56 = 0 ∧ (q.rx 2).toNat % 4 ≠ 0 ∧ (q.rx 2).toNat % 8 ≠ 0 := by decide
/-- One block of scratchpad; x1 names its last 8 bytes, x2 a misaligned offset. -/
def kSp : Ctx := { setX kRun .l [(1, 16376), (2, 4)] with csr := { Csrs.zero with splimit := 1 } }
theorem wit_ScratchpadAndFence : let s := mk1 kSp .l
    let o := (s.seq 0 .l).rx 1 + (0 : BitVec 32).signExtend 64
    o.toNat < 2 ^ 24 ∧ o.toNat % 8 = 0 ∧ (s.ctx 0).baseBlk * 16384 + o.toNat + 8 = (s.ctx 0).endBlk * 16384 ∧
    ((s.seq 0 .l).rx 2 + (0 : BitVec 32).signExtend 64).toNat % 8 ≠ 0 ∧ s.runs 0 .l g0 [1] [3] = true ∧ s.runs 0 .l g0 [1, 2] [] = true ∧
    s.runs 0 .l g0 [] [] = true ∧ (s.seq 0 .l).marks = [] ∧ s.quiet 0 .l = true := by decide
/-- Offsets at which each cause is the first: of 2^24, misaligned outside the allotment, and the first aligned one outside. -/
theorem wit_ScratchpadAndFence_causes : let s := mk1 (setX kSp .l [(1, 0x1000000), (2, 16383), (3, 16384)]) .l
    let o (r : BitVec 5) := ((s.seq 0 .l).rx r + (0 : BitVec 32).signExtend 64).toNat
    o 1 = 2 ^ 24 ∧ o 2 < 2 ^ 24 ∧ o 2 % 8 ≠ 0 ∧ (s.ctx 0).endBlk * 16384 < o 2 + 8 ∧ o 3 % 8 = 0 ∧ (s.ctx 0).endBlk * 16384 < o 3 + 8 ∧
    s.runs 0 .l g0 [1] [4] = true ∧ s.runs 0 .l g0 [2, 3] [] = true := by decide
/-- Two marked loads, the older of register 4. -/
theorem wit_ScratchpadAndFence_marks : let k := kSp.upSeq .l fun q =>
      { q with marks := [{ reg := 3, ord := 9, addr := 0x40 }, { reg := 4, ord := 2, addr := 0x80 }] }
    let s := mk1 k .l
    s.runs 0 .l g0 [] [] = true ∧ s.quiet 0 .l = true ∧ oldestMark (s.seq 0 .l).marks = some { reg := 4, ord := 2, addr := 0x80 } := by decide
theorem wit_ScratchpadAndFence_die : ((kSp.upSeq .l id).effScope 1).1 = 0 ∧
    ({ kSp with csr := { kSp.csr with scopelimit := 4 } } : Ctx).effScope 1 = (1, false) ∧
    ({ kSp with csr := { kSp.csr with scopelimit := 4 } } : Ctx).effScope 3 = (3, false) ∧
    (let c : CStore := { ctx := 0, ag := some .l, seen := [], pa := 0x10000, bytes := [1], key := 0, va := 0x10000 }
     let p : Pin := { line := 0, ctx := 1, since := 0 }
     c.inLine p.line = false) := by decide

theorem wit_ScratchpadAndFence_fence : let s := (mk1 { kSp with csr := { kSp.csr with scopelimit := 4 } } .l).upCore 0 fun h =>
      { h with stores := [{ ctx := 0, ag := some .l, seen := [], pa := 120, bytes := [1], key := 4096, va := 120 }], pins := [{ line := 0, ctx := 0, since := 0 }] }
    s.runs 0 .l g0 [] [] = true ∧ s.quiet 0 .l = true ∧ (s.seq 0 .l).marks = [] ∧ s.reqs = [] ∧ s.holds = [] ∧ 1 ≤ ((s.ctx 0).effScope 3).1 ∧
    (∀ x ∈ (s.core 0).stores, ∀ y ∈ (s.core 0).pins, y.ctx = 0 ∨ x.inLine y.line = false) ∧ (s.core 0).stores.length = 1 := by decide
def eLds : QEntry := { ord := 0, kind := .lds, pa := 8, len := 8, reg := 31 }
def eLd : QEntry := { ord := 0, kind := .ld, pa := 8, len := 8, key := 4096, reg := 31, va := 8 }
def eSts : QEntry := { ord := 0, kind := .sts, pa := 16376, len := 8, data := 0x0102030405060708 }
def eSt : QEntry := { ord := 1, kind := .st, pa := 8, len := 8, key := 4096, va := 8, data := 0x0102030405060708 }
def queues (ld st : List QEntry) : State := mkA (kSp.upSeq .x fun q => { q with loadQ := ld, storeQ := st })
theorem wit_LoadReturns : (let s := queues [eLds] []
    0 < s.ctxs.length ∧ (s.ctx 0).alive = true ∧ (s.seq 0 .x).loadQ = [eLds] ∧ (s.seq 0 .x).storeQ = []) ∧
    (let s := queues [eLd] []
    isDevice eLd.pa = true ∧ homeDie eLd.pa = dieOf 0 ∧ s.uncorr = [] ∧ s.netBad = false ∧ s.holds = [] ∧ (s.core 0).stores = [] ∧
    s.pinnedElsewhere 0 eLd.pa = false) := by decide
theorem wit_Stores_issue : (let s := queues [] [eSts, eSt]
    0 < s.ctxs.length ∧ (s.ctx 0).alive = true ∧ (s.ctx 0).coreNo < 128 ∧ (s.seq 0 .x).storeQ.head? = some eSts ∧ (s.seq 0 .x).loadQ = []) ∧
    (let s := queues [] [eSt]
    isDevice eSt.pa = true ∧ s.pinnedElsewhere 0 eSt.pa = false) := by decide
def cSt : CStore := { ctx := 0, ag := some .x, seen := [], pa := 120, bytes := [1, 2, 3, 4, 5, 6, 7, 8], key := 4096, va := 120 }
def sHome : State := (queues [] []).upCore 0 fun h => { h with stores := [cSt] }
theorem wit_Stores_home : (sHome.core 0).stores = [cSt] ∧ (sHome.core 0).pins = [] ∧ sHome.holds = [] ∧ sHome.uncorr = [] ∧ sHome.netBad = false ∧
    isDevice cSt.pa = true ∧ sHome.keyAt cSt.key ≠ 0 := by decide
def eAmo (k : QKind) : QEntry :=
  { ord := 0, kind := k, pa := 8, len := 8, key := 4096, va := 8, reg := 1, ordered := true, scope := 1, data := 5, old := 0 }
theorem wit_Atomics : ∀ k ∈ [QKind.amo 0, .swap, .cas], let s := queues [eAmo k] [eAmo k]
    0 < s.ctxs.length ∧ (s.ctx 0).alive = true ∧ (s.seq 0 .x).loadQ = [eAmo k] ∧ (s.seq 0 .x).storeQ = [eAmo k] ∧ (eAmo k).refused = false ∧
    1 ≤ (eAmo k).scope ∧ s.keyAt (eAmo k).key ≠ 0 ∧ isDevice (eAmo k).pa = true ∧ homeDie (eAmo k).pa = dieOf (s.ctx 0).coreNo ∧ s.uncorr = [] ∧ s.netBad = false ∧ s.reqs = [] ∧ s.holds = [] := by decide
theorem wit_Atomics_cores : ∀ n < 128, ((queues [] []).core n).stores = [] ∧ ((queues [] []).core n).pins = [] := by decide
def ePin : QEntry := { eSt with refused := true, since := 0 }
def pin0 : Pin := { line := 0, ctx := 0, since := 0 }
def sPin (core : Nat) : State := { (queues [] [ePin]).upCore core fun h => { h with pins := [pin0] } with tide := 65536 }
theorem wit_PinsAndCopies : (let s := sPin 1
    (s.seq 0 .x).storeQ = [ePin] ∧ ePin.refused = true ∧ ePin.since + 64 ≤ s.tide ∧ isDevice ePin.pa = true ∧ s.holds = [] ∧
    s.pinnedElsewhere (s.ctx 0).coreNo ePin.pa = true ∧ (s.core 1).pins = [pin0] ∧ pin0.since + 65536 ≤ s.tide ∧ (s.core 1).stores = []) ∧
    ({ queues [] [ePin] with tide := 64 } : State).pinnedElsewhere 0 ePin.pa = false := by decide

/-! ## Witnesses: tokens, queues, barriers, regions -/

def kTok (n : Nat) : Ctx := (kRun.setTok 1 n).setTok 12 1
theorem wit_TokenWords : (let s := mk1 (kTok 62) .c
    s.runs 0 .c g0 [] [] = true ∧ (s.ctx 0).region = none ∧ (s.ctx 0).posts = [] ∧ 0 < (s.ctx 0).tokens 1 ∧ 0 < (s.ctx 0).tokens 12 ∧
    s.quiet 0 .c = true ∧ (s.ctx 0).tokens 1 < 63 ∧ (s.ctx 0).mayReturn = [] ∧ (s.seq 0 .c).exited = false) ∧ (kTok 0).tokens 1 = 0 ∧
    (mk1 (kTok 63) .c).runs 0 .c g0 [] [] = true ∧ (kTok 63).tokens 1 = 63 := by decide
/-- A queue named twice, three queues, and a timed region of the C stream. -/
theorem wit_TokenWords_several : let k := (((kRun.setTok 1 2).setTok 2 1).setTok 3 1)
    let need (qs : List Nat) (q : Nat) : Nat := (qs.filter (· = q)).length
    (∀ q ∈ [1, 1, 2], need [1, 1, 2] q ≤ k.tokens q) ∧ (∀ q ∈ [1, 2, 3], need [1, 2, 3] q ≤ k.tokens q) ∧
    (∀ q ∈ [1, 1, 1], k.tokens q < need [1, 1, 1] q) := by decide
theorem wit_TokenWords_region : let r : Region := { head := 8, lead := 4, held := [2], heldFq := [], posts := [(5, 0)], stamps := [], sent := false, missed := none, opened := 0, again := false }
    let s := mk1 { kTok 62 with region := some r } .c
    s.runs 0 .c g0 [] [] = true ∧ (s.ctx 0).posts = [] ∧ (s.ctx 0).region = some r ∧ s.quiet 0 .c = true := by decide
def kPush : Ctx := { setX kRun .x [(1, 64)] with yq := [7], fq := [⟨5, 0⟩, ⟨6, 70⟩], csr := { Csrs.zero with jnlhead := 71 } }
theorem wit_QueueWords : (let s := mapped (mk1 kPush .x)
    s.runs 0 .x g0 [1] [2] = true ∧ (s.ctx 0).jnlRoom = true ∧ (s.ctx 0).fq.length < 64 ∧ s.quiet 0 .x = true ∧
    getOk (s.checkVa (some 0) 0 .rd 64 64).2 = some (64, 4096) ∧ isDevice 64 = true ∧ s.uncorr = [] ∧ s.netBad = false ∧ s.holds = [] ∧ s.pinnedElsewhere 0 64 = false ∧
    (s.ctx 0).sq0 = [] ∧ (s.ctx 0).sq1 = [] ∧ (s.ctx 0).collq = [] ∧ s.runs 0 .x g0 [] [2] = true ∧ (s.ctx 0).yq = 7 :: [] ∧
    s.late = false ∧ (s.ctx 0).fq ≠ [] ∧ (s.ctx 0).eqM = [] ∧ (s.ctx 0).seqs.c.exited = false) ∧
    (let s : State := { mk1 kPush .x with late := true }
    s.runs 0 .x g0 [1] [2] = true ∧ s.late = true) ∧
    (mk1 kRun .x).runs 0 .x g0 [] [2] = true ∧ kRun.yq = [] := by decide
/-- The streams exited but C, which waits for a token. -/
def kDead : Ctx :=
  let out (k : Ctx) (st : Stream) : Ctx := k.upSeq st fun q => { q with exited := true }
  let k := out (out (out kRun .x) .l) .s
  { k.upSeq .c fun q => { q with stall := some (wordOf (.tkwait g0 1 0 0), .take) } with deadSince := some 0 }
def kOut (k : Ctx) : Ctx := [Stream.x, .l, .c, .s].foldl (fun k st => k.upSeq st fun q => { q with exited := true }) k
def rec0 : LaunchRec := { flags := 0, cohort := 0, prio := 0, est := 0, entries := [0, 8, 16, 24], levels := [{ kind := 0, rank := 0, extent := 2 }], argsize := 0 }
def launch0 : Launch :=
  { vf := 0, ring := 0, idx := 0, graph := none, ident := 0, berth := 0, image := 0x1FC00000000, lrec := rec0, argva := 0, admitted := 0,
    dieList := [0], cores0 := 16, capword := 0, low := 0, taken := [], placed := 0, retired := 0, retireTide := 0, released := false, drain := [],
    bid := 0, judged := 0, status := none, ended := false, cores := none, group := [] }
def iter0 : Iter := { launch := 0, ordinal := 0, flat := 0, trig := false, placed := 0 }
theorem wit_ContextEvents : (let s : State := { mkA kDead with tide := 4096 }
    (s.ctx 0).deadSince = some 0 ∧ (s.ctx 0).standsStill s.tide = true ∧ (s.ctx 0).pend = [] ∧ 0 + 4096 ≤ s.tide) ∧
    (let s := mkA { kOut kRun with fq := [⟨1, 0⟩] }
    (s.ctx 0).run = .running ∧ (s.ctx 0).allExited = true ∧ (s.ctx 0).fq ≠ [] ∧ (s.ctx 0).eqM = [] ∧ (s.ctx 0).flight = []) ∧
    (let s : State := { mkA { kOut kRun with iter := some iter0 } with launches := [{ launch0 with placed := 1 }] }
    (s.ctx 0).iter = some iter0 ∧ (s.ctx 0).finished = true ∧ (s.ctx 0).fq = [] ∧ (s.ctx 0).prefetchEvents = 0 ∧ s.reqs = [] ∧
    s.launch? 0 = some { launch0 with placed := 1 } ∧ rec0.cohort = 0) ∧
    (let s := mkA { kRun with jnlPending := some (.x, 0x123450002) }
    (s.ctx 0).jnlPending = some (.x, 0x123450002) ∧ (s.ctx 0).jnlLow = (s.ctx 0).csr.jnlhead.toNat) := by decide
/-- Barriers 3 to 127 of the core are those of the context. -/
def kBar : Ctx := { setX kRun .x [(1, 0x7FFFFFFF), (2, 0)] with csr := { Csrs.zero with accmap := 0x7D03000000 } }
def sBar (pend : Nat) : State := (mk1 kBar .x).upCore 0 fun h => { h with bars := h.bars.set 127 ⟨true, 4, pend, 0, false⟩ }
theorem wit_Barriers : (let s := mk1 kBar .x
    (124 : BitVec 7).toNat < (s.ctx 0).bcount ∧ (s.ctx 0).bbase + (124 : BitVec 7).toNat < 128 ∧ (s.ctx 0).coreNo < 128 ∧
    s.runs 0 .x g0 [] [] = true ∧ (vgetD (s.core 0).bars 127 Barrier.raw).init = false) ∧
    (let s := sBar 1
    s.runs 0 .x g0 [1] [5] = true ∧ (vgetD (s.core 0).bars 127 Barrier.raw) = ⟨true, 4, 1, 0, false⟩) ∧
    (vgetD ((sBar 0).core 0).bars 127 Barrier.raw).pending = 0 ∧ 2 ≤ (vgetD ((sBar 2).core 0).bars 127 Barrier.raw).pending ∧
    (((sBar 2).seq 0 .x).rx 1).toNat < 2 ^ 31 ∧ (sBar 2).runs 0 .x g0 [1] [5] = true ∧
    false = bitN (((sBar 2).seq 0 .x).rx 2) 0 ∧ false ≠ bitN (((sBar 2).seq 0 .x).rx 1) 0 := by decide
def region0 : Region := { head := 8, lead := 4, held := [], heldFq := [], posts := [], stamps := [], sent := false, missed := none, opened := 0, again := false }
def kTimed (r : Region) : Ctx := { setX kRun .c [(1, 99)] with region := some r, csr := { Csrs.zero with regmode := 2, tidebase := 10 } }
def eLate : EqEntry :=
  { ord := 1, instr := .vshape ⟨0, 0, 0, 0, 3⟩ 0x408040, pc := 0, word := wordOf (.vshape ⟨0, 0, 0, 0, 3⟩ 0x408040), mid := none, fword := none, taken := false,
    stamp := some (13, 0) }
theorem wit_Regions_open : let s := mk1 (setX kRun .c [(1, 99)]) .c
    s.runs 0 .c g0 [] [3] = true ∧ s.runs 0 .c g0 [] [] = true ∧ (s.ctx 0).timed = false ∧ s.drained 0 = true ∧ s.gated = false := by decide
theorem wit_Regions_base : (let s := mk1 (kTimed region0) .c
    s.runs 0 .c g0 [1] [] = true ∧ (s.ctx 0).region = some region0 ∧ region0.sent = false ∧ (s.ctx 0).timed = true ∧ s.drained 0 = true ∧
    region0.heldFq = [] ∧ region0.posts = [] ∧ (s.ctx 0).posts = []) ∧
    (mk1 (kTimed { region0 with sent := true }) .c).runs 0 .c g0 [1] [] = true ∧
    (mk1 (kTimed { region0 with again := true }) .c).runs 0 .c g0 [1] [] = true := by decide
theorem wit_Regions_miss : (let s := mkA { kTimed region0 with eqV := [eLate] }
    (s.ctx 0).run = .running ∧ (s.ctx 0).pend = [] ∧ (s.ctx 0).region = some region0 ∧ (s.ctx 0).missfault = false ∧
    region0.missed = none ∧ region0.heldFq = [] ∧ region0.held = [] ∧ firstOrd ((s.ctx 0).late s.tide) = some eLate ∧ eLate.left = false) ∧
    (let r : Region := { region0 with missed := some eLate.word }
    let s := mkA (kTimed r)
    (s.ctx 0).region = some r ∧ (s.ctx 0).flight = [] ∧ s.supplied 0 eLate.word = true) := by decide

/-! ## Witnesses: system words -/

def kCsr : Ctx := setX kRun .l [(1, 0x00FFFFFF), (2, 0x00408040)]
theorem wit_ControlRegisters : let s := mk1 kCsr .l
    s.runs 0 .l g0 [] [3] = true ∧ (s.ctx 0).csrOld = none ∧ s.runs 0 .l g0 [1] [] = true ∧ s.runs 0 .l g0 [2] [] = true ∧
    vshapeBad ((s.seq 0 .l).rx 1) = true ∧ vshapeBad ((s.seq 0 .l).rx 2) = false := by decide
/-- A CSRW of JNLBASE with an entry QUEUED, a full allotment of tiles, and an earlier CSRW of an earlier cycle. -/
theorem wit_ControlRegisters_all : (let k : Ctx := { kCsr with csr := { kCsr.csr with jnlhead := 1 }, journal := [{ seq := 0, queue := 1, state := jQueued, iter := 0, body := [] }] }
    let s := mk1 k .l
    (s.ctx 0).jnlLow ≠ (s.ctx 0).csr.jnlhead.toNat ∧ (s.ctx 0).jnlPending = none ∧ s.runs 0 .l g0 [2] [] = true) ∧
    bitsN ((mk1 kCsr .l).seq 0 .l |>.rx 2) 3 0 < 7 ∧ (mk1 kCsr .l |>.ctx 0).jnlLow = (mk1 kCsr .l |>.ctx 0).csr.jnlhead.toNat ∧
    7 ≤ bitsN (((mk1 (setX kCsr .l [(2, 0x17)]) .l).seq 0 .l).rx 2) 3 0 ∧
    (let k : Ctx := { kCsr with csr := { kCsr.csr with accmap := 0x200000 } }
    31 < k.acount ∧ k.abase + 31 < 32 ∧ k.coreNo < 128 ∧ kCsr.acount ≤ 0) := by decide
theorem wit_Services : let s := mk1 kCsr .l
    s.runs 0 .l g0 [10, 11, 12, 13] [10, 11] = true ∧ s.quiet 0 .l = true ∧ (s.core (s.ctx 0).coreNo).stores = [] ∧
    (s.core (s.ctx 0).coreNo).pins = [] ∧ isOk (s.checkVa (some 0) 0 .rd ((s.seq 0 .l).rx 10) 64).2 = false ∧ (s.vf 0).paging ≠ 1 ∧
    s.draining 0 = false := by decide
/-- A granting range of one page whose level-0 entry alone is lacking, and a window of two pages. -/
def tree : List Host.Cell := [(0x40000000, 1), (0x40000001, 8), (0x40000003, 0x40), (0x40000800, 1), (0x40000803, 0x41), (0x41000000, 1), (0x41000003, 0x42), (0x1EF00000000, 1), (0x1EF00000003, 0x40)]
theorem wit_Services_prefault : let r : DemandRange := { va := 0x10000, pages := 1, rd := true, w := true }
    let s : State := ({ mk1 (setX kRun .l [(10, 0x10000), (11, 0x10000)]) .l with mem := tree }).upVf 0 fun v =>
      { v with paging := 1, ranges := [r], winBase := 0x50000000, winLimit := 0x50020000 }
    let q := s.seq 0 .l
    let v := s.vf 0
    let used := s.usedRanges 0
    s.runs 0 .l g0 [10, 11, 12, 13] [10, 11] = true ∧ s.quiet 0 .l = true ∧ v.paging = 1 ∧ v.ranges = [r] ∧ q.rx 11 = 65536 ∧ (q.rx 10).toNat = 0x10000 ∧
    s.walk 0 0x10000 = .miss false 0 0x42000000 ∧
    freePages used v.winLimit (used.length + 8) (cdiv v.winBase 65536 * 65536) 1 = [0x50000000] ∧ s.uncorr = [] ∧ s.netBad = false ∧ s.keyAt 4096 ≠ 0 ∧
    isDevice 0x42000000 = true := by decide +kernel
/-- A message at address 64, with and without an uncorrectable sector under it, and a context whose core is wanted. -/
def kMsg : Ctx := setX kRun .l [(10, 64)]
theorem wit_Services_log : let s := mapped (mk1 kMsg .l)
    let t : State := { s with uncorr := [0] }
    getOk (s.checkVa (some 0) 0 .rd 64 64).2 = some (64, 4096) ∧ s.pinnedElsewhere 128 64 = false ∧ s.uncorr = [] ∧ s.netBad = false ∧ s.holds = [] ∧ isPeer 64 = false ∧ isDevice 64 = true ∧
    s.runs 0 .l g0 [10, 11, 12, 13] [10, 11] = true ∧ s.quiet 0 .l = true ∧ (t.checkVa (some 0) 0 .rd 64 64).1.uncorrAt 64 64 = true := by decide
theorem wit_Services_drain : let l : Launch := { launch0 with drain := [{ ctx := 0, core := 0, since := 0, newcomer := 1, soft := true }] }
    let s : State := { mk1 { kMsg with iter := some iter0 } .l with launches := [l] }
    s.draining 0 = true ∧ (s.ctx 0).run = .running ∧ s.runs 0 .l g0 [10, 11, 12, 13] [10, 11] = true := by decide
/-- A word in the second slot of a taken transfer, one that ends a trip of a loop body, and one of the C stream inside a timed region. -/
theorem wit_TrapsAndBindings_places : (let k := kRun.upSeq .x fun q => { q with pc := 0x100, xfer := some { slots := 1, target := 0x200, taken := true } }
    let s := mk1 k .x
    s.runs 0 .x g0 [] [] = true ∧ (s.ctx 0).pend = [] ∧ (s.seq 0 .x).exited = false ∧ (s.ctx 0).boost.rec1 = none ∧ (s.ctx 0).boost.rec2 = none ∧
    (s.seq 0 .x).advance.pc = 0x200) ∧
    (let k := kRun.upSeq .s fun q => { q with pc := 0x100, lc := q.lc.set 2 5, loops := [{ lc := 2, start := 0xF0, stop := 0x108 }] }
    let s := mk1 k .s
    s.runs 0 .s g0 [] [] = true ∧ (s.seq 0 .s).xfer = none ∧ (s.seq 0 .s).lc[(2 : BitVec 2).toNat] ≠ 1 ∧ (s.seq 0 .s).advance.pc = 0xF0) ∧
    (let s := mk1 { kTimed region0 with dbg := true } .c
    s.runs 0 .c g0 [] [] = true ∧ (s.ctx 0).region = some region0 ∧ (s.ctx 0).dbg = true ∧ s.isShared (s.seq 0 .c).pc.toNat = false) := by decide
theorem wit_TrapsAndBindings : (let s := mk1 kCsr .l
    s.runs 0 .l g0 [] [] = true ∧ (s.ctx 0).pend = [] ∧ (s.seq 0 .l).xfer = none ∧ (s.seq 0 .l).loops = [] ∧ (s.seq 0 .l).exited = false ∧
    s.isShared (s.seq 0 .l).pc.toNat = false ∧ (s.ctx 0).dbg = false ∧ s.runs 0 .l g0 [3, 4] [5] = true ∧ ((s.seq 0 .l).rx 3).toNat < s.ctxs.length ∧
    s.ctxs.length ≤ ((s.seq 0 .l).rx 1).toNat ∧ (s.ctx 0).run ≠ .gone) ∧
    ({ mk1 { kCsr with dbg := true } .l with sharedCode := [(0, 64)] } : State).isShared 0 = true ∧
    bindingRefused kCsr 0 = false ∧ bindingRefused kCsr 0x8000000000000000 = true := by decide

/-! ## Witnesses: engine words -/

def y0 : Sync := ⟨0, 0, 0, 0, 0⟩
/-- One row of two elements, four blocks of scratchpad and every tile; windows of FP32, exact images, BF16 (two elements, and 32). -/
def kEng : Ctx :=
  { setX kRun .c [(1, 2)] with
    csr := { Csrs.zero with vshape := 0x800802, splimit := 4, accmap := 0x200000 },
    v := [(4096, 3), (4100, 5), (8192, 7)],
    win := ((((Vector.replicate 64 Win.undef).set 1 ⟨true, 0, 0x20001⟩).set 2 ⟨true, 0x0400B000, 0x20001⟩).set 3 ⟨true, 0x1000, 0x20001⟩).set 4
      ⟨true, 0x1000, 0x200001⟩ }
def jq (seq : Nat) : JEntry := { seq := seq, queue := 1, state := jQueued, iter := 0, body := [] }
/-- FQ holds one format word, QUEUED. -/
def withFq (k : Ctx) (w : Word) : Ctx := { k with fq := [⟨w, 0⟩], journal := [jq 0] }
def eqOf (i : Instr) : EqEntry := { ord := 1, instr := i, pc := 0, word := wordOf i, mid := none, fword := none, taken := false }
def iMov : Instr := .vmov y0 ⟨3, 1, 2, 10, 0, false, 0⟩
def iMma : Instr := .mma y0 3 3 0 0
def opIs (i : Instr) (p : EngOp → Bool) : Bool := (engineOp i).any p

theorem wit_EngineWords_queue : (let s := mk1 { kEng with eqV := [eqOf iMov] } .c
    s.turnOf 0 .c = true ∧ s.quiet 0 .c = true ∧ (s.seq 0 .c).marks = [] ∧ (s.ctx 0).region = none ∧
    opIs iMov (fun op => ((s.ctx 0).eq op.unit).length = 1) = true) ∧
    opIs iMov (fun op => (({ kEng with eqV := List.replicate 16 (eqOf iMov) } : Ctx).eq op.unit).length = 16) = true ∧
    opIs (.vmov ⟨1, 0, 0, 0, 0⟩ ⟨3, 1, 2, 10, 0, false, 0⟩)
      (fun op => kEng.eq op.unit = [] && !kEng.canTake (syncWaits op.y)) = true := by decide
theorem wit_EngineWords_issue : (let s := mk1 kEng .c
    opIs iMov (fun op => s.idle 0 op.y && !op.pops && op.ready s 0 false &&
      isOk (op.start s 0 (Inflight.base (eqOf iMov) op.unit op.y.pq.toNat s.tide none))) = true ∧
    opIs iMma (fun op => s.idle 0 op.y && op.pops && op.ready s 0 false) = true ∧ (s.ctx 0).fq = []) ∧
    (let s := mkA { kEng with eqV := [eqOf iMov] }
    s.ctxs.length = 1 ∧ (s.ctx 0).core.isSome = true ∧
    opIs iMov (fun op => (s.ctx 0).eq op.unit = [eqOf iMov] &&
      ((s.upCtx 0 fun k => k.setEq op.unit []).issueWord 0 op (eqOf iMov)).isSome) = true) := by decide
/-- Word 0 of the scratchpad, which a VLD of window 1 reads, cannot be corrected. -/
def iVld : Instr := .vld y0 0 false 1 0 0 false 0
theorem wit_EngineWords_error : let s := mk1 kEng .c
    let u := s.upCore 0 fun h => { h with spadErr := [0] }
    opIs iVld (fun op => s.idle 0 op.y && !op.pops && op.ready u 0 false &&
      isOk (op.start u 0 (Inflight.base (eqOf iVld) op.unit op.y.pq.toNat s.tide none)) &&
      u.readBad kEng (op.reads kEng (Inflight.base (eqOf iVld) op.unit op.y.pq.toNat s.tide none)) =
        some { code := 0x1C, addr := 0x8000000000000000 }) = true := by decide
theorem wit_Vectors_idle : (mk1 kEng .c).idle 0 y0 = true := by decide
theorem wit_VectorIntegers : isVecFmt 10 = true ∧ esizeOf 10 = kEng.esize ∧ isVecFmt 0 = true ∧ esizeOf 0 = kEng.esize := by decide
theorem wit_VectorFloats : let x := readFtz false 0 0x3F800000
    x.isNan = false ∧ (readFtz false 0 0x7FC00000).isNan = true ∧ x = .fin 8388608 (-23) := by decide
theorem wit_VectorLines : 0 < kEng.cols ∧ 0 < kEng.rows ∧ (0 : BitVec 5).toNat / 8 = 0 ∧ (0 : BitVec 5).getLsbD 2 = false ∧
    (4 : BitVec 5).getLsbD 2 = true ∧ ((kEng.seq .c).rx 1).toNat = kEng.velems := by decide
def pIn : Port := { Port.off with dir := 1, fmt := 0, fifo := List.replicate 4 ⟨0, none⟩ }
def kPorts : Ctx := { kEng with sp := (kEng.sp.set 1 pIn).set 2 { Port.off with dir := 2, agd := 1 } }
theorem wit_VectorMemory : let s := mk1 kPorts .c
    let k := s.ctx 0
    let w := k.winN 1
    s.idle 0 y0 = true ∧ (w.valid = true ∧ w.layout = 0 ∧ bitsN ((k.seq .c).rx 0) 31 0 + k.rows ≤ w.rows ∧
      bitsN ((k.seq .c).rx 0) 63 32 + k.cols ≤ w.kext) ∧ (∀ j < k.velems, ∀ o ∈ w.touch (j / 2) 1 (j % 2) 1, (k.spPhys o 1).isSome = true) ∧
    w.fmt = 0 ∧ w.swz = 0 ∧ (k.spPhys w.data w.dataSize).isSome = true ∧ (k.port 1).dir = 1 ∧
    (pairing 0 (k.port 1).fmt (k.port 1).layout).isSome = true ∧ 0 < (k.port 1).avail ∧ (k.port 2).dir = 2 ∧ (k.port 2).fmt = 0 := by decide
theorem wit_AccumulatorWords : (let s := mk1 kEng .c
    let k := s.ctx 0
    let x := s.tile k 31
    s.idle 0 y0 = true ∧ k.tileNo 31 = some 31 ∧ x.wmHold = false ∧ isOk (k.winsE [2]) = true ∧ (k.winN 2).layout = 0 ∧ (k.winN 2).swz = 0 ∧
    (127 : BitVec 7).toNat + (k.winN 2).rows ≤ 128 ∧ (k.winN 2).kext ≤ 128 ∧ x.badElem 127 1 2 = none ∧ (k.winN 2).fmt = 11 ∧
    isOk (k.winsE [1]) = true ∧ (k.winN 1).fmt = 0 ∧ x.anchorInt + (63 : BitVec 6).toNat ≤ 2047 ∧ (3 : BitVec 10).toNat < k.endBlk - k.baseBlk) ∧
    swf Elem.zero Tile.zero.elems = true := by decide
theorem wit_AccumulatorWords_all : Tile.zero.badElem 0 128 128 = none := by decide
theorem wit_AccumulatorWords_word : let k := withFq kEng 0x0000000000018000
    let fw := fwOf 0x0000000000018000
    k.fq = [⟨0x0000000000018000, 0⟩] ∧ k.jnlState 0 = jQueued ∧ fw.low = 0 ∧ narrowFmt fw.dfmt = true ∧ (k.winN 3).fmt = fw.dfmt ∧
    fw.unit = true ∧ fw.accum = false ∧
    ((k.winN 3).putRows fw.dfmt true 0 fw.dpol false (Tile.zero.rowValues 0 (k.winN 3).rows (k.winN 3).kext)).isSome = true := by decide
/-- ACC.RD of 2^60 into a window of E4M3 elements under DPOL 0b11, which refuses it, and into a SCALED window; ACC.LD of BF16 with ACCUM. -/
theorem wit_AccumulatorWords_rd : let x : Tile := { Tile.zero with elems := [(0, Elem.zero.addZ (2 ^ 60))] }
    let a : Win := ⟨true, 0x3000, 0x200001⟩
    let b : Win := ⟨true, 0x20000005400, 0x200001⟩
    let fa := fwOf 0x3E000
    let fb := fwOf 0x50000
    a.ok = true ∧ fa.low = 0 ∧ narrowFmt fa.dfmt = true ∧ destOk a fa.dfmt fa.unit = true ∧ a.layout = 0 ∧ x.badElem 0 1 32 = none ∧
    (a.putRows fa.dfmt fa.unit 0 fa.dpol false (x.rowValues 0 1 32)).isSome = false ∧
    b.ok = true ∧ fb.low = 0 ∧ narrowFmt fb.dfmt = true ∧ destOk b fb.dfmt fb.unit = true ∧ b.layout = 1 ∧ b.kext % 32 = 0 ∧
    (b.putRows fb.dfmt fb.unit 0 fb.dpol false (x.rowValues 0 1 32)).isSome = true := by decide +kernel
def fwLd : Word := 0x1000008000000000
theorem wit_AccumulatorWords_ld : let k := withFq kEng fwLd
    let fw := fwOf fwLd
    let w := k.winN 3
    k.fq = [⟨fwLd, 0⟩] ∧ k.jnlState 0 = jQueued ∧ fw.low = 0 ∧ isOk (k.winsE [3]) = true ∧ w.rows ≤ 128 ∧ w.kext ≤ 128 ∧
    sideOk fw.afmt fw.atag w.layout w.fmt w.fam = true ∧ fw.accum = true ∧ fw.anchor = Tile.zero.anchor ∧
    w.badTag ((mk1 k .c).spByte k) w.rows 0 w.kext = none := by decide
theorem wit_TileFills : (mk1 kEng .c).idle 0 y0 = true ∧ ((kEng.spPhys ((3 : BitVec 10).toNat * 16384) 16384).isSome) = true ∧
    fmtWidth 0 = 32 ∧ fmtWidth 1 = 16 ∧ fmtWidth 7 = 8 := by decide
def fwMma : Word := 0x1040000000210000
def fwRow : Word := 0x1040000002010000
theorem wit_Products_mma : let s := mk1 (withFq kEng fwMma) .c
    let k := s.ctx 0
    let fw := fwOf fwMma
    let a := k.winN 3
    s.idle 0 y0 = true ∧ k.tileNo 0 = some 0 ∧ k.fq = [⟨fwMma, 0⟩] ∧ k.jnlState 0 = jQueued ∧ fw.low = 0 ∧ fw.accum = false ∧
    isOk (k.winsE [3, 3]) = true ∧ sideOk fw.afmt fw.atag a.layout a.fmt a.fam = true ∧ sideOk fw.bfmt fw.btag a.layout a.fmt a.fam = true ∧
    klenOk fw.klen a.layout = true ∧ a.rows ≤ 128 ∧ 0 + fw.klen ≤ a.kext ∧ a.badTag (s.spByte k) a.rows 0 fw.klen = none := by decide
theorem wit_Products_convert : let s := mk1 (withFq kEng fwRow) .c
    let k := s.ctx 0
    let fw := fwOf fwRow
    let b := k.winN 4
    k.tileNo 1 = some 1 ∧ (s.tile k 1).wmHold = false ∧ isOk (k.winsE [4]) = true ∧ narrowFmt fw.dfmt = true ∧ fw.afmt = fw.dfmt ∧ fw.atag = 0 ∧
    sideOk fw.bfmt fw.btag b.layout b.fmt b.fam = true ∧ klenOk fw.klen b.layout = true ∧ b.rows ≤ 128 ∧ fw.klen ≤ b.kext ∧ fw.klen ≤ 128 ∧
    fw.klen % 32 = 0 ∧ b.badTag (s.spByte k) b.rows 0 fw.klen = none ∧ (s.tile k 1).badElem 0 1 fw.klen = none ∧
    (convertRows (s.tile k 1) 1 fw.klen fw.dfmt fw.unit fw.dpol).isSome = true := by decide
theorem wit_Products_stream : let k := withFq { kEng with sp := kEng.sp.set 1 { Port.off with dir := 1, fmt := 1 } } fwRow
    let s := mk1 k .c
    let fw := fwOf fwRow
    let a := k.winN 4
    let p := k.port 1
    s.idle 0 y0 = true ∧ isOk (k.winsE [4]) = true ∧ p.dir = 1 ∧ sideOk fw.afmt fw.atag a.layout a.fmt a.fam = true ∧
    sideOk fw.bfmt fw.btag p.layout p.fmt p.fam = true ∧ klenOk fw.klen a.layout = true ∧ klenOk fw.klen p.layout = true ∧ a.rows ≤ 128 ∧
    fw.klen % 32 = 0 ∧ fw.klen ≤ a.kext ∧ a.badTag (s.spByte k) a.rows 0 fw.klen = none := by decide
theorem wit_ResidueExact : 2 * (5 : Int).natAbs < modAll ∧ 2 * ((5 : Int) + -7).natAbs < modAll ∧ countMax - 1 + 1 ≤ countMax := by decide
theorem wit_EngineFrame : let s := mk1 kEng .c
    opIs iMov (fun op => !op.pops) = true ∧ s.turn = .issue 0 .c [] ∧ 0 < s.ctxs.length ∧ goes (exec iMov s) = true ∧
    goes (exec iMma (mk1 (withFq kEng fwMma) .c)) = true := by decide
/-- The journal ring's page is served by a leaf, and by none. -/
theorem wit_EngineFrame_pop : let s := mk1 (withFq kEng fwMma) .c
    let va := ((s.ctx 0).jnlVa 0 + 9).toNat
    opIs iMma (·.pops) = true ∧ (s.ctx 0).fq = [⟨fwMma, 0⟩] ∧ (s.ctx 0).jnlOut = [] ∧ s.keyAt 4096 ≠ 0 ∧
    (match s.walk 0 va with | .miss _ _ _ => true | _ => false) = true ∧ (match (mapped s).walk 0 va with | .leaf _ _ _ => true | _ => false) = true := by
  decide

/-! ## Witnesses: agents, routines, index commands and collectives -/

/-- A program of two chunks of 64 scratchpad bytes, 128 apart. -/
def agp0 : AgProg := { base := 64, chunk := 64, space := 1, count := [2, 1, 1, 1], stride := [128, 0, 0, 0] }
def agOn : Ag := { Ag.idle with prog := agp0, programmed := true }
/-- One block of scratchpad, generators 1 and 2 programmed, and a program of 4,096-byte chunks at address 64 of memory. -/
def kAg : Ctx :=
  { setX kRun .l [(1, 64), (2, 0x0000000200007080), (3, 0x0000000001000018), (4, 0x100)] with
    csr := { Csrs.zero with splimit := 1 }, ag := (kRun.ag.set 1 agOn).set 2 agOn }
def agPages : List Host.Cell := [(73, 16), (80, 1), (84, 1), (88, 1), (92, 1)] ++ pages
theorem wit_Agents_words : (let s := mk1 kAg .l
    s.runs 0 .l g0 [0, 0] [] = true ∧ (s.seq 0 .l).rx 0 = 0 ∧ s.runs 0 .l g0 [2, 3] [] = true ∧
    ({ valid := true, w0 := (s.seq 0 .l).rx 2, w1 := (s.seq 0 .l).rx 3 } : Win).ok = true ∧
    ({ valid := true, w0 := (s.seq 0 .l).rx 1, w1 := (s.seq 0 .l).rx 3 } : Win).ok = false ∧ (s.seq 0 .l).rx 1 ≠ 0) ∧
    (let s : State := { mk1 kAg .l with mem := agPages }
    s.runs 0 .l g0 [1] [] = true ∧ (s.ctx 0).agTaken 7 none = false ∧ getOk (s.checkVa (some 0) 0 .rd 64 64).2 = some (64, 4096) ∧ s.quiet 0 .l = true ∧
    isDevice 64 = true ∧ homeDie 64 = dieOf 0 ∧ s.pinnedElsewhere 0 64 = false ∧ s.uncorr = [] ∧ s.netBad = false ∧ s.holds = [] ∧ (s.core 0).stores = [] ∧
    agOk (s.homeBytes 4096 64 64) = true ∧ (agParse (s.homeBytes 4096 64 64)).chunk = 4096) := by decide
theorem wit_Agents_bind : (let s := mk1 kAg .l
    s.runs 0 .l g0 [] [] = true ∧ (s.ctx 0).portBusy 3 = false ∧ (s.ctx 0).agTaken 1 (some 3) = false ∧ ((s.ctx 0).agN 1).programmed = true ∧
    (s.ctx 0).agTaken 2 (some 3) = false ∧ ((s.ctx 0).agN 2).programmed = true ∧ layoutOk 0 0 false = true ∧ layoutOk 6 1 false = true) ∧
    (((mk1 { kAg with sp := kAg.sp.set 0 { Port.off with dir := 2, agd := 1 } } .l).ctx 0).agTaken 1 (some 3)) = true := by decide
def outV : Inflight := Inflight.base (eqOf iMov) .vector 0 0 none
def kIn : Ctx := { kAg with sp := kAg.sp.set 3 { Port.off with dir := 1, agd := 1 } }
def kOutP : Ctx :=
  { kAg with sp := kAg.sp.set 3 { Port.off with dir := 2, agd := 2, chunkOff := 60, outQ := List.replicate 8 ⟨7, 1⟩ }, flight := [outV] }
theorem wit_Agents_ports : (let s := mkA kIn
    let k := s.ctx 0
    let q := k.port 3
    let g := k.agN q.agd
    k.run = .running ∧ k.coreNo < 128 ∧ (s.core k.coreNo).spadErr = [] ∧ g.prog.space = 1 ∧ q.dir = 1 ∧ q.ags = none ∧ q.chunkOff = 0 ∧ g.pos < g.prog.total ∧
    q.fifo.length + g.prog.chunk ≤ 16384 ∧ ∀ i < 64, (k.spPhys ((g.prog.addr g.pos + BitVec.ofNat 64 i).toNat) 1).isSome = true) ∧
    (let k := (mkA kOutP).ctx 0
    let q := k.port 3
    let g := k.agN q.agd
    q.dir = 2 ∧ q.outQ ≠ [] ∧ (∀ b ∈ q.outQ, b.owner = outV.ord) ∧ outV.ord = 1 ∧ q.chunkOff < g.prog.chunk ∧
    min q.outQ.length (min 128 (g.prog.chunk - q.chunkOff)) = 4 ∧
    ∀ i < 4, (k.spPhys ((g.prog.addr g.pos + BitVec.ofNat 64 (60 + i)).toNat) 1).isSome = true) := by decide
theorem wit_Agents_flight : ((mkA kOutP).ctx 0).flightOf 1 = some outV := rfl

/-- x5 and x6 are scratchpad offsets 8192 and 0, x7 the count 300, x8 an address of memory. -/
def kCp : Ctx := { setX kAg .l [(5, 8192), (6, 0), (7, 300), (8, 8)] with win := kRun.win.set 1 ⟨true, 0x1000, 0x20001⟩ }
def copy0 : Copy :=
  { ord := 1, st := .l, word := 0, dst := 8192, src := 0, count := 300, dir := 2, nd := none, lead := 2, done := [], nz := [], bar := some 0,
    post := 9, landed := false, fault := none }
theorem wit_Copies_issue : let s := mk1 kCp .l
    let k := s.ctx 0
    let q := s.seq 0 .l
    s.turnOf 0 .l = true ∧ s.quiet 0 .l = true ∧ q.marks = [] ∧ k.canTake (syncWaits y0) = true ∧ s.copyRoom 0 = true ∧ k.posts = [] ∧
    (q.rx 7).toNat ≤ 2 ^ 24 ∧ (q.rx 7).toNat ≠ 0 ∧ (q.rx 5).toNat < 2 ^ 24 ∧ (k.spPhys (q.rx 5).toNat 300).isSome = true ∧
    (k.spPhys (q.rx 6).toNat 300).isSome = true ∧ bitsN (q.rx 8) 63 56 = 0 ∧ bitsN (q.rx 8 + BitVec.ofNat 64 299) 63 56 = 0 ∧
    (k.agN 1).programmed = true ∧ k.agTaken 1 none = false ∧ (k.agN 1).prog.bytes = (k.agN 2).prog.bytes ∧ (k.winN 1).valid = true ∧
    (k.winN 1).fmt ≠ 11 ∧ (k.winN 1).dataSize ≤ 2 ^ 40 := by decide
theorem wit_Copies_window :
    (({ kCp with ag := kCp.ag.set 1 { agOn with prog := { agp0 with chunk := 1, count := [4, 1, 1, 1] } } } : Ctx).agN 1).prog.bytes =
      (kCp.winN 1).dataSize := by decide
theorem wit_Copies_run : (let k := { kCp with copies := [copy0] }
    k.copies[0]? = some copy0 ∧ copy0.fault = none ∧ copy0.lead = 2 ∧ copy0.done = [] ∧ (mkA k).reqs = [] ∧ 128 * 2 < copy0.count ∧
    (k.spPhys (copy0.src.toNat + 128 * 2) (min 128 (300 - 128 * 2))).isSome = true ∧
    (k.spPhys (copy0.dst.toNat + 128 * 2) (min 128 (300 - 128 * 2))).isSome = true) ∧
    (let x := { copy0 with lead := 3 }
    let k := { kCp with copies := [x], csr := { kCp.csr with accmap := 0x100000000 } }
    let s := (mkA k).upCore 0 fun h => { h with bars := h.bars.set 0 ⟨true, 1, 1, 300, false⟩ }
    x.count ≤ 128 * x.lead ∧ k.canPost x.post = true ∧ k.posts = [] ∧ getOk (s.barrier k 0 true) = some (0, ⟨true, 1, 1, 300, false⟩) ∧
    (⟨true, 1, 1, 300, false⟩ : Barrier).addTx (-300) = some ⟨true, 1, 1, 0, false⟩ ∧ x.landed = false ∧ (s.core 0).spadErr = [] ∧
    ((k.setTok 9 63).canPost x.post) = false) := by decide

/-- An image of two micro-words: eight NOPs would be as good. -/
def img0 : Image := { digest := [1], words := [0, 0x30000000000000000000000000000000], copy := 0 }
def kUop : Ctx :=
  { setX kRun .c [(1, 5)] with
    image := some img0, binding := kRun.binding.set 4 0x8000000000000000 }
def iUop : Instr := .uop 0xC4 0 0 0 0 0
def stepOk (r : MStep State) : Bool := match r with
  | .ok _ => true
  | _ => false
def bank0 : Bank := { digest := [1], words := img0.words, need := 2, valid := true, bad := false, ctx := 0 }
def withBank (b : Bank) (s : State) : State := s.upCore 0 fun h => { h with bank0 := b }
def midRun (m : Micro) : Ctx := kUop.upSeq .c fun q => { q with micro := { m with active := true, word := wordOf iUop, binding := 0x0000080000000000, due := 3 } }
theorem wit_RoutineWords_start : let s := mk1 kUop .c
    s.runs 0 .c ⟨0, false, 0⟩ [] [] = true ∧ (s.seq 0 .c).xfer = none ∧ (s.ctx 0).posts = [] ∧ (s.seq 0 .c).micro.active = false ∧
    (s.ctx 0).canTake (codes [0, 0, 0]) = true := by decide
theorem wit_RoutineWords_step : let s := withBank bank0 (mk1 (midRun { steps := 1 }) .c)
    let q := s.seq 0 .c
    s.runs 0 .c ⟨0, false, 0⟩ [] [] = true ∧ q.micro.active = true ∧ q.micro.fin = false ∧ q.micro.due ≤ s.tide ∧ q.micro.steps ≠ 0 ∧
    s.bankOf (s.ctx 0) = some bank0 ∧ bank0.valid = true ∧ bank0.bad = false ∧
    stepOk (s.microStep 0 .c 0) = true := by decide
theorem wit_RoutineWords_end : let s := withBank bank0 (mk1 (midRun { steps := 2, fin := true }) .c)
    let q := s.seq 0 .c
    s.runs 0 .c ⟨0, false, 0⟩ [] [] = true ∧ q.micro.fin = true ∧ q.micro.due ≤ s.tide ∧ (s.ctx 0).routineBusy .c q.pc = false ∧
    (s.ctx 0).canPost 0 = true ∧ q.micro.mword = none := by decide
theorem wit_RoutineWords_load : (let s := mkA kUop
    s.uncorr = [] ∧ s.netBad = false ∧ (s.ctx 0).image = some img0 ∧ img0.words ≠ [] ∧ (s.core 0).bank0.need = 0 ∧ (s.core 0).bank1.need = 0 ∧ (s.ctx 0).run ≠ .gone) ∧
    (let b := { bank0 with words := [0], valid := false }
    b.digest = img0.digest ∧ b.words ≠ [] ∧ b.words.length < b.need ∧ b.due ≤ (mkA kUop).tide) ∧
    (let b := { bank0 with valid := false }
    b.need ≠ 0 ∧ b.bad = false ∧ b.need ≤ b.words.length ∧ b.due ≤ (mkA kUop).tide) := by decide

/-- A block of one index: KIND, FLAGS, window 1, ROWBYTES 4, PITCH and NROWS 1. -/
def blk (kind flags pitch : Nat) : List Byte :=
  zeros 16 ++ [BitVec.ofNat 8 kind, BitVec.ofNat 8 flags, 0, 1, 1, 0, 0, 0] ++ zeros 16 ++ [1, 0, 0, 0, 4, 0, 0, 0] ++
    natBytes pitch 8 ++ [0xFF, 0xFF, 0xFF, 0xFF] ++ zeros 4
def blkM : List Byte := zeros 16 ++ [5, 0, 0, 0, 1, 0, 0, 0] ++ zeros 40
/-- Window 1: one FP32 element. -/
def kIe : Ctx := { kRun with csr := { Csrs.zero with splimit := 1 }, win := kRun.win.set 1 ⟨true, 0, 0x10001⟩ }
def jq2 (q : Nat) : JEntry := { seq := 0, queue := q, state := jQueued, iter := 0, body := [] }
theorem wit_IndexCommands_start :
    (∀ p ∈ [(1, 4), (2, 0), (3, 4), (4, 4)], let s := mkA { kIe with sq0 := [⟨0, blk p.1 0 p.2⟩], journal := [jq2 2] }
      (s.ctx 0).run = .running ∧ (s.ctx 0).jnlState 0 = jQueued ∧ s.unitIdle 0 .ie = true ∧ (s.ctx 0).sq0 = [⟨0, blk p.1 0 p.2⟩] ∧
      ieKind (blk p.1 0 p.2) = p.1 ∧ s.ieCheck (s.ctx 0) (blk p.1 0 p.2) = 0) ∧
    (let s := mkA { kIe with sq1 := [⟨0, blkM⟩], journal := [jq2 3] }
    s.unitIdle 0 .mu = true ∧ (s.ctx 0).sq1 = [⟨0, blkM⟩] ∧ (s.ctx 0).jnlState 0 = jQueued ∧
      ieKind (blk 0 0 4) = 0 ∧ ieKind (blk 5 0 4) = 5 ∧ s.muCheck (s.ctx 0) blkM = 0 ∧ s.muCheck (s.ctx 0) (blk 5 2 0) = ieField) := by decide
def tryOk {α : Type} (r : Try α) : Option α := match r with
  | .ok a => some a
  | _ => none
def ieRun (b : List Byte) : IeRun :=
  { seq := 0, blk := b, scope := 0, win := kIe.winN 1, next := 0, idx := [1], halt := none, bits := 0, served := 0, applied := 0, elem := 0, status := 0,
    fin := false, nobar := false, ended := false, refused := none }
theorem wit_IndexCommands_fill : ∀ fl ∈ [0, 1], let r := ieRun (blk 1 fl 4)
    let s := mkA { kIe with ie := some r }
    (s.ctx 0).ie = some r ∧ r.idx = [1] ∧ ieCount r.blk = 1 ∧ ieNrows r.blk ≤ 1 ∧ ieVmask r.blk = 0xFFFFFFFF ∧ ieFlag r.blk 1 = false ∧
    ieGather r.blk = true ∧ ieGather (blk 3 fl 4) = false ∧ r.last = false ∧ ieFlag r.blk 0 = (fl = 1) := by decide
/-- Index 0 lies in the table, which stands at address 0. -/
theorem wit_IndexCommands_read : let r := { ieRun (blk 1 0 4) with idx := [0] }
    let s : State := { mapped (mkA { kIe with ie := some r }) with mem := (0, 7) :: pages }
    let x := s.ieRead 0 r.refused (ieTable r.blk + BitVec.ofNat 64 (0 * iePitch r.blk)) (ieRowbytes r.blk)
    tryOk x.2 = some [7, 0, 0, 0] ∧ x.1.ctx 0 = s.ctx 0 ∧ x.1.ctxs.length = s.ctxs.length ∧ 0 < ieNrows r.blk ∧ r.places 0 = [0, 1, 2, 3] := by
  decide +kernel
/-- A scatter of row 0 and a SCATTER.ADD at DIE of element 0, whose page the core's translation cache holds. -/
def blkAdd : List Byte := (blk 4 0 4).set 60 1
def warm (s : State) (need : Need) : State := (s.translate (some 0) 0 0 need).1
theorem wit_IndexCommands_scatter : (let r := { ieRun (blk 3 0 4) with idx := [0] }
    let s := warm (mapped (mkA { kIe with ie := some r })) .wr
    let x := s.pageAll 0 4 r.refused .wr (pinWait 0) (memRuns (ieTable r.blk + BitVec.ofNat 64 (0 * iePitch r.blk)) (ieRowbytes r.blk))
    (tryOk x.2).map (·.map fun q => (q.2.1, q.1.len, isDevice q.2.1)) = some [(0, 4, true)] ∧ x.1.ctx 0 = s.ctx 0 ∧ x.1.ctxs.length = s.ctxs.length ∧
    x.1.core 0 = s.core 0 ∧ x.1.uncorr = [] ∧ x.1.netBad = false ∧ (s.core 0).spadErr = [] ∧ ieKind r.blk = 3 ∧ 0 < ieNrows r.blk) ∧
    (let r := { ieRun blkAdd with idx := [0], scope := 1 }
    let s := warm (mapped (mkA { kIe with ie := some r, csr := { kIe.csr with scopelimit := 4 } })) .both
    let size := fmtWidth (ieEfmt r.blk) / 8
    let x := s.pageAll 0 4 r.refused .both (addWait 0 1) (memRuns (ieTable r.blk + BitVec.ofNat 64 (0 * ieRowbytes r.blk)) size)
    (tryOk x.2).map (·.map fun q => (q.1.mem, q.1.len, q.2.1, q.2.2)) = some [(true, 4, 0, 4096)] ∧ x.1 = s ∧
    size = 4 ∧ ieRowbytes r.blk = size ∧ ieKind r.blk = 4 ∧ isDevice 4 = true ∧ homeDie 0 = dieOf 0 ∧ s.keyAt 4096 ≠ 0 ∧ r.elem = 0 ∧ s.holds = []) := by
  decide +kernel
theorem wit_IndexCommands_merge : (([(1, 5), (4, 6)] : List (Nat × Nat)).map (·.1)).Pairwise (· < ·) ∧
    (([(1, 0xFFFFFFFF)] : List (Nat × Nat)).map (·.1)).Pairwise (· < ·) := by decide
theorem wit_IndexCommands_end : (let r := { ieRun (blk 1 0 4) with fin := true }
    r.fin = true ∧ r.ended = false ∧ r.status = 0 ∧ ieFlag r.blk 2 = false ∧ ieFlag r.blk 3 = false ∧ (mkA kIe).reqs = [] ∧ ((mkA kIe).core 0).stores = []) ∧
    kIe.core.isSome = true ∧ kIe.yqOpen = true ∧ kIe.seqs.x.exited = false := by decide
/-- An end with an arrival at barrier 0, and one without a reply. -/
theorem wit_IndexCommands_arrive : let r := { ieRun (blk 1 8 4) with fin := true }
    let k := { kIe with ie := some r, journal := [{ jq2 2 with state := jStarted }], csr := { kIe.csr with accmap := 0x100000000 } }
    let s := (mkA k).upCore 0 fun h => { h with bars := h.bars.set 0 ⟨true, 2, 2, 0, false⟩ }
    k.jnlState r.seq = jStarted ∧ ieFlag r.blk 3 = true ∧ ieFlag r.blk 2 = false ∧ r.nobar = false ∧
    getOk (s.barrier k (ieBarNo r.blk) true) = some (0, ⟨true, 2, 2, 0, false⟩) ∧
    (⟨true, 2, 2, 0, false⟩ : Barrier).arrive = some ⟨true, 2, 1, 0, false⟩ := by decide

def comm0 : Comm := { vf := 0, num := 3, rank := 0, ranks := [{ fabric := 1, die := 0, vf := 0 }, { fabric := 1, die := 2, vf := 0 }] }
def cstep (kind peer peer2 : Nat) : CollStep := { kind := kind, chain := false, peer := peer, tag := 9, peer2 := peer2, off := 0, len := 8 }
def entry0 : CollEntry := { seq := 0, prog := 64, arg := 16, comm := 3, reply := false }
def collRun (x : CollStep) : CollRun :=
  { seq := 0, entry := entry0, die := 0, rank := 0, steps := [x], done := [], out := [], status := 0, fin := false, ended := false, refused := none }
def msg0 : CollMsg := { vf := 0, comm := 3, dst := 0, src := 1, tag := 9, data := [1, 2, 3, 4, 5, 6, 7, 8] }
/-- The running entry is at step `x`, and one message waits. -/
def sColl (x : CollStep) : State :=
  { mapped (mkA { kRun with coll := some (collRun x) }) with comms := [comm0], recvStore := [msg0], mem := (16, 7) :: pages }
theorem wit_Collectives_start : (let s := mk1 (setX kRun .s [(1, 64), (2, 16)]) .s
    s.runs 0 .s g0 [1, 2] [3] = true ∧ s.quiet 0 .s = true ∧ (s.ctx 0).collq.length < 16 ∧ (s.ctx 0).jnlRoom = true ∧ (3 : BitVec 5) ≠ 0) ∧
    (let s := mkA { kRun with collq := [entry0], journal := [jq2 4] }
    (s.ctx 0).run = .running ∧ (s.vf 0).suspended = false ∧ (s.ctx 0).coll = none ∧ (s.ctx 0).collq = [entry0] ∧ (s.ctx 0).jnlState 0 = jQueued ∧
    s.comm? 0 3 = none) ∧ (mk1 kRun .s).ownHome 0 .s (kRun.effScope 3).1 = true := by decide
/-- A program of one SEND to rank 1, and an empty one, which fails with FIELD. -/
theorem wit_Collectives_program :
    let s (m : List Host.Cell) : State := { mkA { kRun with collq := [entry0], journal := [jq2 4] } with comms := [comm0], mem := m ++ pages }
    let r : CollRun := { seq := 0, entry := entry0, die := 0, rank := 0, steps := [], done := [], out := [], status := 0, fin := false, ended := false, refused := none }
    let q (m : List Host.Cell) := ((s m).collPop 0 16).1.upCtx 0 fun k => { k with coll := some r }
    let p (m : List Host.Cell) := (q m).collProgram 0 0 none entry0 2
    (s []).comm? 0 3 = some comm0 ∧ (p []).1.ctx 0 = (q []).ctx 0 ∧
    (tryOk (p []).2).bind (fun r => match r with | .error n => some n | .ok _ => none) = some 1 ∧
    (tryOk (p [(64, 1), (66, 1), (96, 1), (98, 1), (100, 9), (112, 8)]).2).bind getOk = some [cstep 1 1 0] := by decide +kernel
theorem wit_Collectives_steps :
    (let s := sColl (cstep 1 1 0)
    let a := s.collRead 0 0 none 16 8
    tryOk a.2 = some [7, 0, 0, 0, 0, 0, 0, 0] ∧ a.1.comm? 0 3 = some comm0 ∧ comm0.ranks[0]? ≠ none ∧ s.aborted = [] ∧ (collRun (cstep 1 1 0)).out = [] ∧
    (s.vf 0).suspended = false ∧ a.1.ctx 0 = s.ctx 0 ∧ a.1.storeUsed 2 + 8 ≤ 8 * 2 ^ 20) ∧
    (∀ kind ∈ [2, 3, 4], let s := sColl (cstep kind 1 0)
      (s.message 0 (collRun (cstep kind 1 0)) (cstep kind 1 0)).map (·.1) = some 0 ∧ msg0.data.length = 8 ∧
      tryOk (s.collRead 0 0 none 16 8).2 = some [7, 0, 0, 0, 0, 0, 0, 0] ∧ tryOk (s.collWrite 0 0 none 16 msg0.data).2 = some () ∧
      (s.collWrite 0 0 none 16 msg0.data).1.ctx 0 = s.ctx 0) ∧
    (let s := sColl (cstep 5 1 1)
    (s.message 0 (collRun (cstep 5 1 1)) (cstep 5 1 1)).map (·.1) = some 0 ∧ s.storeUsed 2 + 8 ≤ 8 * 2 ^ 20) := by decide +kernel
/-- A rank of another module, reached over quay 23; an abort of rank 1; a message of another length; an answer that has come. -/
def commFar : Comm := { comm0 with ranks := [{ fabric := 1, die := 0, vf := 0 }, { fabric := 2, die := 2, vf := 0 }] }
def sFar : State :=
  { (sColl (cstep 1 1 0)).upVf 0 fun v => { v with peers := [{ slot := 0, dest := 2, exportNo := 0, quays := [23] }] } with comms := [commFar] }
theorem wit_Collectives_far : (let a := sFar.collRead 0 0 none 16 8
    tryOk a.2 = some [7, 0, 0, 0, 0, 0, 0, 0] ∧ a.1.comm? 0 3 = some commFar ∧ a.1.route 0 2 = some 23 ∧
    (commFar.ranks[1]?.map (·.fabric)) ≠ (commFar.ranks[0]?.map (·.fabric))) ∧
    (let s : State := { sColl (cstep 2 1 0) with recvStore := [], aborted := [(0, 3, 1)] }
    s.message 0 (collRun (cstep 2 1 0)) (cstep 2 1 0) = none ∧ s.aborted.contains (0, 3, 1) = true) ∧
    (let x := { cstep 2 1 0 with len := 16 }
    ((sColl x).message 0 (collRun x) x).map (·.1) = some 0 ∧ msg0.data.length ≠ x.len) := by decide +kernel
theorem wit_Collectives_answer : let a : PeerReq := { tag := 7, vf := 0, pa := 0, n := 8, op := 5, quay := 23, dest := 2, who := none, resp := some (true, []) }
    let r := { collRun (cstep 1 1 0) with out := [(0, 7)] }
    let s : State := { sFar with ctxs := [{ kRun with coll := some r }], reqs := [a] }
    (s.ctx 0).coll = some r ∧ (s.reqs.find? fun y => y.tag = 7) = some a ∧ a.resp = some (true, []) ∧
    ({ s with aborted := [(0, 3, 1)] } : State).aborted.contains ((s.ctx 0).vf, r.entry.comm, 1) = true ∧ ({ a with resp := none } : PeerReq).resp = none := by
  decide +kernel
theorem wit_Collectives_arrive : (let s := sColl (cstep 2 1 0)
    s.comm? msg0.vf msg0.comm = some comm0 ∧ comm0.ranks[msg0.dst]? = some { fabric := 1, die := 0, vf := 0 } ∧ s.storeUsed 0 + 8 ≤ 8 * 2 ^ 20) ∧
    (∀ s : State, s.storeUsed 0 = 8 * 2 ^ 20 → 8 * 2 ^ 20 < s.storeUsed 0 + msg0.data.length) ∧
    ({ sColl (cstep 2 1 0) with recvStore := [], ctxs := [kRun] } : State).awaited msg0 = false :=
  ⟨by decide +kernel, fun s h => by rw [h]; decide, by decide +kernel⟩
theorem wit_Collectives_end : let r := { collRun (cstep 2 1 0) with fin := true }
    r.fin = true ∧ r.ended = false ∧ r.status = 0 ∧ r.entry.reply = false ∧ (sColl (cstep 2 1 0)).reqs = [] ∧
    ((sColl (cstep 2 1 0)).vf 0).suspended = false := by decide
theorem wit_Collectives_sum : (0x7FFFFFFFFFFFFFFE : Word) ≠ 0x8000000000000000 ∧ (0x7FFFFFFFFFFFFFFE : Word) ≠ 0x7FFFFFFFFFFFFFFF ∧
    (0x7FFFFFFFFFFFFFFE : Word) ≠ 0x8000000000000001 := by decide

/-! ## Witnesses: faults, placement and pre-emption -/

def fl (code src t : Nat) : Pending :=
  { source := src, precise := true, cause := { code := code, addr := 0x1234 }, tide := t, pc := 0, word := 0, fword := none, progress := 0,
    unissued := false, midop := false }
theorem wit_TakingAFault : (mk1 kNum .x).ctxs.length = 1 ∧ ((mk1 kNum .x).ctx 0).pend = [] ∧ (fl 0x19 1 7).cause.code ∉ [0, 0x07] ∧ (fl 0x11 3 7).cause.code ∉ [0, 0x07] ∧
    (fl 0x19 1 7).precise = true ∧ (fl 0x19 1 7).source = Stream.l.code ∧ (fl 0x19 1 7).tide = (fl 0x11 3 7).tide ∧
    (fl 0x19 1 7).source ≤ (fl 0x11 3 7).source ∧ (fl 0x19 1 7).tide < (fl 0x11 0 8).tide := by decide
/-- A context whose launch runs, at a fault. -/
def kFault (code : Nat) (run : Run) (dbg : Bool) : Ctx :=
  { kRun with run := run, pend := [fl code 0 7], dbg := dbg, iter := some iter0, hold := some 0,
              csr := { Csrs.zero with faultcause := BitVec.ofNat 64 code } }
def sFault (k : Ctx) : State := { mkA k with launches := [{ launch0 with placed := 1 }] }
theorem wit_StopsAndActions_stop : let s := sFault (kFault 0x19 .running false)
    (s.ctx 0).run = .running ∧ (s.ctx 0).pend = [fl 0x19 0 7] ∧ (fl 0x19 0 7).tide < s.tide ∧ (fl 0x19 0 7).cause.code ≠ 0 ∧ (s.ctx 0).region = none := by decide
theorem wit_StopsAndActions_close :
    (let s := sFault (kFault 0x40 .stopping true)
    (s.ctx 0).settled s.tide = true ∧ s.strict 0 = false ∧ (s.ctx 0).dbg = true ∧ (s.ctx 0).pend = [fl 0x40 0 7]) ∧
    (∀ code ∈ [0x11, 0x1B, 0x19], let s := sFault (kFault code .stopping false)
    (s.ctx 0).settled s.tide = true ∧ s.strict 0 = false ∧ (s.ctx 0).flight = [] ∧ (s.ctx 0).pend = [fl code 0 7] ∧ (s.ctx 0).csr.faultcause.toNat % 256 = code ∧
    (s.ctx 0).iter = some iter0 ∧ (s.launch? 0).bind (·.status) = none ∧ (s.launch? 0).isSome = true) := by decide
/-- Code 0x1A under each paging mode, with the page there and not; strict mode; DEBUG without a debugger; and a breakpoint in strict mode. -/
def closed (s : State) : State := (((s.owePosts 0).closeFrame 0 1).upCtx 0 fun k => { k with run := .faulted }).writeFrame 0
theorem wit_StopsAndActions_auto :
    (∀ p ∈ [0, 1, 2], let s := (sFault (kFault 0x1A .stopping false)).upVf 0 fun v => { v with paging := p }
      (s.ctx 0).settled s.tide = true ∧ (s.ctx 0).pend = [fl 0x1A 0 7] ∧ s.strict 0 = false ∧ ((closed s).vf 0).paging = p ∧
      (closed s).grants 0 0x1234 false = false ∧ ((closed s).zeroFill 0 0x1234 false).isSome = false ∧ (closed s).faults = []) ∧
    (closed (mapped (sFault (kFault 0x1A .stopping false)))).grants 0 0x1234 false = true ∧
    (let r : DemandRange := { va := 0, pages := 1, rd := true, w := true }
    let s : State := ({ sFault (kFault 0x1A .stopping false) with mem := tree }).upVf 0 fun v => { v with paging := 1, ranges := [r], winBase := 0x50000000, winLimit := 0x50020000 }
    (closed s).grants 0 0x1234 false = false ∧ ((closed s).zeroFill 0 0x1234 false).isSome = true) := by decide +kernel
theorem wit_StopsAndActions_strict :
    (∀ p ∈ [(0x11, false), (0x41, false), (0x40, true)], let s : State := { sFault (kFault p.1 .stopping p.2) with launches := [{ launch0 with placed := 1, lrec := { rec0 with flags := 4 } }] }
      s.strict 0 = true ∧ (s.ctx 0).settled s.tide = true ∧ (s.ctx 0).dbg = p.2 ∧ ((s.ctx 0).dbg = false ∨ p.1 ∉ [0x41, 0x43])) ∧
    (let s : State := { sFault (kFault 0x43 .stopping true) with launches := [{ launch0 with placed := 1, lrec := { rec0 with flags := 4 } }] }
    s.strict 0 = true ∧ (s.ctx 0).dbg = true ∧ (s.ctx 0).settled s.tide = true) ∧
    (∀ code ∈ [0x22, 0x40, 0x41, 0x43], let s := sFault (kFault code .stopping false)
      s.strict 0 = false ∧ (s.ctx 0).dbg = false ∧ (s.ctx 0).settled s.tide = true ∧ (s.ctx 0).csr.faultcause.toNat % 256 = code) := by decide +kernel
theorem wit_StopsAndActions_hold : let s : State := { sFault (kFault 0x11 .faulted false) with tide := 2 ^ 34 }
    (s.ctx 0).run = .faulted ∧ (s.ctx 0).was = none ∧ (s.ctx 0).hold = some 0 ∧ 0 + 2 ^ 34 ≤ s.tide ∧ (s.launch? 0).isSome = true := by decide
def sleeve0 : Sleeve := { num := 0, kind := 2, slots := 1, owner := 0, cores := [0, 1], base := 0, limit := 0, drain := 16 }
def vf0 (v : Vf) : Vf := { v with sleeve := some 0 }
def sSleeve (ks : List Ctx) (ls : List Launch) : State := ({ State.reset with leases := [], ctxs := ks, launches := ls, sleeves := [sleeve0], tide := 2 ^ 24 }).upVf 0 vf0
def kSaved : Ctx :=
  { kRun with run := .saved, core := none, saved := true, saveArea := 0x60000000,
              csr := { Csrs.zero with spbase := 3, splimit := 4 }, journal := [{ jq 0 with body := zeros 48 }] }
theorem wit_StopsAndActions_record :
    (let r : FaultRec := { num := 4, vf := 0, ctx := 0, va := 0x10000, need := 0, tide := 0 }
    let s : State := { sSleeve [] [] with faults := [r], tide := 2 ^ 34 }
    r ∈ s.faults ∧ r.tide + 2 ^ 34 ≤ s.tide) ∧
    (let s := sSleeve [kSaved] []
    s.fitsNow 0 1 = true ∧ (s.ctx 0).saved = true ∧ (s.ctx 0).iter = none ∧ s.room 1 1 0 0 = some (0, 0, 0) ∧ s.areaError (s.ctx 0) = none) := by decide +kernel

/-- Idle contexts of the function on cores 0 and 1. -/
def kIdle (n : Nat) : Ctx := { Ctx.blank with core := some n, run := .idle }
def nest2 (coh : Nat) : LaunchRec := { rec0 with cohort := coh, levels := [{ kind := 1, rank := 0, extent := 2 }] }
def sPlace (coh : Nat) : State := sSleeve [kIdle 0, kIdle 1] [{ launch0 with lrec := nest2 coh }]
theorem wit_Placement_iteration : let s := sPlace 0
    let l : Launch := { launch0 with lrec := nest2 0 }
    s.launch? 0 = some l ∧ l.ended = false ∧ (s.queue.any fun e => e.1 = 0) = true ∧
    s.outranked 0 0 = false ∧ s.returns 0 0 = false ∧ s.walkerBusy 0 = false ∧ s.claim l 0 = some (0, 0) ∧
    (s.takeCore l 0).map (·.2) = some 0 := by decide
theorem wit_Placement_cohort : let s := sPlace 2
    let l : Launch := { launch0 with lrec := nest2 2 }
    s.launch? 0 = some l ∧ l.lrec.cohort ≠ 0 ∧ (s.queue.any fun e => e.1 = 0) = true ∧ ((List.range 8).any fun d => s.outranked 0 d || s.returns 0 d) = false ∧
    (s.takeGroup l l.groupSize (s.launchCores l)).map (·.2) = some [(0, 0), (1, 1)] ∧ s.walkerBusy 0 = false := by decide
theorem wit_Placement_state : (((sPlace 0).takeCore { launch0 with lrec := nest2 0 } 0).map (·.1.launches) = some (sPlace 0).launches) ∧
    (((sPlace 2).takeGroup { launch0 with lrec := nest2 2 } 2 [0, 1]).map (·.1.launches) = some (sPlace 2).launches) := by decide
theorem wit_Placement_trigger :
    (let l : Launch := { launch0 with placed := 1, retired := 1, retireTide := 5 }
    let s := sSleeve [] [l]
    s.launch? 0 = some l ∧ l.released = false ∧ l.lrec.total ≤ l.retired + s.trigCount 0 ∧ l.retireTide < s.tide) ∧
    (let s := sSleeve [{ kIdle 0 with run := .running, iter := some { iter0 with trig := true } }] [{ launch0 with placed := 1 }]
    launch0.lrec.total ≤ launch0.retired + s.trigCount 0 ∧ launch0.retired = 0) := by decide

/-- A newcomer of class 7 (balance 65,535) and a running launch of class 0 on core 0; core 1 is taken too. -/
def kBusy (n lc : Nat) : Ctx :=
  { Ctx.blank with core := some n, run := .running, iter := some { iter0 with launch := lc }, csr := { Csrs.zero with est := 1000 } }
def newc : Launch := { launch0 with lrec := { rec0 with prio := 7 }, ident := 9 }
def sNew (ks : List Ctx) (old : Launch) : State :=
  { (sSleeve ks [newc, old]).upVf 0 fun v => { v with balance := 65535, grant := 3 } with sleeves := [{ sleeve0 with cores := [0] }] }
def oldc : Launch := { launch0 with placed := 1 }
theorem wit_Preemption_period : swf Vf.reset (sSleeve [] []).vfs = true ∧ (sSleeve [] []).periodNo ≤ (sSleeve [] []).tide / 2 ^ 24 := by decide
theorem wit_Preemption_newcomer : let s := sNew [kBusy 0 1] oldc
    let vs := s.victims newc 1
    s.launch? 0 = some newc ∧ newc.placed = 0 ∧ newc.admitted + 2 ^ 20 ≤ s.tide ∧ newc.judged = 0 ∧
    ((s.coresFor newc).filter fun core => (s.takeCore newc core).isSome) = [] ∧ vs.map (·.1) = [0] ∧ (s.ctx 0).run = .running ∧ firstFault (s.ctx 0).pend = none ∧ (s.ctx 0).region = none ∧ max 1 newc.lrec.cohort - 0 = 1 ∧
    oldc.lrec.cohort = 0 ∧ decision true false 1024000 (s.drainBound 0) (s.ctx 0).saveCost (s.bidOf 0) 0 = 2 := by decide +kernel
theorem wit_Preemption_none : (sNew [kBusy 0 1] { oldc with lrec := { rec0 with prio := 7 } }).launchCores newc = [0] ∧
    ((sNew [] oldc).victims newc 1).map (·.1) = [] := by decide +kernel
def drain0 : Drain := { ctx := 0, core := 0, since := 0, newcomer := 0, soft := true }
theorem wit_Preemption_drain : let l : Launch := { oldc with drain := [drain0], lrec := { rec0 with prio := 7 } }
    let s := sNew [kBusy 0 1] l
    s.launch? 1 = some l ∧ drain0.since + 2 * s.drainBound 0 ≤ s.tide ∧ newc.placed < 1 ∧
    decision false false 1024000 (s.drainBound 0) (s.ctx 0).saveCost (s.bidOf 0) 7 = 2 ∧
    decision false false 1024000 (s.drainBound 0) (s.ctx 0).saveCost 62 7 = 0 := by decide +kernel
theorem wit_Preemption_quantum :
    (let s := sSleeve [kBusy 0 1, { kBusy 0 1 with vf := 3, run := .saved, core := none }] [newc, oldc]
    (s.sleeves.any fun z => z.num = (s.ctx 0).sleeve && z.kind = 2) = true ∧ (s.ctx 0).spent = false ∧ (s.ctx 0).quantum + 2 ^ 22 ≤ s.tide ∧
    s.slotWanted 0 0 0 = true) ∧
    (let s := sSleeve [{ kBusy 0 1 with spent := true, iter := none }] []
    (s.ctx 0).run = .running ∧ (s.ctx 0).spent = true ∧ (s.ctx 0).quantum + 2 * s.drainBound 0 ≤ s.tide ∧ (s.ctx 0).iter = none ∧ firstFault (s.ctx 0).pend = none ∧ (s.ctx 0).region = none) := by decide +kernel

/-! ## Witnesses: the drydock and the quays -/

def lease0 : Lease :=
  { id := 5, ident := 0, kind := .core, unit := 127, state := 3, patset := 1, outcome := 0, reason := 0, treq := 0, tgrant := 0, tend := 0, score0 := 0,
    score1 := 0, holds := 0, digest := [], retest := false }
def sLease (l : Lease) (t : Nat) : State := { State.reset with leases := [l], tide := t }
/-- What a run of the set on a good unit shows, with these corrected events. -/
def obs0 (l : Lease) (ns : List Nat) : LeaseObs :=
  { outputs := Config.patternOut l.kind (Config.patternSeed l.kind + b2n l.retest), uncorrectable := false, corrected := ns }
theorem wit_Leases_ask : let u : UnitRec := { kind := .quay, unit := 23, score := 0, lastLease := 0, early := none, watchDue := some 9, outOfService := false }
    let s : State := { State.reset with leases := [], tide := 2 ^ 41, units := [u] }
    (∀ p ∈ [(UnitKind.core, 127), (.quay, 23), (.channel, 1023)], p.2 < unitCount p.1 ∧ s.unitOut p.1 p.2 = false ∧ s.rotationDue p.1 p.2 ≤ s.tide ∧
      (s.leases.any fun x => x.kind = p.1 && x.unit = p.2 && x.open?) = false) ∧
    (s.unitRec .quay 23).watchDue = some 9 ∧ 9 ≤ s.tide ∧ s.decayNo ≤ s.tide / 2 ^ 32 := by decide +kernel
theorem wit_Leases_grant : (let l := { lease0 with state := 2 }
    let s := sLease l 0
    s.lease? 5 = some l ∧ s.coreIdle 127 = true ∧ s.coreHeld 127 = false ∧ s.dieLeased 127 = false ∧ s.residents 127 = [] ∧ l.ctx = none ∧
    s.newCtxNo.isSome = true) ∧
    (let l := { lease0 with kind := .quay, unit := 23, state := 1 }
    let s := sLease l (2 ^ 24)
    s.lease? 5 = some l ∧ ((s.entriesOver 23).any fun e => (s.otherQuay 23 e.2).isNone) = false ∧ l.treq + 2 ^ 24 ≤ s.tide) ∧
    (∀ r ∈ [Run.running, .faulted, .halted], let l := { lease0 with state := 2 }
    let s : State := { sLease l 162000000000 with ctxs := [{ kRun with core := some 127, run := r, iter := some iter0 }], launches := [launch0] }
    s.lease? 5 = some l ∧ l.treq + 162000000000 ≤ s.tide ∧ s.holders 127 = [0] ∧ (s.ctx 0).run = r ∧ (s.ctx 0).iter = some iter0 ∧
    firstFault (s.ctx 0).pend = none ∧ s.launch? 0 = some launch0 ∧ launch0.lrec.cohort = 0) := by decide +kernel
theorem wit_Leases_limit : (sLease lease0 (2 ^ 28)).lease? 5 = some lease0 ∧ lease0.tgrant + 2 ^ 28 ≤ (sLease lease0 (2 ^ 28)).tide ∧
    lease0.unit < unitCount lease0.kind ∧ (sLease lease0 0).retired.length < 1024 ∧ (sLease lease0 0).serves .core 127 = true ∧ lease0.ctx = none ∧
    (sLease lease0 0).sleeves = [] := by decide +kernel
/-- The golden outputs, and an event corrected beside them; an error that nothing corrects; and each again in a retest. -/
theorem wit_Leases_outcome : ∀ b : Bool, let l := { lease0 with retest := b }
    (sLease l 0).outcomeOf l (obs0 l []) = 1 ∧ (sLease l 0).outcomeOf l (obs0 l [1]) = 2 ∧
    (sLease l 0).outcomeOf l { obs0 l [] with uncorrectable := true } = 3 := by
  intro b
  simp [State.outcomeOf, State.patternFault, obsDigest, Lease.golden, Config.golden, obs0, aboveAllowance, lease0]
theorem wit_Leases_channel : let l := { lease0 with kind := .channel, unit := 1023 }
    let s : State := { sLease l 324000 with lastHold := [(1023, 0)] }
    let h : ChanHold := { channel := 1023, lease := 5, window := 32767, since := 0 }
    (s.leases.find? fun x => x.kind = .channel && x.unit = 1023 && x.state = 3) = some l ∧ 32767 < 32768 ∧
    (s.holds.any fun h => h.channel / 32 = 1023 / 32) = false ∧ (∀ e ∈ s.lastHold, e.1 = 1023 → e.2 + 324000 ≤ s.tide) ∧
    ({ s with holds := [h] } : State).holds.find? (fun x => x.channel = 1023) = some h ∧ s.lease? h.lease = some l := by decide +kernel
def flit (vc ty : Nat) (fs : BitVec 12) : Flit := { vc := vc, ty := ty, fseq := fs, aseq := 0, credVc := 0, cred := 0, payload := [] }
def sQuay (q : Quay) : State := { State.reset with leases := [], quays := State.reset.quays.set 23 q }
def q0 : Quay := { Quay.reset with waiting := [(1, flit 3 1 0), (2, flit 3 1 0)], shares := [(2, 240)], deficit := [(2, 16)], expect := 7, naks := 15, retraining := false }
theorem wit_Quays : let s := sQuay q0
    let q := vgetD s.quays 23 Quay.reset
    q.up = true ∧ q.retraining = false ∧ q.free < 25 * s.tide + 25 ∧ q.resend = [] ∧ (∀ e ∈ q.waiting, (s.vf e.1).suspended = false) ∧
    0 < q.share 2 ∧ 256 ≤ q.owed 2 + q.share 2 ∧ q.share 1 = 0 ∧
    (flit 3 1 7).fseq = q.expect ∧ (flit 4 1 7).vc = 4 ∧ (flit 3 1 6).fseq ≠ q.expect ∧ 16 ≤ q.naks + 1 := by decide +kernel
/-- A flit to send again, an acknowledgement alone to send, and a quay that retrains, at the end of its time and before. -/
theorem wit_Quays_other : (let q := vgetD (sQuay { q0 with resend := [flit 1 1 4], waiting := [] }).quays 23 Quay.reset
    q.resend = flit 1 1 4 :: [] ∧ q.up = true ∧ q.retraining = false) ∧
    (let q := vgetD (sQuay { q0 with waiting := [], ackDue := true }).quays 23 Quay.reset
    q.resend = [] ∧ q.waiting = [] ∧ q.ackDue = true) ∧
    (∀ t ∈ [2700000, 2699999], let s : State := { sQuay { q0 with retraining := true } with tide := t }
    let q := vgetD s.quays 23 Quay.reset
    q.retraining = true ∧ q.since = 0 ∧ (q.since + 2700000 ≤ s.tide ↔ t = 2700000)) ∧
    (let q := { Quay.reset with shares := [(1, 8), (2, 24)] }
    q.owed 1 + q.share 1 < 256 ∧ q.owed 2 + q.share 2 < 256) := by decide +kernel
/-- A read and a write request of a peer, a message, and the answer to a write and to a message. -/
def head (kind fails : Nat) (tag len : Nat) : List Byte := fit 32 (natBytes kind 1 ++ natBytes fails 1 ++ zeros 6 ++ natBytes 4 4 ++ zeros 4 ++ natBytes tag 8 ++ natBytes len 8)
theorem wit_Quays_requests : let s : State := { sQuay q0 with exports := [(4, 0, 0x10000)], mat := [] }
    let q := vgetD s.quays 23 Quay.reset
    (∀ k ∈ [1, 2], let p := head k 0 7 8
      fieldN p 0 1 = k ∧ fieldN p 24 8 = 8 ∧ (s.exports.find? fun e => e.1 = fieldN p 8 4) = some (4, 0, 0x10000) ∧ fieldN p 12 4 = 0) ∧ q.received = [] ∧
    isDevice 0x10000 = true ∧ s.pinnedElsewhere 128 0x10000 = false ∧ s.holds = [] ∧ s.uncorr = [] ∧ s.netBad = false ∧
    (∀ op ∈ [2, 5], let r : PeerReq := { tag := 7, vf := 0, pa := 0, n := 8, op := op, quay := 23, dest := 2, who := none, resp := none }
      ({ s with reqs := [r] } : State).reqs.find? (fun r => r.tag = fieldN (head 17 1 7 0) 16 8 && r.resp.isNone) = some r) := by decide +kernel
theorem wit_Quays_admitted : ∀ need ∈ [Need.rd, .wr], ∃ s : State, s.exports = [(4, 0, 0x10000)] ∧ s.targetPass 0 agPeer 0 need 0x10000 = true :=
  fun need h => ⟨{ sQuay q0 with exports := [(4, 0, 0x10000)], keys := [(0, 1), (4096, 1)] }, by revert need; decide +kernel⟩
theorem wit_Quays_message : let p := fit flitPayload (natBytes 5 1 ++ zeros 5 ++ zeros 2 ++ natBytes 3 4 ++ zeros 4 ++ natBytes 7 8 ++ natBytes 8 8 ++
      natBytes 1 2 ++ zeros 2 ++ natBytes 9 2)
    let s : State := { sQuay q0 with comms := [{ vf := 0, num := 3, rank := 1, ranks := [{ fabric := 1, die := 0, vf := 0 }, { fabric := 2, die := 2, vf := 0 }] }] }
    p.length = flitPayload ∧ fieldN p 24 8 = 8 ∧ 8 ≤ messageBytes ∧ s.arriving = [] ∧ (s.comm? (fieldN p 6 2) (fieldN p 8 4)).isSome = true ∧
    ((s.comm? (fieldN p 6 2) (fieldN p 8 4)).bind fun k => k.ranks[fieldN p 32 2]?) = some { fabric := 2, die := 2, vf := 0 } ∧ s.storeUsed 2 + 8 ≤ 8 * 2 ^ 20 := by
  decide +kernel
theorem wit_Quays_ready : q0.ready ≠ [] ∧ q0.masters = [1, 2] := by
  have h : q0.mayUse 3 = true := decide_eq_true (Nat.zero_le _)
  have hr : q0.ready = q0.waiting := by simp [Quay.ready, q0, flit] at h ⊢; simpa using h
  exact ⟨by rw [hr]; decide, by rw [Quay.masters, hr]; decide⟩

/-! ## Witnesses: rings, commands and graphs -/

def ring0 : Ring := { Ring.reset 0 15 with en := true, log2 := 4, state := 1, rdidx := 1 }
def slotB (op : Nat) (body : List Byte) : List Byte := fit 128 (zeros 8 ++ natBytes op 1 ++ zeros 7 ++ body)
def cmd0 (op : Nat) (body : List Byte) : Cmd := Cmd.accept 0 15 0 0 (slotB op body)
def sRing (r : Ring) : State := { State.reset with leases := [], rings := [r], tide := 50, mem := pages }
def sCmd (op : Nat) (body : List Byte) : State := sRing { ring0 with cmds := [cmd0 op body] }
theorem wit_RingRegisters : (∀ r ∈ [ring0, { ring0 with a7 := true }, { ring0 with en := false }, { ring0 with state := 2 }],
      (sRing r).ringPage 0 15 = true ∧ (sRing r).ring 0 15 = r) ∧
    ring0.cmds.Pairwise (fun c d => c.seq ≠ d.seq) ∧
    (let c := { cmd0 1 [] with state := 2, launch := some 0 }
    let s : State := { sRing { ring0 with cmds := [c] } with launches := [launch0] }
    c ∈ (s.ring 0 15).cmds ∧ c.state = 2 ∧ c.opcode ≠ 7 ∧ s.launch? 0 = some launch0) ∧
    (let c := { cmd0 7 [] with state := 2 }
    c.state = 2 ∧ c.opcode = 7 ∧ c.overAs = none) := by decide +kernel
theorem wit_CommandProtocol_accept :
    (let r := { ring0 with rdidx := 0 }
    (sRing r).ringPage 0 15 = true ∧ (sRing r).halting 0 = false ∧ fieldN ((sRing r).slot r 0) 0 8 = r.rdidx ∧ r.rdidx < r.size) ∧
    fieldN ((sRing ring0).slot ring0 1) 0 8 ≠ ring0.rdidx ∧
    (let r := { ring0 with a7 := true, rdidx := 16, wridx := 17, cmds := [cmd0 11 []] }
    r.rdidx < r.wridx ∧ ¬ r.rdidx < r.size ∧ (r.cmd? (r.rdidx - r.size)).isSome = true ∧ (cmd0 11 []).state < 3) := by decide +kernel
/-- Bodies of SIGNAL, WAIT and the others. -/
def bodySig (op : Nat) : List Byte := natBytes op 8 ++ natBytes 0x100 8 ++ natBytes 5 8
theorem wit_CommandProtocol_start : ∀ p ∈ [(6, bodySig 0), (6, bodySig 1), (6, bodySig 2), (7, bodySig 0), (8, []), (11, []), (0, []), (12, []), (0xFF, []), (0x20, [])],
    let s := sCmd p.1 p.2
    let c := cmd0 p.1 p.2
    c.opcode = p.1 ∧ s.nextCmd 0 15 = some c ∧ (s.ring 0 15).cmd? 0 = some c ∧ s.depFailed 0 15 c = false ∧ s.runningCmd 0 15 p.1 = none := by decide +kernel
theorem wit_CommandProtocol_signal : let s := sCmd 6 (bodySig 1)
    fieldsOk (cmd0 6 (bodySig 1)).body [(16, 40)] = true ∧ (getOk (s.resolve none 0 agFw .both 0x100).2).isSome = true ∧ isOk (s.fwRead 0 0x100 2 8).2 = true ∧
    isOk (s.fwWrite 0 0x100 2 (natBytes 5 8)).2 = true ∧
    (s.poll 0 1 0x100 5 0xFF).2 = some (0, false) ∧ (s.poll 0 0 0x100 0 0xFF).2 = some (0, true) := by decide +kernel
theorem wit_CommandProtocol_skip : let c : Cmd := { cmd0 11 [] with seq := 1 }
    let p : Cmd := { cmd0 11 [] with state := 4, status := 1 }
    let s := sRing { ring0 with cmds := [p, c] }
    s.nextCmd 0 15 = some c ∧ s.depFailed 0 15 c = true := by decide +kernel
/-- A TOKGRANT request, its message, and one of a kind that FC1 does not serve; a full mailbox. -/
def bodyReq (core kind : Nat) : List Byte := natBytes core 2 ++ natBytes kind 2 ++ zeros 4 ++ natBytes 0x100 8
theorem wit_CommandProtocol_request : let b := (cmd0 0x20 (bodyReq 1 0x0101)).body
    let m := (cmd0 0x20 (bodyReq 1 0x0101)).mail
    let s := sCmd 0x20 (bodyReq 1 0x0101)
    fieldsOk b [(16, 20), (24, 88)] = true ∧ served (fieldN b 16 2) (fieldN b 18 2) = true ∧ (s.mailbox 1 0).length < 4 ∧
    served 1 0x0201 = false ∧ fieldsOk (cmd0 0x20 (bodyReq 1 0x0101 ++ zeros 64 ++ [1])).body [(16, 20), (24, 88)] = false ∧
    4 ≤ (({ s with mail := [m, m, m, m] } : State).mailbox 1 0).length := by decide +kernel
/-- A WAIT that runs, whose word is not there yet and whose time is over. -/
theorem wit_CommandProtocol_wait : let c : Cmd := { cmd0 7 (bodySig 0 ++ natBytes 0xFF 8 ++ natBytes 1 8) with state := 2 }
    let s : State := { sRing { ring0 with cmds := [c] } with tide := 1024 }
    s.runningCmd 0 15 7 = some c ∧ (s.ring 0 15).cmd? c.seq = some c ∧ fieldN c.body 48 8 = 1 ∧ c.tstart + 1024 ≤ s.tide ∧
    (s.poll 0 (fieldN c.body 16 8) (fieldW c.body 24) (fieldW c.body 32) (fieldW c.body 40)).2 = some (0, false) := by decide +kernel
theorem wit_CommandProtocol_over : let c : Cmd := { cmd0 1 [] with state := 2, launch := some 0 }
    let s : State := { sRing { ring0 with cmds := [c] } with launches := [{ launch0 with retired := 1 }] }
    s.cmdOver c = some (3, 0, 0, 0) ∧ (s.ring 0 15).cap = none ∧ (s.ring 0 15).cmd? 0 = some c ∧ (s.vf 0).suspended = false ∧
    ({ s with launches := [{ launch0 with retired := 1, retireTide := 50 }] } : State).cmdOver c = none ∧
    ({ s with launches := [launch0] } : State).cmdOver c = none ∧
    ({ s with launches := [{ launch0 with ended := true, status := some (0x0A, 7) }] } : State).cmdOver c = some (4, 0x0A, 7, 0) := by decide +kernel

/-- A record with one temporal level of extent 2, and a READY berth with it. -/
def raw0 (args : Nat) : List Byte := fit 64 (natBytes 1 2 ++ natBytes 1 1 ++ zeros 13 ++ natBytes 0 4 ++ natBytes 64 4 ++ natBytes 128 4 ++ natBytes 192 4 ++
  natBytes 2 4 ++ zeros 20 ++ natBytes args 4)
def berth0 : Berth :=
  { num := 7, state := 2, image := 0x1FC00000000, imageSize := 256, recs := [raw0 16, raw0 128], segs := [], wcs := none, binds := [], shared := false,
    succ := [], sections := [(0, 64), (64, 64), (128, 64), (192, 64)], digest := [] }
def withBerth (h : Berth) (s : State) : State := s.upVf 0 fun v => { v with berths := [h] }
def bodyLaunch (args : Nat) : List Byte := natBytes 7 2 ++ zeros 6 ++ natBytes 64 8 ++ natBytes args 4
theorem wit_Commands_launch : (let s := withBerth berth0 (sCmd 1 (bodyLaunch 16))
    let c := cmd0 1 (bodyLaunch 16)
    s.nextCmd 0 15 = some c ∧ s.depFailed 0 15 c = false ∧ (s.ring 0 15).cap = none ∧ fieldsOk c.body [(16, 19), (24, 36), (40, 72)] = true ∧
    (s.vf 0).berth? 7 = some berth0 ∧ berth0.recs[0]? = some (raw0 16) ∧ fieldN (raw0 16) 56 4 = 16 ∧ recordOk (raw0 16) [0, 0, 0, 0, 0, 0] berth0.sections = true ∧
    (launchRec (raw0 16) [0, 0, 0, 0, 0, 0] 0).cohort ≤ (s.sleeveCores 0).length) ∧
    (∀ h ∈ [{ berth0 with state := 1 }, { berth0 with recs := [] }, { berth0 with recs := [raw0 17] }], ((withBerth h (sCmd 1 (bodyLaunch 16))).vf 0).berth? 7 = some h) ∧
    ((sCmd 1 (bodyLaunch 16)).vf 0).berth? 7 = none := by decide +kernel
def bodyInvoke : List Byte := natBytes 7 2 ++ natBytes 1 1 ++ natBytes 12 1 ++ zeros 4 ++ natBytes 9 8
theorem wit_Commands_invoke : let s := withBerth berth0 (sCmd 2 bodyInvoke)
    let c := cmd0 2 bodyInvoke
    s.nextCmd 0 15 = some c ∧ fieldsOk c.body [(16, 20), (24, 120)] = true ∧ fieldN c.body 19 1 ≤ 12 ∧ fieldN c.body 18 1 = 1 ∧
    fieldN (raw0 128) 56 4 = 128 ∧ recordOk (raw0 128) [] berth0.sections = true := by decide +kernel
def bodyGraph (entry : Nat) : List Byte := zeros 8 ++ natBytes 0x100 8 ++ natBytes 1 4 ++ natBytes entry 2
theorem wit_Commands_graph : ∀ e ∈ [0, 1], let s := sCmd 3 (bodyGraph e)
    let c := cmd0 3 (bodyGraph e)
    s.nextCmd 0 15 = some c ∧ fieldsOk c.body [(24, 38)] = true ∧ fieldN c.body 32 4 = 1 ∧ fieldN c.body 36 2 = e ∧
    isOk (s.fwRead 0 0x100 3 64).2 = true := by decide +kernel
/-- An object with code for the X stream and one record. -/
def elfHead (name ty fl off size align ent : Nat) : List Byte :=
  natBytes name 4 ++ natBytes ty 4 ++ natBytes fl 8 ++ zeros 8 ++ natBytes off 8 ++ natBytes size 8 ++ zeros 8 ++ natBytes align 8 ++ natBytes ent 8
def elf0 : List Byte :=
  fit 16 [0x7F, 0x45, 0x4C, 0x46, 2, 1, 1] ++  fit 24 (zeros 2 ++ natBytes 0x9A09 2) ++ natBytes 160 8 ++
    fit 16 (natBytes 1 1 ++ zeros 9 ++ natBytes 64 2 ++ natBytes 4 2 ++ natBytes 1 2) ++
    fit 24 ([0] ++ streamName 120 ++ [0] ++ filimName [108, 97, 117, 110, 99, 104]) ++ natBytes 0x28000000 8 ++ raw0 0 ++
    zeros 64 ++ elfHead 0 3 0 64 24 1 0 ++ elfHead 1 1 6 88 8 64 8 ++ elfHead 10 0x70000001 0 96 64 8 64
def bodyLoad : List Byte := natBytes 7 2 ++ zeros 6 ++ natBytes 0x1000 8 ++ natBytes 416 8
def sLoad : State := { sCmd 4 bodyLoad with mem := ((keyed 0x1000 elf0).filter fun e => e.2 ≠ 0) ++ pages }
theorem wit_Commands_load : (let c := cmd0 4 bodyLoad
    sLoad.nextCmd 0 15 = some c ∧ fieldsOk c.body [(16, 18), (24, 40)] = true) ∧ elf0.length = 416 ∧ (elfSections elf0).isSome = true ∧
    isOk (sLoad.berthLoad 0 7 0x1000 416) = true ∧ isOk ((sCmd 4 bodyLoad).berthLoad 0 7 0x1000 416) = false ∧
    (withBerth berth0 sLoad).nextCmd 0 15 = some (cmd0 4 bodyLoad) := by decide +kernel
theorem wit_Commands_drop : (let s := withBerth berth0 (sCmd 5 (natBytes 7 2))
    s.nextCmd 0 15 = some (cmd0 5 (natBytes 7 2)) ∧ fieldsOk (cmd0 5 (natBytes 7 2)).body [(16, 18)] = true) ∧
    (let h := { berth0 with state := 3 }
    let s := withBerth h State.reset
    (s.vf 0).berth? 7 = some h ∧ s.launches = [] ∧ s.graphs = []) ∧
    (let h := { berth0 with state := 3 }
    let c : Cmd := { cmd0 5 (natBytes 7 2) with state := 2 }
    let s := withBerth h (sRing { ring0 with cmds := [c] })
    ∀ r ∈ s.rings, ∀ c ∈ r.cmds, fieldN c.body 16 2 = 7 → c.state = 2 ∧ c.opcode = 5 ∧ c.overAs = none) := by decide +kernel
def bodyCap : List Byte := natBytes 64 2 ++ natBytes 4 2 ++ zeros 4 ++ natBytes 0x100 8 ++ natBytes 4096 8
theorem wit_Commands_capture : (sCmd 9 bodyCap).nextCmd 0 15 = some (cmd0 9 bodyCap) ∧ fieldsOk (cmd0 9 bodyCap).body [(16, 20), (24, 104)] = true ∧
    fieldN (cmd0 9 bodyCap).body 16 2 = 64 ∧ fieldN (cmd0 9 bodyCap).body 18 2 = 4 := by decide +kernel
/-- A capture record of a LAUNCH with no region. -/
def rec1 : List Byte := natBytes 144 8 ++ zeros 8 ++ slotB 1 (bodyLaunch 16)
def bodyReplay : List Byte := zeros 8 ++ natBytes 0x100 8
def sReplay : State := { sCmd 10 bodyReplay with mem := ((keyed 0x100 rec1).filter fun e => e.2 ≠ 0) ++ pages }
theorem wit_Commands_replay : sReplay.nextCmd 0 15 = some (cmd0 10 bodyReplay) ∧ fieldsOk (cmd0 10 bodyReplay).body [(16, 40)] = true ∧
    (sReplay.findRecord 0 0x100 0).2 = some 0x100 ∧ getOk (sReplay.fwRead 0 0x100 2 8).2 = some (natBytes 144 8) ∧
    (getOk (sReplay.fwRead 0 0x100 3 144).2) = some rec1 ∧ fieldN rec1 8 2 = 0 ∧ fieldN ((rec1.drop 16).take 128) 8 1 = 1 := by decide +kernel

def node0 (kind anyway next : Nat) (args : List Byte) : List Byte := fit 64 (natBytes kind 1 ++ natBytes anyway 1 ++ natBytes next 2 ++ zeros 4 ++ args)
def graph0 (b : List Byte) : Graph :=
  { vf := 0, ring := 15, idx := 0, nodes := [b], cur := some 0, prev := none, stack := [], execs := 0, first := none, prevFail := false, skipLoop := false,
    passes := 0, launch := none, copied := 0, since := none, running := [], ended := false, paused := false, cores := none, strict := false }
def sGraph (g : Graph) : State := { withBerth berth0 (sRing ring0) with graphs := [g] }
def argsOf : Nat → List Byte
  | 1 => natBytes 7 2 ++ zeros 2 ++ natBytes 16 4 ++ natBytes 64 8
  | 2 => natBytes 0x100 8 ++ natBytes 0x400 8 ++ natBytes 129 8
  | 3 => natBytes 0x100 8 ++ natBytes 1 8
  | 4 => natBytes 0x100 8 ++ natBytes 1 8 ++ natBytes 3 4
  | 5 => natBytes 1 8 ++ natBytes 0x100 8 ++ natBytes 9 8
  | _ => natBytes 1 8 ++ natBytes 0x100 8 ++ natBytes 9 8 ++ natBytes 0xFF 8 ++ natBytes 1 8
theorem wit_GraphNodes_start : ∀ k ∈ [1, 2, 3, 4, 5, 6], ∀ a ∈ [0, 1], let g := { graph0 (node0 k a 0xFFFF (argsOf k)) with prevFail := (a = 1) }
    let s := sGraph g
    s.graph? 0 = some g ∧ s.halting 0 = false ∧ fieldN (node0 k a 0xFFFF (argsOf k)) 0 1 = k ∧ nodeOk (node0 k a 0xFFFF (argsOf k)) = true ∧
    (g.prevFail = true → fieldN (node0 k a 0xFFFF (argsOf k)) 1 1 % 2 = 1) := by decide +kernel
theorem wit_GraphNodes_run : (let b := node0 2 0 0xFFFF (argsOf 2)
    let g := { graph0 b with since := some 4, copied := 128 }
    let s := sGraph g
    g.copied < fieldN b 24 8 ∧ min 128 (fieldN b 24 8 - g.copied) = 1 ∧ isOk (s.fwRead 0 0x180 3 1).2 = true ∧ isOk (s.fwWrite 0 0x480 3 [0]).2 = true) ∧
    (let b := node0 6 0 0xFFFF (argsOf 6)
    let s : State := { sGraph { graph0 b with since := some 4 } with tide := 1028 }
    (s.poll 0 1 0x100 9 0xFF).2 = some (0, false) ∧ 4 + fieldN b 40 8 * 1024 ≤ s.tide ∧ (s.poll 0 1 0x100 0 0xFF).2 = some (0, true)) ∧
    (let s := sGraph (graph0 (node0 1 0 0xFFFF (argsOf 1)))
    isOk (s.launchKernel 0 15 0 (some 0) 1 7 0 16 64 [0, 0, 0, 0, 0, 0] 0 none false) = true) ∧
    isOk ((sGraph (graph0 [])).fwRead 0 0x100 2 4).2 = true := by decide +kernel

/-! ## Witnesses: requests, reset and power -/

def req (vf : Nat) : FwReq := { vf := vf, ring := 15, replyVa := 0x2000, seq := 0 }
/-- A FW.REQ stands next in ring 15 of function 0, function 1 is enabled, and function 1 of sleeve 1 holds a window. -/
def sReq : State :=
  let s := (sCmd 0x20 []).upVf 1 fun v => { v with enabled := true, root := 0x1EF00000000, sleeve := some 1, winBase := 0x10000, winLimit := 0x20000 }
  { s with sleeves := [{ sleeve0 with num := 1, slots := 4, cores := [0], base := 0x10000, limit := 0x30000 }] }
/-- The request of KIND `kind` runs, its message at the head of core `core`'s mailbox. -/
def asked (core kind : Nat) (s : State) : State :=
  let c : Cmd := { cmd0 0x20 (natBytes core 2 ++ natBytes kind 2 ++ zeros 4 ++ natBytes 0x2000 8) with state := 2 }
  { s with rings := [{ ring0 with cmds := [c] }], mail := [c.mail] }
/-- Every request that is served finds its message, and none finds another's. -/
theorem wit_ManagerRequests_asked : ∀ p ∈ [(1, 0x0101), (1, 0x0102), (1, 0x0103), (2, 0x0201), (2, 0x0202), (2, 0x0203), (2, 0x0204), (2, 0x0205), (2, 0x0206),
      (2, 0x0207), (2, 0x0208), (2, 0x0209), (2, 0x020A), (2, 0x020B), (2, 0x020C), (2, 0x020D), (3, 0x0301), (3, 0x0302), (3, 0x0303), (3, 0x0304), (3, 0x0305),
      (3, 0x0306), (4, 0x0401), (4, 0x0402), (4, 0x0403), (4, 0x0404), (4, 0x0405), (5, 0x0501), (6, 0x0601), (7, 0x0701), (7, 0x0702)],
    served p.1 p.2 = true ∧ ((asked p.1 p.2 sReq).asking (req 0) p.1 p.2).isSome = true ∧ (asked p.1 p.2 sReq).asking (req 0) p.1 (p.2 + 1) = none := by
  decide +kernel
def locked (s : State) : State := s.upVf 1 fun v => { v with tdi := 2 }
/-- A locked function of the sleeve; a function that stops while a context of it runs, and one whose contexts are saved. -/
theorem wit_ManagerRequests_stop : (locked sReq).sleeveLocked 1 = true ∧ sReq.sleeveLocked 1 = false ∧
    (let s : State := { asked 2 0x020B sReq with ctxs := [{ kRun with vf := 1 }] }
    (s.vf 1).stopReq = none ∧ (s.begun (req 0)).externalWaits 1 = [] ∧ (s.asking (req 0) 2 0x020B).isSome = true ∧ 0 ∈ s.ctxsOf 1 ∧ (s.ctx 0).run = .running ∧
    firstFault (s.ctx 0).pend = none) ∧
    (let s : State := ({ sReq with ctxs := [{ kRun with vf := 1, run := .saved }] }).upVf 1 fun v => { v with stopReq := some (req 0) }
    (s.vf 1).stopReq = some (req 0) ∧ ∀ c ∈ s.ctxsOf 1, (s.ctx c).run = .saved) ∧ sReq.locating = none := by decide +kernel
theorem wit_ManagerRequests_share : let w0 : Word := 0x000000000100100B
    let w1 : Word := 0x0000000003000000
    let f := bitsN w0 23 12
    f = 1 ∧ (sReq.vf f).sleeve = some 1 ∧ (sReq.sleeve 1).base ≤ bitsN w0 59 24 * 65536 ∧ bitsN w1 59 24 * 65536 ≤ (sReq.sleeve 1).limit ∧
    ¬ bitsN (0x4000000 : Word) 59 24 * 65536 ≤ (sReq.sleeve 1).limit := by decide +kernel
theorem wit_ManagerRequests_about : sReq.booted = true ∧ (req 0).vf = 0 ∧ (req 1).vf ≠ 0 ∧ (sReq.vf 1).enabled = true ∧
    (sReq.vf 1).resetting = false ∧ sReq.tdiLocked 1 = false ∧ (locked sReq).tdiLocked 1 = true ∧ sleeveNo 1 = true ∧ sleeveNo 63 = true ∧
    sleeveNo 64 = false := by decide +kernel
theorem wit_ManagerRequests_join : let z := sReq.sleeve 1
    z.kind = 2 ∧ (sReq.vf 1).sleeve = some 1 ∧ z.base ≤ 0x20000 ∧ 0x30000 ≤ z.limit ∧ sReq.joined 1 = [1] ∧ sReq.ctxsOf 1 = [] := by decide +kernel
theorem wit_ManagerRequests_table : sReq.tableAt 0x40000000 3 4 (sReq.vf 1).root = some 0x40000000 ∧ isDevice (entryPa 0x40000000 3 0x40000000) = true ∧
    sReq.uncorrAt (entryPa 0x40000000 3 0x40000000) 8 = false ∧ (sReq.begun (req 0)).externalWaits 1 = [] := by decide +kernel
/-- Function 1 with a load in a queue, and a request in the mailbox. -/
def sOld : State := { asked 2 0x0208 sReq with ctxs := [({ kRun with vf := 1 } : Ctx).upSeq .x fun q => { q with loadQ := [eLd] }] }
theorem wit_ManagerRequests_dirty : isOk ((sReq.begun (req 0)).fwWrite 0 0x4000 3 (bitBytes [false] 1)).2 = true ∧ (0x10000 : Word).toNat < 2 ^ 56 ∧
    (sReq.oldUse (.all (req 0) 0x020A 1)) = false ∧ (sOld.oldUse (.all (req 0) 0x020A 1)) = true := by decide +kernel
theorem wit_ManagerRequests_old : ∀ w ∈ [({ q := req 0, kind := 0x0208, vf := 1, lo := 0, size := 4096 } : PtWait), .all (req 0) 0x0209 1,
      MatEntry.wait { target := .hbm, unit := 0, index := 0, w0 := 0x100B, w1 := 0x2000000, shared := false } (req 0)],
    sOld.oldUse w = true ∧ (asked 2 0x0208 sReq).oldUse w = false := by decide +kernel
theorem wit_ManagerRequests_within : (sReq.vf 1).within 0x10000 0x20000 = true ∧ (sReq.vf 1).within 0x20000 0x30000 = false ∧
    sReq.withdrawn 1023 = true := by decide +kernel
theorem wit_ManagerRequests_wait : let c := { cmd0 7 (bodySig 0) with state := 2 }
    let s : State := { sReq with rings := sReq.rings ++ [{ ring0 with vf := 1, cmds := [c] }] }
    ((s.begun (req 0)).externalWaits 1).length = 1 := by decide +kernel
theorem wit_ManagerRequests_sleeve : (∀ n ∈ [1, 63], sleeveNo n = true) ∧ sReq.joined 2 = [] ∧ sReq.joined 1 ≠ [] ∧
    (∀ y ∈ sReq.sleeves, y.num ≠ 2 → y.kind ≠ 0 → (∀ c ∈ coresOf 2, c ∉ y.cores) ∧ spansMeet 0x30000 0x40000 y.base y.limit = false) ∧
    (State.reset.vf 0).sleeve = none ∧ sReq.tdiLocked 0 = false := by decide +kernel
theorem wit_ManagerRequests_mat : let w : Word := 0x000000100000100B
    bitsN w 23 12 = 1 ∧ bitN w 3 = true ∧ (sReq.vf 1).winBase ≤ bitsN w 59 24 * 65536 ∧ bitsN (0x2000000 : Word) 59 24 * 65536 ≤ (sReq.vf 1).winLimit ∧
    ¬ (sReq.vf 1).winBase ≤ bitsN (0x100B : Word) 59 24 * 65536 ∧ 0 < matUnits .hbm ∧ sReq.mat = [] ∧ bitN (0 : Word) 3 = false := by decide +kernel
theorem wit_ManagerRequests_fault : let r : FaultRec := { num := 4, vf := 0, ctx := 0, va := 0x10000, need := 0, tide := 0 }
    let s : State := { sReq with faults := [r], ctxs := [{ kRun with run := .paging 4 }] }
    (∃ r ∈ s.faults, r.num = 4) ∧ (s.ctx 0).run = .paging 4 ∧ (∀ r ∈ s.faults, r.num ≠ 5) := by decide +kernel

/-- A context of function 1, which may be debugged. -/
def sDbg (run : Run) (dbgen : Bool) : State :=
  { sReq.upVf 1 fun v => { v with dbgen := dbgen } with
    ctxs := [{ kRun with vf := 1, run := run, iter := some iter0, csr := { Csrs.zero with splimit := 1, codebase := 0x1FC00000000, codebound := 0x1FC00000100 } }],
    launches := [launch0], code := [(0x1FC00000000, 5)] }
theorem wit_ServiceRequests_debug : (∀ run ∈ [Run.halted, .saved, .running], (sDbg run true).booted = true ∧ ((sDbg run true).vf 1).dbgen = true ∧
      ((sDbg run true).ctx 0).run = run ∧ (sDbg run true).tdiLocked 1 = false ∧ ((sDbg run true).vf 1).resetting = false) ∧
    ((sDbg .halted false).vf 1).dbgen = false ∧ (let s := sDbg .halted true
    (s.ctx 0).saved = false ∧ (s.ctx 0).was = none ∧ (s.ctx 0).stand = .halted ∧ 16376 + 8 ≤ ((s.ctx 0).endBlk - (s.ctx 0).baseBlk) * 16384 ∧ s.isShared 0x1FC00000000 = false ∧
    (s.ctx 0).codeAt 0x1FC00000000 = true ∧ ({ s with sharedCode := [(0x1FC00000000, 0x1FC00000008)] } : State).isShared 0x1FC00000000 = true ∧
    (s.ctx 0).iter = some iter0 ∧ s.launch? 0 = some launch0 ∧ launch0.status = none) := by decide +kernel
/-- A tile of the allotment, and a context that was saved while it was halted. -/
theorem wit_ServiceRequests_tile : (let k : Ctx := { kRun with run := .halted, csr := { Csrs.zero with accmap := 0x200000 } }
    31 < k.acount ∧ k.abase + 31 < 32 ∧ k.coreNo < 128 ∧ k.saved = false) ∧
    ({ kRun with run := .saved, was := some .halted } : Ctx).stand = .halted ∧ kRun.stand ≠ .halted := by decide
theorem wit_ServiceRequests_lists : ({ sReq with pflog := [] } : State).pflog = [] ∧ ({ sReq with pflog := [.raw [1]] } : State).pflog = .raw [1] :: [] ∧ 127 < unitCount .core ∧
    23 < unitCount .quay ∧ 1023 < unitCount .channel ∧ (sReq.placements.find? fun p => p.ring = 15 && p.record = 0) = none := by decide +kernel
/-- A capture of one region, whose digest is sixty-four bytes of 7; its launch ran on core 0 of the function's two. -/
def rec2 : List Byte := natBytes 208 8 ++ natBytes 1 2 ++ zeros 6 ++ slotB 1 (bodyLaunch 16) ++ List.replicate 64 7
def sLocate (cores : List Nat) : State :=
  let s := sReq.upVf 0 fun v => { v with sleeve := some 0 }
  { s with mem := ((keyed 0x100 rec2).filter fun e => e.2 ≠ 0) ++ pages, sleeves := [{ sleeve0 with cores := [0, 1, 2] }],
           placements := [{ ring := 15, vf := 0, record := 0, cores := cores }] }
theorem wit_ServiceRequests_locate : (let s := asked 4 0x0405 (sLocate [0])
    let a := s.begun (req 0)
    let p : Placement := { ring := 15, vf := 0, record := 0, cores := [0] }
    s.locating = none ∧ s.placement? 0 15 0 = some p ∧ s.placement? 0 15 1 = none ∧ (a.findRecord 0 0x100 0).2 = some 0x100 ∧
    (a.findRecord 0 0x100 0).1.cleanSets p = some ([1], [2]) ∧ (s.asking (req 0) 4 0x0405).isSome = true) ∧
    (sLocate [0, 1]).cleanSets { ring := 15, vf := 0, record := 0, cores := [0, 1] } = none ∧ ((sLocate [0]).findRecord 0 0x1000000000 1).2 = none := by
  decide +kernel
/-- A search whose replay has ended, and one that is to start. -/
def atReplay (phase : Nat) (ref : List (List Byte)) (started : Bool) : Locating :=
  { q := req 0, ring := 15, vf := 0, bufva := 0x100, record := 0, seq := 9, q2 := [2], set := [0], phase := phase, cores := [0], started := started, ref := ref }
def sReplayed (x : Locating) : State :=
  let c : Cmd := { Cmd.accept 0 16 9 0 (zeros 128) with state := 2, launch := some 0 }
  { sLocate [0] with rings := [{ Ring.reset 0 16 with cmds := [c] }], launches := [{ launch0 with retired := 1 }], locating := some x }
theorem wit_ServiceRequests_search : (∀ n ∈ [0, 1, 2, 3], ∀ d ∈ ([[], [[7]]] : List (List (List Byte))), let x := atReplay n d true
    let s := sReplayed x
    s.locating = some x ∧ ((s.ring 0 fwRing).cmd? 9).map (fun c => c.final || c.graph.isSome || !c.regs.isEmpty) = some false ∧
    (((s.ring 0 fwRing).cmd? 9).bind fun c => s.cmdOver c) = some (3, 0, 0, 0) ∧ ((s.releaseVf 0).regionDigests 0 []).2 = [] ∧
    0 ∈ ((s.releaseVf 0).regionDigests 0 []).1.sleeveCores 0 ∧ ((s.releaseVf 0).regionDigests 0 []).1.placement? 0 15 0 = some { ring := 15, vf := 0, record := 0, cores := [0] }) ∧
    ((sReplayed (atReplay 0 [] false)).core 0).leased = false ∧ ((sReplayed (atReplay 0 [] false)).core 0).leasePending = false ∧
    (let s := (sReplayed (atReplay 0 [] false)).upCore 0 fun h => { h with leased := true }
    0 ∈ (atReplay 0 [] false).cores ∧ (s.core 0).leased = true) := by decide +kernel
theorem wit_ServiceRequests_function : let s : State := { sReq with sessions := [{ vf := 1, num := 6, done := true }] }
    (∃ x ∈ s.sessions, x.num = 6 ∧ x.done = true ∧ (x.vf = 1 ∨ x.vf = 0)) ∧ (s.vf 1).stopReq = none ∧ s.tdiLocked 1 = false ∧ s.ctxsOf 1 = [] ∧ (s.vf 1).berths = [] ∧
    (∀ r ∈ s.rings, r.vf = 1 → r.en = false) ∧ (∀ x ∈ s.sessions, x.num = 5 → x.done = false) ∧ ((vgetD s.quays 23 Quay.reset).shares.map (·.2)).sum + 240 ≤ 240 ∧
    ((vgetD s.quays 23 Quay.reset).shares.length < 64) ∧ s.ctxs = [] := by decide +kernel
theorem wit_ServiceRequests_comm : comm0.ranks.length = 2 ∧ (∀ r ∈ comm0.ranks, r.die < 8) := by decide

theorem wit_ResetAndPower_boot : BootObs.clean.badImage = none ∧ BootObs.clean.badChannels = [] ∧ BootObs.clean.failed = [] ∧ BootObs.clean.sweep = [] ∧ BootObs.clean.silent = [] ∧ State.reset.badImages = [] ∧
    BootObs.clean.quayUp = List.range 24 ∧ State.reset.retired = [] ∧ ({ BootObs.clean with badImage := some 3 } : BootObs).badImage = some 3 ∧
    State.reset.powerOn = true ∧ ({ State.reset with badImages := [3], imageOk := [3] } : State).imageOk = [3] ∧ (UnitKind.core, 5).2 < unitCount .core := by decide
theorem wit_ResetAndPower_rails : (∀ k ∈ [0, 1, 2, 3, 4], ({ State.reset with rails := railOrder.take k } : State).rails = [Rail.auxiliary, .hbm, .core, .serdes].take k) ∧
    State.reset.bootObs = BootObs.clean ∧ State.reset.tide < (State.reset.powerWindow + 1) * 2 ^ 20 ∧
    (let s : State := { State.reset with tide := 2 ^ 20 }
    (s.powerWindow + 1) * 2 ^ 20 ≤ s.tide) := by decide
theorem wit_ResetAndPower_retired :
    let r : Retired := { kind := .core, unit := 127, tide := 0, patset := 0, score := 0, digest := [] }
    r ∈ ({ State.reset with retired := [r] } : State).retired ∧ r.kind = .core ∧ r.unit < 128 := by decide
theorem wit_ResetAndPower_function : sReq.booted = true ∧ (sReq.vf 1).enabled = true ∧ (∀ e ∈ sReq.vfs, e.2.enabled = true → e.1 ≤ 4095) ∧
    ({ State.reset with booted := false } : State).booted = false := by decide +kernel

/-! ## Words and their decoding: each word is written out from the spec's field tables (R75, R79, R81, R83 to R88 and the rule of the
instruction), no operand at zero where another value is admitted. -/

def gb : Guard := { boost := 2, gn := true, gp := 5 }
def wordsOk (l : List (Word × Instr)) : Bool := l.all fun e => decide (getOk (decode e.1) = some e.2)

/-- R75, R83, R108: D 1, A 30, B 7; the guard !p5, boost level 2. -/
theorem test_words_arith_1 : wordsOk [
    (0x00B43E3800000000, .add gb 1 30 7),
    (0x00B43E3900000000, .sub gb 1 30 7),
    (0x00B43E3A00000000, .and gb 1 30 7),
    (0x00B43E3B00000000, .or gb 1 30 7),
    (0x00B43E3C00000000, .xor gb 1 30 7),
    (0x00B43E3D00000000, .shl gb 1 30 7),
    (0x00B43E3E00000000, .shr gb 1 30 7),
    (0x00B43E3F00000000, .sar gb 1 30 7),
    (0x01B43E3800000000, .mul gb 1 30 7),
    (0x01B43E3900000000, .mulhu gb 1 30 7),
    (0x01B43E3A00000000, .mulhs gb 1 30 7),
    (0x01B43E3B00000000, .divu gb 1 30 7)] = true := by decide +kernel

/-- R75, R83, R108: D 1, A 30, B 7; the guard !p5, boost level 2. -/
theorem test_words_arith_2 : wordsOk [
    (0x01B43E3C00000000, .remu gb 1 30 7),
    (0x02B43E3800000000, .min gb 1 30 7),
    (0x02B43E3900000000, .max gb 1 30 7),
    (0x02B43E3A00000000, .minu gb 1 30 7),
    (0x02B43E3B00000000, .maxu gb 1 30 7)] = true := by decide +kernel

/-- R83, R109 to R113. -/
theorem test_words_fields_1 : wordsOk [
    (0x0301310000000000, .clz g0 9 17),
    (0x0301310100000000, .popc g0 9 17),
    (0x03013102000007E1, .bfx g0 9 17 33 31 false),
    (0x0301310200003000, .bfx g0 9 17 0 64 true),
    (0x0301310300000EC5, .bfi g0 9 17 5 59),
    (0x0400430080000001, .addi g0 2 3 0x80000001),
    (0x05004300000000FF, .andi g0 2 3 0xFF),
    (0x06004300000000F0, .ori g0 2 3 0xF0),
    (0x0700430000000001, .xori g0 2 3 1),
    (0x08004000FFFFFFFF, .li g0 2 0xFFFFFFFF),
    (0x0900430012345678, .lih g0 2 3 0x12345678),
    (0x0A00430000000000, .mov g0 2 3)] = true := by decide +kernel

/-- R83, R109 to R113. -/
theorem test_words_fields_2 : wordsOk [
    (0x0B0085300000000F, .sel g0 4 5 6 7 true),
    (0x0C00C8F800000000, .cmpEq g0 6 8 31),
    (0x0C00C8F900000000, .cmpNe g0 6 8 31),
    (0x0C00C8FA00000000, .cmpLt g0 6 8 31),
    (0x0C00C8FB00000000, .cmpLe g0 6 8 31),
    (0x0C00C8FC00000000, .cmpLtu g0 6 8 31),
    (0x0C00C8FD00000000, .cmpLeu g0 6 8 31),
    (0x0D00221800000001, .pand g0 1 2 3 true false),
    (0x0D00221900000002, .por g0 1 2 3 false true),
    (0x0D00220200000000, .pnot g0 1 2)] = true := by decide +kernel

/-- R84, R118 to R139. -/
theorem test_words_control_1 : wordsOk [
    (0x20006400FFFFFFFE, .pbt g0 3 4 0xFFFFFFFE),
    (0x210040000000002E, .bt g0 2 2 true 6),
    (0x2200E00000000003, .call g0 7 3),
    (0x2300070000000000, .ret g0 7),
    (0x24006000FFFFFF00, .loop g0 3 0 0x7FFFFF 256),
    (0x2400250000000001, .loop g0 1 5 0 1),
    (0x2508000000000000, .brk ⟨0, false, 2⟩),
    (0x2600000000000000, .trig g0),
    (0x2700000000000000, .exit g0),
    (0x2820000000000000, .nop ⟨0, true, 0⟩),
    (0x2900000000000000, .cmtb g0),
    (0x2900000100000000, .clrb g0)] = true := by decide +kernel

/-- R84, R118 to R139. -/
theorem test_words_control_2 : wordsOk [
    (0x2A00221800000001, .vany g0 1 2 3 true),
    (0x2A00220100000000, .vall g0 1 2 0 false)] = true := by decide +kernel

/-- R84, R85, R146 to R152. -/
theorem test_words_memory_1 : wordsOk [
    (0x30408909FFFFFFF0, .ld ⟨1, false, 0⟩ 4 9 1 true false 0 0xFFFFFFF0),
    (0x3000899000000008, .ld g0 4 9 0 false true 4 8),
    (0x3101C95A0000000C, .st g0 9 11 2 true 3 12),
    (0x3200890900000006, .lds g0 4 9 1 true 6),
    (0x3300095B00000018, .sts g0 9 11 3 24),
    (0x3400000000000000, .mark g0),
    (0x3500000200000001, .fence g0 2 true),
    (0x36006C200000000A, .amoAdd g0 3 12 4 2 true),
    (0x36006C210000000A, .amoAnd g0 3 12 4 2 true),
    (0x36006C220000000A, .amoOr g0 3 12 4 2 true),
    (0x36006C230000000A, .amoXor g0 3 12 4 2 true),
    (0x36006C240000000A, .amoMin g0 3 12 4 2 true)] = true := by decide +kernel

/-- R84, R85, R146 to R152. -/
theorem test_words_memory_2 : wordsOk [
    (0x36006C250000000A, .amoMax g0 3 12 4 2 true),
    (0x36006C260000000A, .amoMinu g0 3 12 4 2 true),
    (0x36006C270000000A, .amoMaxu g0 3 12 4 2 true),
    (0x37006C2000000004, .amoSwap g0 3 12 4 4 false),
    (0x37006C2100000009, .cas g0 3 12 4 1 true)] = true := by decide +kernel

/-- R84, R86, R153 to R175, R264. -/
theorem test_words_sync_1 : wordsOk [
    (0x4000000000000C51, .tkwait g0 1 5 12),
    (0x4100000000000009, .tkpost g0 9),
    (0x4200640000000000, .fqpush g0 3 4),
    (0x4300640000000000, .sqpush g0 3 4 0),
    (0x4300640100000000, .sqpush g0 3 4 1),
    (0x4400600000000000, .ypop g0 3),
    (0x4500640000000000, .qcancel g0 3 4),
    (0x460000000007FFFF, .barInit g0 127 0xFFF),
    (0x4600A00100000002, .barArv g0 5 2),
    (0x4600060200000002, .barExp g0 0 6 2 false),
    (0x4600060300000002, .barWait g0 6 2),
    (0x4600A60400000002, .barTest g0 5 6 2)] = true := by decide +kernel

/-- R84, R86, R153 to R175, R264. -/
theorem test_words_sync_2 : wordsOk [
    (0x4700A00000000000, .tideRd g0 5),
    (0x4700050100000000, .tideBase g0 5),
    (0x480000000001FFFF, .regionTimed g0 0xFFFF true),
    (0x4800000100000000, .regionLocked g0),
    (0x5000A0000000003F, .csrr g0 5 0x03F),
    (0x5100050000000010, .csrw g0 5 0x010),
    (0x5200000000000000, .syscInfo g0 0),
    (0x5200000000000001, .syscLog g0),
    (0x5200000000000002, .syscPrefault g0),
    (0x5200000000000003, .syscYield g0),
    (0x520000000000004D, .syscInfo g0 77),
    (0x530000000000ABCD, .trap g0 0xABCD)] = true := by decide +kernel

/-- R84, R86, R153 to R175, R264. -/
theorem test_words_sync_3 : wordsOk [
    (0x54000000FFFFFFFF, .bkpt g0 0xFFFFFFFF),
    (0x5F0064280000003F, .opbind g0 3 4 5 63)] = true := by decide +kernel

/-- R79, R88, R177 to R198: waits LC, none, 12; post 9; stamp 0x3FFF. -/
theorem test_words_matrix_1 : wordsOk [
    (0x6050C9FFFFF07FFF, .mma ⟨5, 0, 12, 9, 0x3FFF⟩ 63 1 31 0x1FF),
    (0x6150C9FFFC5BFA40, .mmaS ⟨5, 0, 12, 9, 0x3FFF⟩ 5 2 127 9),
    (0x6250C9FFFC5FA600, .mmaC ⟨5, 0, 12, 9, 0x3FFF⟩ 5 31 9 64),
    (0x6350C9FFFC009801, .accZero ⟨5, 0, 12, 9, 0x3FFF⟩ 9 0x801),
    (0x6450C9FFFC54E400, .accLd ⟨5, 0, 12, 9, 0x3FFF⟩ 5 9 100),
    (0x6550C9FFFC54E4A0, .accRd ⟨5, 0, 12, 9, 0x3FFF⟩ 5 9 100 2 true),
    (0x6650C9FFFC54E400, .accRdx ⟨5, 0, 12, 9, 0x3FFF⟩ 5 9 100),
    (0x6750C9FFFC000261, .accRebase ⟨5, 0, 12, 9, 0x3FFF⟩ 9 33),
    (0x6850C9FFFCE98000, .accWm ⟨5, 0, 12, 9, 0x3FFF⟩ 7 9 128),
    (0x6950C9FFFCE90005, .accStat ⟨5, 0, 12, 9, 0x3FFF⟩ 7 9 5),
    (0x6A50C9FFFCF07C00, .tdRd ⟨5, 0, 12, 9, 0x3FFF⟩ 7 true 31),
    (0x6B50C9FFFC0FFC11, .tfillZero ⟨5, 0, 12, 9, 0x3FFF⟩ 0x3FF 17)] = true := by decide +kernel

/-- R79, R88, R177 to R198: waits LC, none, 12; post 9; stamp 0x3FFF. -/
theorem test_words_matrix_2 : wordsOk [
    (0x6B50C9FFFD7008D1, .tfillConst ⟨5, 0, 12, 9, 0x3FFF⟩ 7 2 6 17),
    (0x6B50C9FFFE300811, .tfillIdent ⟨5, 0, 12, 9, 0x3FFF⟩ 3 2 17)] = true := by decide +kernel

/-- R88, R204 to R229: D 8 (of VCMP condition and m), A 21, mask m3; VTRN takes no mask. -/
theorem test_words_vector_1 : wordsOk [
    (0x7050C9FFFC810020, .vshape ⟨5, 0, 12, 9, 0x3FFF⟩ 0x810020),
    (0x7150C9FFFD084C36, .vld ⟨5, 0, 12, 9, 0x3FFF⟩ 8 false 33 6 1 true 3),
    (0x7250C9FFFD10C120, .vst ⟨5, 0, 12, 9, 0x3FFF⟩ 8 true 3 0 9 false 0),
    (0x7350C9FFFD150496, .vmov ⟨5, 0, 12, 9, 0x3FFF⟩ ⟨8, 21, 0, 9, 0, true, 3⟩),
    (0x7450C9FFFD150396, .vbcast ⟨5, 0, 12, 9, 0x3FFF⟩ ⟨8, 21, 0, 7, 0, true, 3⟩),
    (0x7550C9FFFD151856, .vadd ⟨5, 0, 12, 9, 0x3FFF⟩ ⟨8, 21, 3, 0, 2, true, 3⟩),
    (0x7650C9FFFD1518F6, .vsub ⟨5, 0, 12, 9, 0x3FFF⟩ ⟨8, 21, 3, 1, 3, true, 3⟩),
    (0x7750C9FFFD151936, .vmul ⟨5, 0, 12, 9, 0x3FFF⟩ ⟨8, 21, 3, 2, 1, true, 3⟩),
    (0x7850C9FFFD151816, .vfma ⟨5, 0, 12, 9, 0x3FFF⟩ ⟨8, 21, 3, 0, 0, true, 3⟩),
    (0x7950C9FFFD151D36, .vmin ⟨5, 0, 12, 9, 0x3FFF⟩ ⟨8, 21, 3, 10, 1, true, 3⟩),
    (0x7A50C9FFFD151816, .vmax ⟨5, 0, 12, 9, 0x3FFF⟩ ⟨8, 21, 3, 0, 0, true, 3⟩),
    (0x7B50C9FFFD1504B6, .vabs ⟨5, 0, 12, 9, 0x3FFF⟩ ⟨8, 21, 0, 9, 1, true, 3⟩)] = true := by decide +kernel

/-- R88, R204 to R229: D 8 (of VCMP condition and m), A 21, mask m3; VTRN takes no mask. -/
theorem test_words_vector_2 : wordsOk [
    (0x7C50C9FFFD150116, .vneg ⟨5, 0, 12, 9, 0x3FFF⟩ ⟨8, 21, 0, 2, 0, true, 3⟩),
    (0x7D50C9FFFD151896, .vand ⟨5, 0, 12, 9, 0x3FFF⟩ ⟨8, 21, 3, 1, 0, true, 3⟩),
    (0x7E50C9FFFD151D16, .vor ⟨5, 0, 12, 9, 0x3FFF⟩ ⟨8, 21, 3, 10, 0, true, 3⟩),
    (0x7F50C9FFFD151816, .vxor ⟨5, 0, 12, 9, 0x3FFF⟩ ⟨8, 21, 3, 0, 0, true, 3⟩),
    (0x8050C9FFFD151B96, .vshl ⟨5, 0, 12, 9, 0x3FFF⟩ ⟨8, 21, 3, 7, 0, true, 3⟩),
    (0x8150C9FFFD151D36, .vshr ⟨5, 0, 12, 9, 0x3FFF⟩ ⟨8, 21, 3, 10, 1, true, 3⟩),
    (0x8250C9FFFD151D56, .viadd ⟨5, 0, 12, 9, 0x3FFF⟩ ⟨8, 21, 3, 10, 2, true, 3⟩),
    (0x8350C9FFFD151CF6, .vimul ⟨5, 0, 12, 9, 0x3FFF⟩ ⟨8, 21, 3, 9, 3, true, 3⟩),
    (0x8450C9FFFF351D36, .vcmp ⟨5, 0, 12, 9, 0x3FFF⟩ ⟨25, 21, 3, 10, 1, true, 3⟩),
    (0x8550C9FFFD151816, .vsel ⟨5, 0, 12, 9, 0x3FFF⟩ ⟨8, 21, 3, 0, 0, true, 3⟩),
    (0x8750C9FFFD154016, .vred ⟨5, 0, 12, 9, 0x3FFF⟩ ⟨8, 21, 8, 0, 0, true, 3⟩),
    (0x8850C9FFFD15B536, .vscan ⟨5, 0, 12, 9, 0x3FFF⟩ ⟨8, 21, 22, 10, 1, true, 3⟩)] = true := by decide +kernel

/-- R88, R204 to R229: D 8 (of VCMP condition and m), A 21, mask m3; VTRN takes no mask. -/
theorem test_words_vector_3 : wordsOk [
    (0x8A50C9FFFD151916, .vperm ⟨5, 0, 12, 9, 0x3FFF⟩ ⟨8, 21, 3, 2, 0, true, 3⟩),
    (0x9050C9FFFD150016, .vrcp ⟨5, 0, 12, 9, 0x3FFF⟩ ⟨8, 21, 0, 0, 0, true, 3⟩),
    (0x9150C9FFFD150016, .vrsq ⟨5, 0, 12, 9, 0x3FFF⟩ ⟨8, 21, 0, 0, 0, true, 3⟩),
    (0x9250C9FFFD151836, .vrcps ⟨5, 0, 12, 9, 0x3FFF⟩ ⟨8, 21, 3, 0, 1, true, 3⟩),
    (0x9350C9FFFD151856, .vrsqs ⟨5, 0, 12, 9, 0x3FFF⟩ ⟨8, 21, 3, 0, 2, true, 3⟩),
    (0x9450C9FFFD150076, .vexp2 ⟨5, 0, 12, 9, 0x3FFF⟩ ⟨8, 21, 0, 0, 3, true, 3⟩),
    (0x9550C9FFFD150036, .vlog2 ⟨5, 0, 12, 9, 0x3FFF⟩ ⟨8, 21, 0, 0, 1, true, 3⟩),
    (0x8950C9FFFD150380, .vtrn ⟨5, 0, 12, 9, 0x3FFF⟩ ⟨8, 21, 0, 7, 0, false, 0⟩),
    (0x8650C9FFFF454C26, .vcvt ⟨5, 0, 12, 9, 0x3FFF⟩ true 40 21 3 0 2 1 true),
    (0x8B50C9FFFD15197C, .vext ⟨5, 0, 12, 9, 0x3FFF⟩ 8 21 3 2 31)] = true := by decide +kernel

/-- R88, R235 to R259, R81. -/
theorem test_words_copy : wordsOk [
    (0x980004280000003F, .twdef g0 4 5 63),
    (0x9900040000000006, .agset g0 4 6),
    (0x9A0000000000AAE9, .spbindIn g0 1 2 true 3 5 1 true),
    (0x9A0000010000001F, .spbindOut g0 3 7 0),
    (0x9A00000200000002, .spbindOff g0 2),
    (0x9B50C900008537FE, .cpy ⟨5, 0, 12, 9, 0⟩ 4 5 6 3 127 true),
    (0x9C50C90001868000, .cpyNd ⟨5, 0, 12, 9, 0⟩ 1 33 5 0 0 false),
    (0x9C50C9000002E0F0, .cpyNd ⟨5, 0, 12, 9, 0⟩ 0 0 5 6 7 true),
    (0xA80064280001FFFF, .collStart g0 3 4 5 0xFFFF true),
    (0xFF1234FEDCBA9876, .uop 0xFF 1 2 3 4 0xFEDCBA9876)] = true := by decide +kernel


/-! ## Ill-formed terms: at least one for each check of the well-formedness predicate, which refuses it; words with the same fault in a
field do not decode. -/

def yn : Sync := { w0 := 0, w1 := 0, w2 := 0, pq := 0, stamp := 0 }
def g3 : Guard := { boost := 3, gn := false, gp := 0 }
def g1 : Guard := { boost := 1, gn := false, gp := 0 }
def vo (vb : BitVec 5) (vf : BitVec 4) (md : BitVec 2) (mken : Bool := false) (mm : BitVec 3 := 0) : VOp := ⟨1, 2, vb, vf, md, mken, mm⟩
def illFormed (l : List Instr) : Bool := l.all fun i => !i.wf
def wellFormed (l : List Instr) : Bool := l.all Instr.wf

/-- BOOST 3 (R75), a boost where R87 allows none, POS and LEN out of range (R109). -/
theorem test_illFormed_scalar : illFormed [.add g3 1 2 3, .bkpt g1 0, .exit g1, .bfx g0 1 2 0 0 false, .bfx g0 1 2 0 65 false,
    .bfi g0 1 2 33 32, .addi g3 1 2 0, .li g3 1 0, .sel g3 1 2 3 0 false, .cmpEq g3 1 2 3, .pand g3 1 2 3 false false] = true := by decide

/-- COMMIT 3 (R120), BODYLEN 0 and 257, an ICOUNT beside a register count (R124), a mask register without MASKED (R139). -/
theorem test_illFormed_control : illFormed [.bt g0 1 3 false 0, .loop g0 0 0 10 0, .loop g0 0 0 10 257, .loop g0 0 5 1 4,
    .vany g0 1 2 3 false, .vall g0 1 2 1 false, .pbt g1 0 0 0, .call g1 0 0, .ret g1 0, .brk g1, .trig g1, .cmtb g1] = true := by decide

/-- U on a load of 8 bytes, ACQ under boost, a scope without its flag, scopes 5 to 7 (R85, R87). -/
theorem test_illFormed_memory : illFormed [.ld g0 1 2 3 true false 0 0, .ld g1 1 2 3 false true 0 0, .ld g0 1 2 3 false false 1 0,
    .ld g0 1 2 3 false true 5 0, .st g0 1 2 3 false 2 0, .st g0 1 2 3 true 6 0, .lds g0 1 2 3 true 0, .fence g0 7 false,
    .amoAdd g0 1 2 3 5 true, .cas g0 1 2 3 7 false, .st g1 1 2 0 false 0 0, .sts g1 1 2 0 0] = true := by decide

/-- Queue codes 13 to 15 and a post of none (R30, R86), EXPECT 0 and D without ARV (R162), a CSR number that R35 does not list, the
numbers of LOG, PREFAULT and YIELD under INFO (R173). -/
theorem test_illFormed_sync : illFormed [.tkwait g0 13 0 0, .tkwait g0 0 14 0, .tkwait g0 0 0 15, .tkpost g0 0, .tkpost g0 13,
    .barInit g0 1 0, .barExp g0 4 5 1 false, .csrr g0 1 0x00F, .csrw g0 1 0x01E, .csrr g0 1 0x040, .syscInfo g0 1, .syscInfo g0 2,
    .syscInfo g0 3, .fqpush g1 1 2, .qcancel g1 1 2, .tideRd g1 1, .trap g1 0] = true := by decide

/-- N 0 of a rebase (R194), ROW above 128 (R177), an index of a tile above 31 (R177), formats without a plain layout, IDENT counts that Q does not divide (R198),
shapes of R17, wait and post codes (R79). -/
theorem test_illFormed_matrix : illFormed [.accRebase yn 1 0, .accWm yn 1 2 129, .tdRd yn 1 true 32, .tfillConst yn 5 0 1 0,
    .tfillConst yn 12 0 1 0, .tfillIdent yn 6 0 0, .tfillIdent yn 0 0 2, .tfillIdent yn 1 0 2, .vshape yn 0xC10020, .vshape yn 0x010000,
    .vshape yn 0x000020, .vshape yn 0x010021, .vshape yn 0x200C01, .mma { yn with w1 := 13 } 0 0 0 0, .accLd { yn with pq := 15 } 0 0 0] = true := by decide

/-- Formats, modifiers and masks of the vector words (R204 to R224). -/
theorem test_illFormed_vector : illFormed [.vld yn 1 true 4 0 0 false 0, .vld yn 1 true 0 1 0 false 0, .vst yn 1 false 4 0 3 false 0,
    .vld yn 1 false 4 0 0 false 2, .vmov yn (vo 1 0 0), .vbcast yn (vo 0 0 1), .vadd yn (vo 1 7 0), .viadd yn (vo 1 0 0), .viadd yn (vo 1 7 3),
    .vshr yn (vo 1 7 2), .vshl yn (vo 1 7 1), .vmin yn (vo 1 0 1), .vmax yn (vo 1 7 2), .vabs yn (vo 1 0 0), .vneg yn (vo 0 7 3), .vand yn (vo 1 7 1),
    .vcmp yn ⟨0x11, 2, 3, 0, 1, false, 0⟩, .vcmp yn ⟨0x01, 2, 3, 7, 1, false, 0⟩, .vcmp yn ⟨0x11, 2, 3, 7, 2, false, 0⟩, .vsel yn (vo 1 0 0),
    .vsel yn (vo 1 0 1 true 3), .vxor yn (vo 1 11 0), .vmul yn (vo 1 0 0 false 1)] = true := by decide

/-- Formats of VCVT (R218), the fields of VRED and VSCAN (R220), the masks and modifiers of the moves and of the special functions (R223, R224). -/
theorem test_illFormed_vector_2 : illFormed [.vcvt yn false 0x20 1 0 1 0 0 false, .vcvt yn false 1 1 0 1 0 0 true, .vcvt yn false 1 1 3 1 0 0 false,
    .vcvt yn true 1 1 11 1 0 0 false, .vcvt yn true 1 1 3 3 0 0 false, .vred yn (vo 24 0 0), .vred yn (vo 1 0 0), .vred yn (vo 2 0 0),
    .vred yn (vo 8 0 1), .vscan yn (vo 8 7 2), .vtrn yn (vo 0 0 0 true 0), .vtrn yn (vo 1 0 0), .vperm yn (vo 1 0 1), .vext yn 1 2 3 5 0,
    .vrcp yn (vo 1 0 0), .vrsq yn (vo 0 0 1), .vrcps yn (vo 1 1 0), .vrsqs yn (vo 1 0 0 false 1), .vexp2 yn (vo 1 0 0), .vlog2 yn (vo 0 1 0)] = true := by decide

/-- Formats and layouts of SPBIND (R242), STAMP, MODE and fields that a mode does not use (R245, R246), opcodes below 0xC0 (R81). -/
theorem test_illFormed_copy : illFormed [.twdef g1 1 2 3, .agset g1 1 2, .spbindIn g0 0 0 false 0 12 0 false, .spbindIn g0 0 0 false 0 0 3 false,
    .spbindOut g0 0 0 15, .spbindOff g1 0, .cpy { yn with stamp := 1 } 1 2 3 0 0 false, .cpy yn 1 2 3 0 4 false, .cpyNd yn 3 0 0 0 0 false,
    .cpyNd yn 0 1 0 0 0 false, .cpyNd yn 2 0 1 0 0 false, .cpyNd yn 1 0 0 1 0 false, .cpyNd yn 0 0 0 0 1 false, .cpyNd { yn with stamp := 2 } 0 0 0 0 0 false,
    .collStart g1 1 2 3 0 false, .uop 0xBF 0 0 0 0 0, .uop 0xC0 13 0 0 0 0, .uop 0xC0 0 0 0 14 0, .opbind g1 1 2 3 0] = true := by decide

/-- The same terms with the field at the edge of what is admitted are well formed. -/
theorem test_wellFormed : wellFormed [.bfx g0 1 2 0 64 false, .loop g0 0 5 0 256, .ld g0 1 2 3 false true 4 0, .tkpost g0 12, .csrr g0 1 0x03F,
    .accWm yn 1 2 128, .tdRd yn 1 true 31, .tfillIdent yn 0 0 3, .vshape yn 0x810020, .vshape yn 0x200001, .vcmp yn ⟨0x11, 2, 3, 7, 1, false, 0⟩, .viadd yn (vo 1 7 2),
    .vcvt yn true 1 1 10 1 0 0 false, .vscan yn (vo 0x16 7 1), .cpyNd yn 1 63 7 0 0 false, .uop 0xC0 12 0 0 0 0] = true := by decide


/-! ## Values: the worked examples of the spec. -/

/-- The example of R109: bits [19:8] of 0xABC123, sign extended. -/
theorem test_bfx_example :
    (match exec (.bfx g0 3 4 8 12 true) (mk1 (setX kRun .x [(4, 0xABC123)]) .x) with
      | .next t => (t.seq 0 .x).rx 3 | _ => 0) = 0xFFFFFFFFFFFFFBC1 := by decide +kernel

/-- The example of R41: 0x5C in E4M3 is 24 and in E5M2 is 256; 0x03 in E4M3 is 3 × 2^−9. -/
theorem test_decodeFloat_example : (roundInt 0 (match decodeFloat 3 0x5C with | .fin m e => m * 2 ^ (e + 40).toNat | _ => 0) (-40)).1 = 24 ∧
    (match decodeFloat 4 0x5C with | .fin m e => m * 2 ^ (e + 40).toNat | _ => 0) = 2 ^ 48 ∧
    (match decodeFloat 3 0x03 with | .fin m e => m * 2 ^ (e + 40).toNat | _ => 0) = 3 * 2 ^ 31 := by decide +kernel

/-- The example of a block of accumulator values to TAGGED E4M3: scale 0x76, elements 7E F2 02 78 and zeros, IX and UF. -/
theorem test_blockConvert_example :
    blockConvert ([.fin 7 (-3), .fin (-39) (-7), .fin 5 (-19), .fin 1 (-1)] ++ List.replicate 28 (.zero false)) 3 false 0 0 =
      some (0x76, [0x7E, 0xF2, 0x02, 0x78] ++ List.replicate 28 0, 3) := by decide +kernel

/-- The example of the overflow policies: amax 0.9375 saturates, becomes a NaN element, spoils an E2M1 block, and traps. -/
theorem test_blockConvert_policies : (blockConvert [.fin 15 (-4)] 3 false 0 0).map (fun r => (r.1, r.2.1)) = some (0x76, [0x7E]) ∧
    (blockConvert [.fin 15 (-4)] 3 false 0 1).map (fun r => (r.1, r.2.1)) = some (0x76, [0x7F]) ∧
    (blockConvert [.fin 15 (-4)] 6 false 0 0).map (fun r => (r.1, r.2.1)) = some (0x7C, [7]) ∧
    (blockConvert [.fin 15 (-4)] 6 false 0 2).map (fun r => (r.1, r.2.1)) = some (0xFF, [0]) ∧
    blockConvert [.fin 15 (-4)] 6 false 0 3 = none := by decide +kernel

/-- The example of the residue chapter: the four products with 60 zeros at anchor −8 give −600, its residues, its check, its count and INX,
and BF16 0xC016. -/
theorem test_residue_example :
    let z : List Machine.Num := List.replicate 60 (.zero false)
    let r := dotTerms (-8) ([.fin 3 (-1), .fin 1 (-9), .fin (-3) 0, .fin 1 (-2)] ++ z) ([.fin 3 (-2), .fin 1 (-1), .fin 9 (-3), .fin (-3) (-3)] ++ z)
      (Elem.zero, TileFlags.none')
    r.1.crt = -600 ∧ r.1.c1 = 0x1FFDA7 ∧ r.1.c2 = 0x1FFDA8 ∧ r.1.c3 = 0x1FFDA9 ∧ r.1.check = 153 ∧ r.1.count = 64 ∧ r.2.inx = true ∧
    r.1.checks = true ∧ (roundTo (r.1.value (-8)) 1 0 0 false).1.val = 0xC016 := by decide +kernel

/-- The example of window w7: element (3, 40) lies at scratchpad offset 0x20318. -/
theorem test_window_example : let w : Win := { Win.undef with w0 := 0x0000000200007080, w1 := 0x0000000001000018 }
    w.ok = true ∧ w.rows = 24 ∧ w.kext = 256 ∧ w.at (w.elemOff 3 40).1 = 0x20318 := by decide +kernel

/-- The examples of VRCP and VRCPS: 1/3 to the table's value without a flag, and one step to 1.0 with IX. -/
theorem test_rcp_example : rcpElem false 0x40400000 = (0x3EAAAAAA, 0) ∧ rcpsElem 0 false 0x40400000 0x3EAAAAAA = (0x3F800000, flagIX) := by decide +kernel

/-! ## A copy without a slot (R247) -/

/-- A core that holds 48 copies has no room, whether the word has taken its tokens or not. -/
theorem wit_Copies_slot : (let s := mk1 { kCp with copies := List.replicate 48 copy0 } .l
    s.turnOf 0 .l = true ∧ s.quiet 0 .l = true ∧ (s.seq 0 .l).marks = [] ∧ s.copyRoom 0 = false ∧ (s.ctx 0).canTake (syncWaits y0) = true ∧
    (s.ctx 0).posts = []) ∧
    (let i : Instr := .cpy y0 5 6 7 2 0 false
     let k := kCp.upSeq .l fun q => { q with stall := some (wordOf i, .slot) }
     decide ((k.seq .l).stall = some (wordOf i, .slot)) = true) := by decide

/-! ## Base routines (R284) -/

/-- The micro-word at `slab`, as R284 gives it, and the record of its second example: the MMA.S of R189 stopped at slab 10 of sixteen. -/
theorem test_base_slab : State.reset.baseWord 0x603 = 0x20301800000004400000000014840001 := by decide +kernel
theorem test_base_record :
    let m := State.reset.baseRun (BitVec.ofNat 64 (512 * 2 ^ 20), 0) 16 13 (Micro.start (wordOf (.mmaS y0 10 1 127 6)))
    m.mpc = 0x613 ∧ m.steps = 13 ∧ m.t 1 = 16 ∧ m.t 2 = 10 ∧ m.mlc0 = 6 ∧ m.mlc1 = 0 ∧ m.slabs = 10 ∧ m.active = true ∧ m.base = true ∧
    m.z = false ∧ m.n = false ∧ m.c = false := by decide +kernel

/-! ## The link layer (R427) -/

/-- The check value of CRC-32C, of the digits 1 to 9, and a flit read back from its 256 bytes. -/
theorem test_crc : crc32c ((List.range 9).map fun i => BitVec.ofNat 8 (0x31 + i)) = 0xE3069283 := by decide +kernel
theorem test_flit_bytes : let f := { flit 3 1 0xABC with aseq := 0x123, credVc := 2, cred := 5, payload := fit flitPayload [7] }
    flitOf (flitHead f ++ zeros 4) = f ∧ (flitHead f).length = 252 := by decide +kernel

end Sys2Proof.Tests
end

section
namespace Sys2Proof

/-! ## Decoding an X-format word (R75, R91) -/

/-- No field offends exactly when none of those judged is refused. -/
theorem highestBad_eq_none (l : List (Nat × Bool)) : highestBad l = none ↔ ∀ p ∈ l, p.2 = false := by
  induction l with
  | nil => simp [highestBad]
  | cons p rest ih =>
    obtain ⟨lo, b⟩ := p
    cases h : highestBad rest with
    | none => cases b <;> simp_all [highestBad]
    | some m =>
      have hne : ¬∀ p ∈ rest, p.2 = false := fun hn => by simp [ih.2 hn] at h
      have hsome : highestBad ((lo, b) :: rest) ≠ none := by
        simp only [highestBad, h]
        split <;> simp
      simp_all

/-- The field found is one that offends. -/
theorem mem_of_highestBad_eq_some {l : List (Nat × Bool)} {n : Nat} (h : highestBad l = some n) : (n, true) ∈ l := by
  induction l generalizing n with
  | nil => simp [highestBad] at h
  | cons p rest ih =>
    obtain ⟨lo, b⟩ := p
    cases hr : highestBad rest with
    | none => cases b <;> simp_all [highestBad]
    | some m =>
      simp only [highestBad, hr] at h
      split at h
      · rename_i hb
        simp_all
      · exact List.mem_cons_of_mem _ (Option.some.inj h ▸ ih hr)

/-- Where all that offends has one low bit, and something offends, that bit is found. -/
theorem highestBad_eq_some {l : List (Nat × Bool)} {n : Nat} (hn : ∀ p ∈ l, p.2 = true → p.1 = n) (hl : ¬∀ p ∈ l, p.2 = false) :
    highestBad l = some n := by
  rw [← highestBad_eq_none] at hl
  obtain ⟨m, hm⟩ := Option.ne_none_iff_exists'.1 hl
  rw [hm, ← hn _ (mem_of_highestBad_eq_some hm) rfl]

/-- A major opcode of the X format and of no other. -/
def onlyX (o : Nat) : Bool := isXOpc o && !isEOpc o && !isUOpc o

theorem onlyX_iff (o : Nat) : onlyX o = true ↔ reservedOpc o = false ∧ isEOpc o = false ∧ isUOpc o = false := by
  cases hx : isXOpc o <;> cases he : isEOpc o <;> cases hu : isUOpc o <;> simp [onlyX, reservedOpc, hx, he, hu]

section
variable {w : Word} (hx : onlyX (fld w 56 8).toNat = true)
include hx

/-- A word of the X format is judged by BOOST and its own fields. -/
theorem reservedDetail_x {l : List (Nat × Bool)} (hf : fieldsX w = some l) :
    reservedDetail w = highestBad ((54, fld w 54 2 == 3) :: l) := by
  obtain ⟨-, he, hu⟩ := (onlyX_iff _).1 hx
  simp only [reservedDetail, he, hu, hf, Bool.false_eq_true, if_false]

/-- A word of the X format has no reserved field exactly when BOOST is not 3 and none of its own fields is refused. -/
theorem reservedDetail_eq_none {l : List (Nat × Bool)} (hf : fieldsX w = some l) :
    reservedDetail w = none ↔ fld w 54 2 ≠ 3 ∧ ∀ p ∈ l, p.2 = false := by
  rw [reservedDetail_x hx hf, highestBad_eq_none]
  simp

/-- A word with BOOST 3 or a refused field is rejected for it. -/
theorem decode_reserved (hr : reservedDetail w ≠ none) : ∃ d, decode w = .error (.reservedField d) := by
  obtain ⟨ho, -, -⟩ := (onlyX_iff _).1 hx
  obtain ⟨d, hd⟩ := Option.ne_none_iff_exists'.1 hr
  exact ⟨d, by simp only [decode, ho, hd, Bool.false_eq_true, if_false]⟩

/-- A word with a reserved SUB has a reserved field. -/
theorem decode_reservedSub (hf : fieldsX w = none) : ∃ d, decode w = .error (.reservedField d) := by
  obtain ⟨-, he, hu⟩ := (onlyX_iff _).1 hx
  refine decode_reserved hx ?_
  simp only [reservedDetail, he, hu, hf, Bool.false_eq_true, if_false]
  split <;> simp

/-- An X-format word with allowed fields is the instruction that its opcode and SUB name, unless that may not be boosted and is. -/
theorem decode_of_fields {i : Instr} (hr : reservedDetail w = none) (hi : buildX w = some i) :
    decode w = if i.boosted && !i.boostable then .error .boostIllegal else .ok i := by
  obtain ⟨ho, he, hu⟩ := (onlyX_iff _).1 hx
  simp only [decode, ho, he, hu, hr, hi, Bool.false_eq_true, if_false]

/-- A word of R87 decodes exactly when BOOST is not 3 and none of its fields is refused; any other has a reserved field. -/
theorem decode_boostable {i : Instr} {l : List (Nat × Bool)} {P : Prop} [Decidable P] (hf : fieldsX w = some l)
    (hi : buildX w = some i) (hb : i.boostable = true) (hP : P ↔ fld w 54 2 ≠ 3 ∧ ∀ p ∈ l, p.2 = false) :
    if P then decode w = .ok i else ∃ d, decode w = .error (.reservedField d) := by
  rw [← reservedDetail_eq_none hx hf] at hP
  split
  · rename_i h
    simp [decode_of_fields hx (hP.1 h) hi, hb]
  · rename_i h
    exact decode_reserved hx fun hr => h (hP.2 hr)

end

end Sys2Proof

namespace Sys2Proof.Machine

/-! ## A register-to-register word that completes or meets a marked register -/

/-- A word whose destination is an x register puts its value there and completes. -/
theorem runAlu_putX {i : Instr} {g : Guard} {xs : List (BitVec 5)} {ps : List (BitVec 3)} {d : BitVec 5}
    {val : (BitVec 5 → Word) → (BitVec 3 → Bool) → Word} {s : State} {c : Nat} {st : Stream} {v : Word}
    (h : s.runs c st g xs [d] = true) (hv : val (s.seq c st).rx (s.seq c st).rp = v) :
    runAlu i g xs ps (.x d) val s = .next (s.putX c st d v) := by
  subst hv
  exact runAlu_runs i g xs ps (.x d) val h

/-- A word whose destination is a predicate puts the truth of its value there and completes. -/
theorem runAlu_putP {i : Instr} {g : Guard} {xs : List (BitVec 5)} {ps : List (BitVec 3)} {d : BitVec 3}
    {val : (BitVec 5 → Word) → (BitVec 3 → Bool) → Word} {s : State} {c : Nat} {st : Stream} {v : Bool}
    (h : s.runs c st g xs [] = true) (hv : val (s.seq c st).rx (s.seq c st).rp = ofBool v) :
    runAlu i g xs ps (.p d) val s = .next (s.putP c st d v) := by
  rw [runAlu_runs i g xs ps (.p d) val h, hv]
  cases v <;> rfl

/-- A word that may stand in a boost span and in a slot, and reads a marked register, traps with MEM_UNCORR at the address of the oldest
marked load (R145). -/
theorem runSeq_marked (i : Instr) {g : Guard} {xs ws : List (BitVec 5)} (body : Nat → Stream → State → Res) {s : State} {c : Nat}
    {st : Stream} {m : Mark} (ht : s.turnOf c st = true) (hg : (s.seq c st).rp g.gp ≠ g.gn) (ho : ∀ r, owed (s.seq c st) r = false)
    (he : engineBusy (s.ctx c) st xs ws = false) (hm : markOf (s.seq c st) xs = some m) :
    runSeq i g true false xs ws body s = .next (s.trapAt c st i (mkCause causeMemUncorr m.addr)) := by
  obtain ⟨-, b, hb⟩ := turnOf_turn ht
  unfold State.seq at hg ho hm
  simp [runSeq, hb, hg, ho, he, hm]

end Sys2Proof.Machine
end

section
namespace Sys2Proof.Machine

/-! ## Two-operand instructions (R108) -/

/-- The words of R108: IMM is the one field judged, and D, A and B name the registers. -/
theorem fields_twoOperand (w : Word) : ∀ p ∈ [(0, 0, Instr.add), (0, 1, .sub), (0, 2, .and), (0, 3, .or), (0, 4, .xor), (0, 5, .shl),
      (0, 6, .shr), (0, 7, .sar), (1, 0, .mul), (1, 1, .mulhu), (1, 2, .mulhs), (1, 3, .divu), (1, 4, .remu), (2, 0, .min), (2, 1, .max),
      (2, 2, .minu), (2, 3, .maxu)],
    (fld w 56 8).toNat = p.1 → (fld w 32 3).toNat = p.2.1 → onlyX p.1 = true ∧ fieldsX w = some [(0, fld w 0 32 != 0)] ∧
      buildX w = some (p.2.2 (guardOf w) (fld w 45 5) (fld w 40 5) (fld w 35 5)) ∧
      (p.2.2 (guardOf w) (fld w 45 5) (fld w 40 5) (fld w 35 5)).boostable = true := by
  simp only [List.forall_mem_cons]
  refine ⟨?_, ?_, ?_, ?_, ?_, ?_, ?_, ?_, ?_, ?_, ?_, ?_, ?_, ?_, ?_, ?_, ?_, by simp⟩ <;> intro ho hs <;>
    refine ⟨rfl, ?_, ?_, rfl⟩ <;> simp only [fieldsX, buildX, ho, hs]

/-- The two-operand instructions of R108, each with what it computes of xA and xB. -/
def twoOperand (g : Guard) (d a b : BitVec 5) : List (Instr × (Word → Word → Word)) :=
  [(.add g d a b, fun x y => x + y), (.sub g d a b, fun x y => x - y), (.and g d a b, fun x y => x &&& y),
   (.or g d a b, fun x y => x ||| y), (.xor g d a b, fun x y => x ^^^ y), (.shl g d a b, fun x y => x <<< shCount y),
   (.shr g d a b, fun x y => x >>> shCount y), (.sar g d a b, fun x y => x.sshiftRight (shCount y)), (.mul g d a b, fun x y => x * y),
   (.mulhu g d a b, mulHiU), (.mulhs g d a b, mulHiS), (.divu g d a b, divU), (.remu g d a b, remU),
   (.min g d a b, fun x y => if x.slt y then x else y), (.max g d a b, fun x y => if x.slt y then y else x),
   (.minu g d a b, fun x y => if x.ult y then x else y), (.maxu g d a b, fun x y => if x.ult y then y else x)]

/-- A two-operand instruction reads xA and xB and writes xD. -/
theorem exec_twoOperand (g : Guard) (d a b : BitVec 5) : ∀ p ∈ twoOperand g d a b, ∀ s,
    exec p.1 s = runAlu p.1 g [a, b] [] (.x d) (fun x _ => p.2 (x a) (x b)) s := by
  simp only [twoOperand, List.forall_mem_cons]
  exact ⟨fun _ => rfl, fun _ => rfl, fun _ => rfl, fun _ => rfl, fun _ => rfl, fun _ => rfl, fun _ => rfl, fun _ => rfl, fun _ => rfl,
    fun _ => rfl, fun _ => rfl, fun _ => rfl, fun _ => rfl, fun _ => rfl, fun _ => rfl, fun _ => rfl, fun _ => rfl, by simp⟩

/-- The unsigned quotient is that of bit vectors where the divisor is not 0. -/
theorem divU_eq (x y : Word) : divU x y = if y = 0 then BitVec.allOnes 64 else x / y := by
  unfold divU
  congr 1
  exact BitVec.eq_of_toNat_eq (by
    rw [BitVec.toNat_ofNat, BitVec.toNat_udiv, Nat.mod_eq_of_lt (Nat.lt_of_le_of_lt (Nat.div_le_self ..) x.isLt)])

/-- The unsigned remainder is that of bit vectors, the dividend for a divisor of 0 as well. -/
theorem remU_eq (x y : Word) : remU x y = if y = 0 then x else x % y := by
  unfold remU
  congr 1
  exact BitVec.eq_of_toNat_eq (by
    rw [BitVec.toNat_ofNat, BitVec.toNat_umod, Nat.mod_eq_of_lt (Nat.lt_of_le_of_lt (Nat.mod_le ..) x.isLt)])

/-- It is the same to choose by a test and by a weaker one, where the choices are equal between the two. -/
theorem ite_eq_ite_of_imp {p q : Prop} [Decidable p] [Decidable q] {u v : Word} (hpq : p → q) (huv : q → ¬p → u = v) :
    (if p then u else v) = if q then u else v := by
  by_cases hp : p
  · rw [if_pos hp, if_pos (hpq hp)]
  · rw [if_neg hp]
    split
    · rename_i hq
      exact (huv hq hp).symm
    · rfl

theorem ite_slt_eq_ite_le {x y u v : Word} (h : x = y → u = v) : (if x.slt y then u else v) = if x.toInt ≤ y.toInt then u else v := by
  simp only [BitVec.slt_eq_decide, decide_eq_true_eq]
  exact ite_eq_ite_of_imp Int.le_of_lt fun hle hlt => h (BitVec.eq_of_toInt_eq (Int.le_antisymm hle (Int.not_lt.1 hlt)))

theorem ite_ult_eq_ite_le {x y u v : Word} (h : x = y → u = v) : (if x.ult y then u else v) = if x ≤ y then u else v := by
  simp only [BitVec.ult_eq_decide, decide_eq_true_eq, BitVec.le_def]
  exact ite_eq_ite_of_imp Nat.le_of_lt fun hle hlt => h (BitVec.eq_of_toNat_eq (Nat.le_antisymm hle (Nat.not_lt.1 hlt)))

/-- Settles O11: the table of the words gives the encodings, that of the meanings the results and the traps. -/
theorem scalarArithmetic : Obligations.ScalarArithmetic := by
  unfold Obligations.ScalarArithmetic
  refine ⟨fun w p hp ho hs => ?_, fun s c st g d a b h => ?_, fun s c st g d a b m ht hb hg _ ho he hm i hi => ?_⟩
  · obtain ⟨hx, hf, hi, hbo⟩ := fields_twoOperand w p hp ho hs
    exact decode_boostable (ho ▸ hx) hf hi hbo (by simp)
  · have hput : ∀ p ∈ twoOperand g d a b, exec p.1 s = .next (s.putX c st d (p.2 ((s.seq c st).rx a) ((s.seq c st).rx b))) :=
      fun p hp => (exec_twoOperand g d a b p hp s).trans (runAlu_putX h rfl)
    simpa only [twoOperand, List.forall_mem_cons, List.not_mem_nil, false_implies, implies_true, and_true, divU_eq, remU_eq, shCount,
      mulHiU, mulHiS, ite_slt_eq_ite_le id, ite_slt_eq_ite_le Eq.symm, ite_ult_eq_ite_le id, ite_ult_eq_ite_le Eq.symm] using hput
  · obtain ⟨p, hp, rfl⟩ : ∃ p ∈ twoOperand g d a b, p.1 = i := List.mem_map.1 hi
    rw [exec_twoOperand g d a b p hp, runAlu_unboosted _ _ _ _ _ _ _ hb]
    exact runSeq_marked _ _ ht hg ho he hm

end Sys2Proof.Machine
end

section
namespace Sys2Proof.Machine

/-! ## Single-operand and field instructions (R109) -/

theorem fld_one_eq_zero (w : Word) (i : Nat) : fld w i 1 = 0 ↔ bit w i = false := by
  constructor
  · intro h
    simpa using congrArg (·.getLsbD 0) h
  · intro h
    ext j hj
    obtain rfl : j = 0 := by omega
    simpa using h

theorem badPosLen_eq_false (pos : BitVec 6) (len : BitVec 7) :
    badPosLen pos len = false ↔ 1 ≤ len.toNat ∧ len.toNat ≤ 64 ∧ pos.toNat + len.toNat ≤ 64 := by
  simp only [badPosLen, Bool.or_eq_false_iff, decide_eq_false_iff_not]
  omega

/-- The bits from the highest down that `clzFrom` counts are 0, and the next one is 1. -/
theorem clzFrom_spec (w : Word) (n : Nat) : clzFrom w n ≤ n ∧ (∀ i < n, n - clzFrom w n ≤ i → w.getLsbD i = false) ∧
    (clzFrom w n < n → w.getLsbD (n - 1 - clzFrom w n) = true) := by
  induction n with
  | zero => simp [clzFrom]
  | succ n ih =>
    obtain ⟨hle, hzero, hone⟩ := ih
    unfold clzFrom
    split
    · rename_i h
      refine ⟨by omega, fun i hi hn => absurd hn (by omega), fun _ => by simpa using h⟩
    · rename_i h
      refine ⟨by omega, fun i hi hn => ?_, fun hn => ?_⟩
      · rcases Nat.lt_succ_iff_lt_or_eq.1 hi with hi | rfl
        · exact hzero i hi (by omega)
        · simpa using h
      · rw [show n + 1 - 1 - (clzFrom w n + 1) = n - 1 - clzFrom w n by omega]
        exact hone (by omega)

/-- `popFrom` counts the one bits. -/
theorem popFrom_eq_countP (w : Word) (n : Nat) : popFrom w n = (List.range n).countP fun i => w.getLsbD i := by
  induction n with
  | zero => rfl
  | succ n ih =>
    rw [List.range_succ, List.countP_append, ← ih, popFrom, Nat.add_comm]
    cases h : w.getLsbD n <;> simp [h, b2n]

/-- A field is the bits of the word at its place, zero- or sign-extended. -/
theorem fieldOf_eq_extend (w : Word) (pos len : Nat) (sx : Bool) :
    fieldOf w pos len sx = if sx then (w.extractLsb' pos len).signExtend 64 else (w.extractLsb' pos len).setWidth 64 := by
  have hf : w.toNat / 2 ^ pos % 2 ^ len = (w.extractLsb' pos len).toNat := by
    rw [BitVec.extractLsb'_toNat, Nat.shiftRight_eq_div_pow]
  simp only [fieldOf, hf]
  generalize w.extractLsb' pos len = f
  have hm : f.toNat / 2 ^ (len - 1) % 2 = 1 ↔ f.msb = true := by
    rw [BitVec.msb_eq_getLsbD_last, BitVec.getLsbD, Nat.testBit_eq_decide_div_mod_eq, decide_eq_true_eq]
  cases sx with
  | false => simp
  | true =>
    cases hb : f.msb with
    | false => simp [hm, hb, BitVec.signExtend_eq_setWidth_of_msb_false hb]
    | true =>
      simp only [hm, hb, Bool.and_true, decide_true, if_true]
      rw [BitVec.signExtend, BitVec.toInt_eq_msb_cond, hb, if_pos rfl]

/-- The bits of a field: those of the word from its place on, then 0 or copies of its top bit. -/
theorem getLsbD_fieldOf (w : Word) (pos len : Nat) (sx : Bool) (hl : 0 < len) (i : Nat) (hi : i < 64) :
    (fieldOf w pos len sx).getLsbD i = if i < len then w.getLsbD (pos + i) else sx && w.getLsbD (pos + len - 1) := by
  rw [fieldOf_eq_extend]
  cases sx with
  | false => by_cases h : i < len <;> simp [h, hi]
  | true =>
    have : pos + (len - 1) = pos + len - 1 := by omega
    rw [if_pos rfl, BitVec.getLsbD_signExtend, BitVec.msb_eq_getLsbD_last]
    by_cases h : i < len
    · simp [h, hi]
    · have hlast : len - 1 < len := by omega
      simp [h, hi, this, hlast]

/-- A field inserted: the low bits of the value at its place, the old bits elsewhere. -/
theorem getLsbD_insertField (old v : Word) (pos len : Nat) (i : Nat) (hi : i < 64) :
    (insertField old v pos len).getLsbD i = if pos ≤ i ∧ i < pos + len then v.getLsbD (i - pos) else old.getLsbD i := by
  have hm : (BitVec.ofNat 64 ((2 ^ len - 1) * 2 ^ pos)).getLsbD i = decide (pos ≤ i ∧ i < pos + len) := by
    rw [BitVec.getLsbD_ofNat, Nat.testBit_mul_two_pow, Nat.testBit_two_pow_sub_one]
    simp only [hi, decide_true, Bool.true_and, Bool.decide_and]
    by_cases hp : pos ≤ i
    · simp only [hp, decide_true, Bool.true_and, decide_eq_decide]
      omega
    · simp [hp]
  simp only [insertField, BitVec.getLsbD_or, BitVec.getLsbD_and, BitVec.getLsbD_not, BitVec.getLsbD_shiftLeft, hm, hi, decide_true,
    Bool.true_and]
  by_cases hin : pos ≤ i ∧ i < pos + len
  · simp [hin, Nat.not_lt.2 hin.1]
  · simp [hin]

/-- The encodings of R109: each judges BOOST, B and what it leaves free of IMM; BFX and BFI judge POS and LEN. -/
theorem fields_field {w : Word} (ho : (fld w 56 8).toNat = 0x03) :
    ((fld w 32 3).toNat = 2 →
      fieldsX w = some [(35, fld w 35 5 != 0), (0, fld w 14 18 != 0), (0, badPosLen (fld w 0 6) (fld w 6 7))]) ∧
    ((fld w 32 3).toNat = 3 → fieldsX w =
      some [(35, fld w 35 5 != 0), (0, fld w 14 18 != 0), (0, fld w 13 1 != 0), (0, badPosLen (fld w 0 6) (fld w 6 7))]) := by
  constructor <;> intro hs <;> simp only [fieldsX, ho, hs]

/-- The instructions of R109 and R110 that read xA alone, each with what it computes of it. -/
def oneOperand (g : Guard) (d a : BitVec 5) (imm : BitVec 32) (pos : BitVec 6) (len : BitVec 7) (sx : Bool) : List (Instr × (Word → Word)) :=
  [(.clz g d a, fun x => BitVec.ofNat 64 (clzFrom x 64)), (.popc g d a, fun x => BitVec.ofNat 64 (popFrom x 64)),
   (.bfx g d a pos len sx, fun x => fieldOf x pos.toNat len.toNat sx), (.mov g d a, id), (.addi g d a imm, fun x => x + sext32 imm),
   (.andi g d a imm, fun x => x &&& sext32 imm), (.ori g d a imm, fun x => x ||| zext32 imm), (.xori g d a imm, fun x => x ^^^ zext32 imm),
   (.lih g d a imm, fun x => imm ++ x.extractLsb' 0 32)]

theorem exec_oneOperand (g : Guard) (d a : BitVec 5) (imm : BitVec 32) (pos : BitVec 6) (len : BitVec 7) (sx : Bool) :
    ∀ p ∈ oneOperand g d a imm pos len sx, ∀ s, exec p.1 s = runAlu p.1 g [a] [] (.x d) (fun x _ => p.2 (x a)) s := by
  simp only [oneOperand, List.forall_mem_cons]
  exact ⟨fun _ => rfl, fun _ => rfl, fun _ => rfl, fun _ => rfl, fun _ => rfl, fun _ => rfl, fun _ => rfl, fun _ => rfl, fun _ => rfl,
    by simp⟩

theorem exec_bfi (g : Guard) (d a : BitVec 5) (pos : BitVec 6) (len : BitVec 7) (s : State) :
    exec (.bfi g d a pos len) s =
      runAlu (.bfi g d a pos len) g [a, d] [] (.x d) (fun x _ => insertField (x d) (x a) pos.toNat len.toNat) s := rfl

theorem exec_li (g : Guard) (d : BitVec 5) (imm : BitVec 32) (s : State) :
    exec (.li g d imm) s = runAlu (.li g d imm) g [] [] (.x d) (fun _ _ => sext32 imm) s := rfl

/-- A word that names POS and LEN outside the register, or sets a bit of IMM that must be 0, offends in IMM with DETAIL 0 (R109). -/
theorem reservedDetail_field {w : Word} (ho : (fld w 56 8).toNat = 0x03) (hb : fld w 54 2 ≠ 3) (hr : fld w 35 5 = 0)
    (h : (fld w 32 3).toNat = 2 ∧ ¬(fld w 14 18 = 0 ∧ badPosLen (fld w 0 6) (fld w 6 7) = false) ∨
      (fld w 32 3).toNat = 3 ∧ ¬(fld w 14 18 = 0 ∧ fld w 13 1 = 0 ∧ badPosLen (fld w 0 6) (fld w 6 7) = false)) :
    reservedDetail w = some 0 := by
  have hb3 : ¬fld w 54 2 = 3#2 := hb
  rcases h with ⟨hs, h⟩ | ⟨hs, h⟩
  · rw [reservedDetail_x (ho ▸ rfl) ((fields_field ho).1 hs)]
    exact highestBad_eq_some (by simpa [hr] using hb) (by simpa [hb3, hr] using h)
  · rw [reservedDetail_x (ho ▸ rfl) ((fields_field ho).2 hs)]
    exact highestBad_eq_some (by simpa [hr] using hb) (by simpa [hb3, hr] using h)

/-- CLZ, POPC and MOV judge B and IMM. -/
theorem decode_plain {w : Word} {i : Instr} (hx : onlyX (fld w 56 8).toNat = true)
    (hf : fieldsX w = some [(35, fld w 35 5 != 0), (0, fld w 0 32 != 0)]) (hi : buildX w = some i) (hb : i.boostable = true) :
    if (fld w 54 2 ≠ 3 ∧ fld w 35 5 = 0) ∧ fld w 0 32 = 0 then decode w = .ok i else ∃ d, decode w = .error (.reservedField d) :=
  decode_boostable hx hf hi hb (by simp [and_assoc])

/-- Settles O12: the encodings field by field, then each result bit by bit. -/
theorem scalarFields : Obligations.ScalarFields := by
  unfold Obligations.ScalarFields
  refine ⟨fun w => ?_, fun s c st g d a imm pos len sx => ⟨fun h => ?_, fun h hb => ?_, fun h => (exec_li ..).trans (runAlu_putX h rfl)⟩⟩
  · dsimp only
    refine ⟨fun ho hs => ?_, fun ho hs => ?_, fun ho hs => ?_, fun ho hs => ?_, fun ho hok hs => ?_, fun ho hs => ?_⟩
    · exact decode_plain (ho ▸ rfl) (by simp only [fieldsX, ho, hs]) (by simp only [buildX, ho, hs]) rfl
    · exact decode_plain (ho ▸ rfl) (by simp only [fieldsX, ho, hs]) (by simp only [buildX, ho, hs]) rfl
    · exact decode_boostable (ho ▸ rfl) ((fields_field ho).1 hs) (by simp only [buildX, ho, hs]) rfl
        (by simp only [List.forall_mem_cons, bne_eq_false_iff_eq, List.not_mem_nil, false_implies, implies_true, and_true,
          badPosLen_eq_false, and_assoc])
    · exact decode_boostable (ho ▸ rfl) ((fields_field ho).2 hs) (by simp only [buildX, ho, hs]) rfl
        (by
          simp only [List.forall_mem_cons, bne_eq_false_iff_eq, List.not_mem_nil, false_implies, implies_true, and_true,
            badPosLen_eq_false, fld_one_eq_zero]
          exact ⟨fun ⟨⟨hb, hr⟩, ⟨hu, hl⟩, hx⟩ => ⟨hb, hr, hu, hx, hl⟩, fun ⟨hb, hr, hu, hx, hl⟩ => ⟨⟨hb, hr⟩, ⟨hu, hl⟩, hx⟩⟩)
    · refine reservedDetail_field ho hok.1 hok.2 ?_
      simp only [badPosLen_eq_false, fld_one_eq_zero]
      exact hs.imp_right fun ⟨h3, hn⟩ => ⟨h3, fun ⟨hu, hx, hl⟩ => hn ⟨⟨hu, hl⟩, hx⟩⟩
    · exact decode_plain (ho ▸ rfl) (by simp only [fieldsX, ho, hs]) (by simp only [buildX, ho, hs]) rfl
  · obtain ⟨hle, hzero, hone⟩ := clzFrom_spec ((s.seq c st).rx a) 64
    have hput : ∀ p ∈ oneOperand g d a imm pos len sx, exec p.1 s = .next (s.putX c st d (p.2 ((s.seq c st).rx a))) :=
      fun p hp => (exec_oneOperand g d a imm pos len sx p hp s).trans (runAlu_putX h rfl)
    simp only [oneOperand, List.forall_mem_cons] at hput
    obtain ⟨hclz, hpopc, hbfx, hmov, haddi, handi, hori, hxori, hlih, -⟩ := hput
    refine ⟨⟨clzFrom ((s.seq c st).rx a) 64, hclz, hle, fun i hi => ?_, hone⟩, popFrom_eq_countP _ 64 ▸ hpopc,
      fun hb => ⟨fieldOf ((s.seq c st).rx a) pos.toNat len.toNat sx, hbfx, ?_, ?_⟩, hmov, haddi, handi, hori, hxori, hlih⟩
    · exact (Nat.lt_or_ge i 64).elim (hzero i · hi) (BitVec.getLsbD_of_ge _ i)
    · obtain ⟨h1, h64, -⟩ := (badPosLen_eq_false pos len).1 hb
      intro i hi
      rw [getLsbD_fieldOf _ _ _ _ h1 i (by omega), if_pos hi]
    · obtain ⟨h1, h64, -⟩ := (badPosLen_eq_false pos len).1 hb
      intro i hi hli
      rw [getLsbD_fieldOf _ _ _ _ h1 i hi, if_neg (Nat.not_lt.2 hli)]
  · exact ⟨_, (exec_bfi ..).trans (runAlu_putX h rfl), getLsbD_insertField _ _ pos.toNat len.toNat⟩

end Sys2Proof.Machine
end

section
namespace Sys2Proof.Machine

/-! ## Compares, predicate logic and SEL (R111 to R113) -/

/-- The compares of R111: D[4:3] and IMM are the fields judged. -/
theorem fields_compare {w : Word} (ho : (fld w 56 8).toNat = 0x0C) :
    ∀ p ∈ [(0, Instr.cmpEq), (1, .cmpNe), (2, .cmpLt), (3, .cmpLe), (4, .cmpLtu), (5, .cmpLeu)], (fld w 32 3).toNat = p.1 →
      fieldsX w = some [(48, fld w 48 2 != 0), (0, fld w 0 32 != 0)] ∧
      buildX w = some (p.2 (guardOf w) (fld w 45 3) (fld w 40 5) (fld w 35 5)) ∧
      (p.2 (guardOf w) (fld w 45 3) (fld w 40 5) (fld w 35 5)).boostable = true := by
  simp only [List.forall_mem_cons]
  refine ⟨?_, ?_, ?_, ?_, ?_, ?_, by simp⟩ <;> intro hs <;> refine ⟨?_, ?_, rfl⟩ <;> simp only [fieldsX, buildX, ho, hs]

/-- PAND and POR (R112): bits [4:3] of D, A and B and IMM above its two inverters are the fields judged. -/
theorem fields_logic {w : Word} (ho : (fld w 56 8).toNat = 0x0D) : ∀ p ∈ [(0, Instr.pand), (1, .por)], (fld w 32 3).toNat = p.1 →
      fieldsX w = some [(48, fld w 48 2 != 0), (43, fld w 43 2 != 0), (38, fld w 38 2 != 0), (2, fld w 2 30 != 0)] ∧
      buildX w = some (p.2 (guardOf w) (fld w 45 3) (fld w 40 3) (fld w 35 3) (bit w 0) (bit w 1)) ∧
      (p.2 (guardOf w) (fld w 45 3) (fld w 40 3) (fld w 35 3) (bit w 0) (bit w 1)).boostable = true := by
  simp only [List.forall_mem_cons]
  refine ⟨?_, ?_, by simp⟩ <;> intro hs <;> refine ⟨?_, ?_, rfl⟩ <;> simp only [fieldsX, buildX, ho, hs]

/-- SUB values above 5 of the compares, above 2 of the predicate logic and above 0 of SEL are reserved. -/
theorem fields_reservedSub {w : Word} (h : (fld w 56 8).toNat = 0x0C ∧ 5 < (fld w 32 3).toNat ∨
    (fld w 56 8).toNat = 0x0D ∧ 2 < (fld w 32 3).toNat ∨ (fld w 56 8).toNat = 0x0B ∧ (fld w 32 3).toNat ≠ 0) : fieldsX w = none := by
  rcases h with ⟨ho, hs⟩ | ⟨ho, hs⟩ | ⟨ho, hs⟩
  · obtain ⟨n, hn⟩ := Nat.exists_eq_add_of_le' hs
    simp only [fieldsX, ho, hn]
  · obtain ⟨n, hn⟩ := Nat.exists_eq_add_of_le' hs
    simp only [fieldsX, ho, hn]
  · obtain ⟨n, hn⟩ := Nat.exists_eq_succ_of_ne_zero hs
    simp only [fieldsX, ho, hn]

/-- The compares, each with the truth that it writes. -/
def compares (g : Guard) (pd : BitVec 3) (a b : BitVec 5) : List (Instr × (Word → Word → Bool)) :=
  [(.cmpEq g pd a b, fun x y => x == y), (.cmpNe g pd a b, fun x y => x != y), (.cmpLt g pd a b, BitVec.slt),
   (.cmpLe g pd a b, BitVec.sle), (.cmpLtu g pd a b, BitVec.ult), (.cmpLeu g pd a b, BitVec.ule)]

theorem word_beq (x y : Word) : (x == y) = decide (x = y) := rfl

theorem exec_compares (g : Guard) (pd : BitVec 3) (a b : BitVec 5) : ∀ p ∈ compares g pd a b, ∀ s,
    exec p.1 s = runAlu p.1 g [a, b] [] (.p pd) (fun x _ => ofBool (p.2 (x a) (x b))) s := by
  simp only [compares, List.forall_mem_cons]
  exact ⟨fun _ => rfl, fun _ => rfl, fun _ => rfl, fun _ => rfl, fun _ => rfl, fun _ => rfl, by simp⟩

theorem exec_pand (g : Guard) (pd pa pb : BitVec 3) (na nb : Bool) (s : State) : exec (.pand g pd pa pb na nb) s =
    runAlu (.pand g pd pa pb na nb) g [] [pa, pb] (.p pd) (fun _ p => ofBool ((p pa != na) && (p pb != nb))) s := rfl

theorem exec_por (g : Guard) (pd pa pb : BitVec 3) (na nb : Bool) (s : State) : exec (.por g pd pa pb na nb) s =
    runAlu (.por g pd pa pb na nb) g [] [pa, pb] (.p pd) (fun _ p => ofBool ((p pa != na) || (p pb != nb))) s := rfl

theorem exec_pnot (g : Guard) (pd pa : BitVec 3) (s : State) :
    exec (.pnot g pd pa) s = runAlu (.pnot g pd pa) g [] [pa] (.p pd) (fun _ p => ofBool (!p pa)) s := rfl

theorem exec_sel (g : Guard) (d a b : BitVec 5) (pp : BitVec 3) (np : Bool) (s : State) : exec (.sel g d a b pp np) s =
    runAlu (.sel g d a b pp np) g [a, b] [pp] (.x d) (fun x p => if p pp != np then x a else x b) s := rfl

/-- Settles O13: the encodings by the fields that each word judges, the results by the truth that each word writes. -/
theorem predicateResults : Obligations.PredicateResults := by
  unfold Obligations.PredicateResults
  refine ⟨fun w => ?_, fun s c st g pd pa pb d a b na nb => ?_⟩
  · dsimp only
    refine ⟨fun p hp ho hs => ?_, fun p hp ho hs => ?_, fun ho hs => ?_, fun ho hs => ?_,
      fun ho hs => decode_reservedSub (ho ▸ rfl) (fields_reservedSub (.inl ⟨ho, hs⟩)),
      fun ho hs => decode_reservedSub (ho ▸ rfl) (fields_reservedSub (.inr (.inl ⟨ho, hs⟩))),
      fun ho hs => decode_reservedSub (ho ▸ rfl) (fields_reservedSub (.inr (.inr ⟨ho, hs⟩)))⟩
    · obtain ⟨hf, hi, hb⟩ := fields_compare ho p hp hs
      exact decode_boostable (ho ▸ rfl) hf hi hb (by simp)
    · obtain ⟨hf, hi, hb⟩ := fields_logic ho p hp hs
      exact decode_boostable (ho ▸ rfl) hf hi hb (by simp)
    · exact decode_boostable (ho ▸ rfl)
        (show fieldsX w = some [(48, fld w 48 2 != 0), (43, fld w 43 2 != 0), (35, fld w 35 5 != 0), (0, fld w 0 32 != 0)] by
          simp only [fieldsX, ho, hs])
        (by simp only [buildX, ho, hs]) rfl (by simp)
    · exact decode_boostable (ho ▸ rfl) (show fieldsX w = some [(4, fld w 4 28 != 0)] by simp only [fieldsX, ho, hs])
        (by simp only [buildX, ho, hs]) rfl (by simp)
  · refine ⟨fun h => ?_, fun h => ⟨?_, ?_, ?_⟩, fun h => ?_⟩
    · have hput : ∀ p ∈ compares g pd a b, exec p.1 s = .next (s.putP c st pd (p.2 ((s.seq c st).rx a) ((s.seq c st).rx b))) :=
        fun p hp => (exec_compares g pd a b p hp s).trans (runAlu_putP h rfl)
      simpa only [compares, List.forall_mem_cons, List.not_mem_nil, false_implies, implies_true, and_true, bne, word_beq,
        ne_eq, decide_not, BitVec.slt_eq_decide, BitVec.sle_eq_decide, BitVec.ult_eq_decide, BitVec.ule_eq_decide, BitVec.lt_def,
        BitVec.le_def] using hput
    · rw [exec_pand, runAlu_putP h rfl]
    · rw [exec_por, runAlu_putP h rfl]
    · rw [exec_pnot, runAlu_putP h rfl]
    · rw [exec_sel, runAlu_putX h rfl]

end Sys2Proof.Machine
end

section
namespace Sys2Proof.Machine

/-! ## What never changes the streams of a context: faults, stores at their home, journal writes -/

/-- What of a context its streams run on: the sequencers, the shadow levels and the iteration. -/
abbrev Ctx.streams (k : Ctx) : Seqs × Boost × Option Iter := (k.seqs, k.boost, k.iter)

/-- What `p` reads of a context, every context keeps. -/
def Keeps {α : Type} (p : Ctx → α) (s t : State) : Prop := t.ctxs.map p = s.ctxs.map p

namespace Keeps

variable {α : Type} {p : Ctx → α} {s t u : State}

theorem refl (s : State) : Keeps p s s := Eq.refl (s.ctxs.map p)

theorem trans (h : Keeps p s t) (h' : Keeps p t u) : Keeps p s u := Eq.trans h' h

theorem of_ctxs (h : t.ctxs = s.ctxs) : Keeps p s t := congrArg (List.map p) h

/-- What is read of what is kept is kept. -/
theorem comp {β : Type} (h : Keeps p s t) (f : α → β) : Keeps (fun k => f (p k)) s t := by
  have h' := congrArg (List.map f) h
  rwa [List.map_map, List.map_map] at h'

theorem length (h : Keeps p s t) : t.ctxs.length = s.ctxs.length := by
  simpa using congrArg List.length h

theorem ctx (h : Keeps p s t) (c : Nat) : p (t.ctx c) = p (s.ctx c) := by
  have hget (s : State) : p (s.ctx c) = (s.ctxs.map p).getD c (p Ctx.blank) := by
    rw [State.ctx, List.getD_eq_getElem?_getD, List.getD_eq_getElem?_getD, List.getElem?_map, Option.getD_map]
  rw [hget, hget, h]

/-- A change of one context that `p` does not see. -/
theorem upCtx (s : State) (c : Nat) {f : Ctx → Ctx} (hf : ∀ k, p (f k) = p k) : Keeps p s (s.upCtx c f) := by
  unfold Keeps State.upCtx
  refine List.ext_getElem (by simp) fun i _ _ => ?_
  by_cases hi : c = i <;> simp [hi, hf]

/-- A fold of operations that each keep it. -/
theorem foldl {β : Type} {f : State → β → State} (hf : ∀ s a, Keeps p s (f s a)) (l : List β) (s : State) :
    Keeps p s (l.foldl f s) := by
  induction l generalizing s with
  | nil => exact refl s
  | cons a l ih => exact (hf s a).trans (ih _)

end Keeps

/-- Every context keeps its streams. -/
abbrev SameStreams (s t : State) : Prop := Keeps Ctx.streams s t

theorem SameStreams.seq {s t : State} (h : SameStreams s t) (c : Nat) (st : Stream) : t.seq c st = s.seq c st :=
  congrArg (fun k => k.1.get st) (h.ctx c)

theorem SameStreams.iter {s t : State} (h : SameStreams s t) (c : Nat) : (t.ctx c).iter = (s.ctx c).iter := congrArg (·.2.2) (h.ctx c)

/-- A fault is recorded in its context, and leaves every stream alone. -/
theorem takeFault_sameStreams (s : State) (c : Nat) (f : Pending) : SameStreams s (takeFault s c f) := by
  unfold takeFault
  extract_lets s' strict
  have hs : SameStreams s s' := .of_ctxs (by unfold s'; split <;> rfl)
  clear_value s' strict
  refine hs.trans (.upCtx s' c fun k => ?_)
  extract_lets pend pcs
  clear_value pend pcs
  split <;> rfl

/-- A fold of operations that leave the contexts alone leaves them alone. -/
theorem foldl_ctxs {α : Type} {f : State → α → State} (hf : ∀ s a, (f s a).ctxs = s.ctxs) (l : List α) (s : State) :
    (l.foldl f s).ctxs = s.ctxs := by
  induction l generalizing s with
  | nil => rfl
  | cons a l ih => exact (ih _).trans (hf s a)

theorem requestLease_ctxs (s : State) (k : UnitKind) (u reason : Nat) : (s.requestLease k u reason).ctxs = s.ctxs := by
  unfold State.requestLease
  split
  · rfl
  · extract_lets
    split <;> rfl

theorem addScore_ctxs (s : State) (k : UnitKind) (u n : Nat) : (s.addScore k u n).ctxs = s.ctxs := by
  unfold State.addScore
  extract_lets
  split
  · exact requestLease_ctxs ..
  · rfl

theorem chargeUncorr_ctxs (s : State) (pa : Nat) : (s.chargeUncorr pa).ctxs = s.ctxs := by
  unfold State.chargeUncorr
  split
  · rfl
  · exact addScore_ctxs ..

theorem holdWait_ctxs (s : State) (key pa n : Nat) (store : Bool) : (s.holdWait key pa n store).ctxs = s.ctxs := by
  unfold State.holdWait
  split <;> rfl

theorem l2line_ctxs (s : State) (k key pa : Nat) (xs : List Nat) (store : Bool) : (s.l2line k key pa xs store).ctxs = s.ctxs := by
  unfold State.l2line
  extract_lets d i n add mark
  clear_value d i n mark
  split
  · rfl
  · rename_i u _ _
    have hu : u.ctxs = s.ctxs := by
      unfold u
      split <;> rfl
    clear_value u
    split
    · exact hu
    · extract_lets v w
      show v.ctxs = s.ctxs
      refine Eq.trans ?_ hu
      unfold v
      split <;> rfl

theorem rekey_ctxs (s : State) (key sec : Nat) : (s.rekey key sec).ctxs = s.ctxs := by
  unfold State.rekey
  extract_lets
  split <;> rfl

theorem pokeHome_ctxs (s : State) (key pa : Nat) (bs : List Byte) : (s.pokeHome key pa bs).ctxs = s.ctxs := by
  unfold State.pokeHome
  split
  · exact foldl_ctxs (fun s x => rekey_ctxs s key x) _ s
  · rfl

theorem askPeer_ctxs (s : State) (vf pa n op code : Nat) (data : List Byte) (who : Option (Nat × Nat)) :
    (s.askPeer vf pa n op code data who).ctxs = s.ctxs := by
  unfold State.askPeer
  split
  · rfl
  · split <;> rfl

/-- A store at its home changes no context. -/
theorem homeStore_ctxs (s : State) (cls key : Nat) (die : Option Nat) (vf pa : Nat) (bs : List Byte) :
    (s.homeStore cls key die vf pa bs).1.ctxs = s.ctxs := by
  unfold State.homeStore
  extract_lets n secs covered
  clear_value n secs covered
  split
  · split
    · rfl
    · exact foldl_ctxs (fun s x => askPeer_ctxs ..) _ s
  split
  · rfl
  · rename_i s1 s2 s3 lines s4 _ _
    have h1 : s1.ctxs = s.ctxs := by
      unfold s1
      split
      · exact (foldl_ctxs (fun s x => l2line_ctxs ..) _ _).trans (holdWait_ctxs ..)
      · rfl
    have h4 : s4.ctxs = s2.ctxs := by
      unfold s4
      split <;> rfl
    exact h4.trans ((pokeHome_ctxs ..).trans h1)

/-- A core's store that performs at its home leaves the streams alone: an uncorrectable error of it is a fault (R145). -/
theorem storeHome_sameStreams (s : State) (core : Nat) (e : CStore) : SameStreams s (s.storeHome core e) := by
  unfold State.storeHome
  extract_lets vf bad
  have hbad : SameStreams s bad := by
    refine Keeps.trans (.of_ctxs ?_) (takeFault_sameStreams ..)
    split
    · exact chargeUncorr_ctxs ..
    · rfl
  have hhome := homeStore_ctxs s (s.classOf vf) e.key (some (dieOf core)) vf e.pa e.bytes
  split
  · rename_i h
    rw [h] at hhome
    exact .of_ctxs hhome
  · exact hbad

theorem flush_sameStreams (s : State) (core : Nat) (sel : CStore → Bool) : SameStreams s (s.flush core sel) :=
  Keeps.trans (.of_ctxs rfl) (.foldl (fun s e => storeHome_sameStreams s core e) _ _)

theorem sendHome_sameStreams (s : State) (c : Nat) (st : Stream) (e : Nat) : SameStreams s (s.sendHome c st e) := by
  unfold State.sendHome
  split
  · exact .refl s
  · exact flush_sameStreams ..

end Sys2Proof.Machine
end

section
namespace Sys2Proof.Machine

/-! ## Firmware accesses and the journal leave the streams alone -/

theorem walkTouch_ctxs (s : State) (va lvl table : Nat) : (s.walkTouch va lvl table).ctxs = s.ctxs := by
  induction lvl generalizing s table with
  | zero =>
    unfold State.walkTouch
    exact (l2line_ctxs ..).trans (holdWait_ctxs ..)
  | succ n ih =>
    unfold State.walkTouch
    extract_lets p e t
    have ht : t.ctxs = s.ctxs := (l2line_ctxs ..).trans (holdWait_ctxs ..)
    clear_value t
    dsimp only
    split
    · exact (ih ..).trans ht
    · exact ht

theorem tlbFill_ctxs (s : State) (core : Option Nat) (x : TlbEntry) : (s.tlbFill core x).ctxs = s.ctxs := by
  unfold State.tlbFill
  split <;> rfl

/-- A translation changes no context. -/
theorem translate_ctxs (s : State) (core : Option Nat) (vf va : Nat) (need : Need) : (s.translate core vf va need).1.ctxs = s.ctxs := by
  unfold State.translate
  split
  · rfl
  · extract_lets t
    have ht : t.ctxs = s.ctxs := walkTouch_ctxs ..
    clear_value t
    refine Eq.trans ?_ ht
    split
    · extract_lets p u
      have hu : u.ctxs = t.ctxs := by
        unfold u
        split
        · exact chargeUncorr_ctxs ..
        · rfl
      clear_value u
      refine Eq.trans ?_ hu
      dsimp only
      split <;> rfl
    · split
      · rfl
      · extract_lets e' home u x
        have hu : u.ctxs = t.ctxs := by
          unfold u
          split
          · rfl
          · exact homeStore_ctxs ..
        clear_value u x
        exact (tlbFill_ctxs ..).trans hu

theorem logDenied_ctxs (s : State) (vf agent key : Nat) (need : Need) (pa : Nat) : (s.logDenied vf agent key need pa).ctxs = s.ctxs := by
  unfold State.logDenied
  split
  · rfl
  · split <;> rfl

theorem resolve_ctxs (s : State) (core : Option Nat) (vf agent : Nat) (need : Need) (va : Word) :
    (s.resolve core vf agent need va).1.ctxs = s.ctxs := by
  have ht := translate_ctxs s core vf va.toNat need
  unfold State.resolve
  split
  · rename_i h
    rwa [h] at ht
  · rename_i h
    rw [h] at ht
    split
    · exact ht
    · exact (logDenied_ctxs ..).trans ht

theorem served_ctxs (s : State) (asker line : Nat) : (s.served asker line).ctxs = s.ctxs := by
  unfold State.served
  split <;> rfl

/-- What firmware writes changes no context. -/
theorem fwWrite_ctxs (s : State) (vf : Nat) (va : Word) (fuel : Nat) (bs : List Byte) : (s.fwWrite vf va fuel bs).1.ctxs = s.ctxs := by
  induction fuel generalizing s va bs with
  | zero => rfl
  | succ fuel ih =>
    unfold State.fwWrite
    split
    · rfl
    · extract_lets m
      generalize hr : (if bitsN va 63 56 ≠ 0 then (s, Except.error (mkCause causeAddrRange va)) else s.resolve none vf agFw .wr va) = r
      have hctxs : r.1.ctxs = s.ctxs := by
        rw [← hr]
        split
        · rfl
        · exact resolve_ctxs ..
      obtain ⟨t, e | ⟨pa, key⟩⟩ := r
      · exact hctxs
      · have hstore := homeStore_ctxs ((t.pinFor key pa m true).served 128 (pa / 1024)) 0 key none vf pa (bs.take m)
        rw [served_ctxs] at hstore
        dsimp only
        split
        · rename_i u h
          rw [h] at hstore
          refine Eq.trans ?_ (hstore.trans hctxs)
          dsimp only
          split
          · exact chargeUncorr_ctxs ..
          · rfl
        · rename_i u h
          rw [h] at hstore
          exact (ih ..).trans (hstore.trans hctxs)

theorem notePin_ctxs (s : State) (core asker pa : Nat) : (s.notePin core asker pa).ctxs = s.ctxs := by
  simp only [State.notePin]

/-- A journal write that waits, made or not, leaves the streams alone. -/
theorem jnlFlush1_sameStreams (s : State) (c : Nat) : SameStreams s (s.jnlFlush1 c).1 := by
  unfold State.jnlFlush1
  split
  · exact .refl s
  · rename_i va bs rest _
    extract_lets t
    have ht : t.ctxs = s.ctxs := fwWrite_ctxs ..
    clear_value t
    split
    · refine Keeps.trans (t := { t with fwWaits := s.fwWaits }) (.of_ctxs ht) ?_
      exact .upCtx _ c fun _ => rfl
    · exact .of_ctxs (foldl_ctxs (f := fun s l => s.notePin 128 128 (l * 1024)) (fun s l => notePin_ctxs ..) t.fwWaits s)

theorem jnlFlush_sameStreams (s : State) (c n : Nat) : SameStreams s (s.jnlFlush c n) := by
  induction n generalizing s with
  | zero => exact .refl s
  | succ n ih =>
    have h1 := jnlFlush1_sameStreams s c
    unfold State.jnlFlush
    split
    · rename_i h
      rw [h] at h1
      exact h1.trans (ih _)
    · rename_i h
      rwa [h] at h1

theorem jnlStore_sameStreams (s : State) (c : Nat) (va : Word) (bs : List Byte) : SameStreams s (s.jnlStore c va bs) := by
  refine Keeps.trans ?_ (jnlFlush_sameStreams ..)
  exact .upCtx s c fun _ => rfl

theorem jnlMark_sameStreams (s : State) (c seq st : Nat) : SameStreams s (s.jnlMark c seq st) := by
  refine Keeps.trans ?_ (jnlStore_sameStreams ..)
  exact .upCtx s c fun _ => rfl

/-- Format words that go back to FQ leave the streams alone. -/
theorem fqReturn_sameStreams (s : State) (c : Nat) (es : List FqEntry) : SameStreams s (s.fqReturn c es) := by
  have h := Keeps.foldl (f := fun s (e : FqEntry) => s.jnlMark c e.seq jQueued) (fun s e => jnlMark_sameStreams s c e.seq jQueued) es
    (s.upCtx c fun k => { k with fq := es ++ k.fq })
  refine Keeps.trans ?_ h
  exact .upCtx s c fun _ => rfl

end Sys2Proof.Machine
end

section
namespace Sys2Proof.Machine

/-! ## The stop of a context clears its shadow levels (R15, R134, R307) -/

theorem clearBoost_entries (k : Ctx) : k.clearBoost.boost.entries = [] := rfl

theorem clearBoost_seq (k : Ctx) (st : Stream) : (k.clearBoost.seq st).x = (k.seq st).x ∧ (k.clearBoost.seq st).p = (k.seq st).p ∧
    (k.clearBoost.seq st).exited = (k.seq st).exited := by
  cases st <;> exact ⟨rfl, rfl, rfl⟩

/-- No load owes an entry of a shadow level any more. -/
theorem clearBoost_boostLoads (k : Ctx) : k.clearBoost.boostLoads = false := by
  simp only [Ctx.boostLoads, Ctx.clearBoost, Ctx.upSeq, Ctx.seq, Seqs.put, Seqs.get, List.any_map, List.any_eq_false]
  intro e _
  by_cases h : e.boost = 0 <;> simp [h]

theorem giveBack_boost (k : Ctx) (qs : List Nat) : (k.giveBack qs).boost = k.boost := by
  induction qs generalizing k with
  | nil => rfl
  | cons q qs ih =>
    rw [Ctx.giveBack, ih]
    split <;> rfl

theorem unslot_boost (k : Ctx) (st : Stream) : (k.unslot st).boost = k.boost := by
  unfold Ctx.unslot
  split
  · exact giveBack_boost ..
  · rfl

theorem dropBundles_boost (s : State) (c : Nat) : Keeps Ctx.boost s (s.dropBundles c) := by
  unfold State.dropBundles
  extract_lets n t
  have ht : t.ctxs = s.ctxs := by
    unfold t
    split
    · rfl
    · exact addScore_ctxs ..
  refine Keeps.trans (.of_ctxs ht) ?_
  exact .foldl (f := fun s st => s.upSeq c st fun q => { q with bundles := [] }) (fun s st => .upCtx s c fun _ => rfl) _ t

theorem unwindRegion_boost (s : State) (c : Nat) : Keeps Ctx.boost s (s.unwindRegion c) := by
  unfold State.unwindRegion
  split
  · exact .refl s
  · exact Keeps.trans ((fqReturn_sameStreams ..).comp (·.2.1)) (.upCtx _ c fun k => giveBack_boost k _)

/-- A context that stops for a fault is stopping, and its shadow levels are empty. -/
theorem faultStop_boost (s : State) (c : Nat) (hc : c < s.ctxs.length) :
    ((s.faultStop c).ctx c).run = .stopping ∧ ((s.faultStop c).ctx c).boost.entries = [] := by
  have hstop : Keeps Ctx.boost _ (s.stopStreams c) := (dropBundles_boost _ c).trans (unwindRegion_boost _ c)
  have hlen : c < (s.stopStreams c).ctxs.length := by
    rw [hstop.length]
    simpa using hc
  unfold State.faultStop
  rw [upCtx_ctx_same _ _ _ hlen]
  refine ⟨rfl, ?_⟩
  dsimp only
  rw [hstop.ctx, upCtx_ctx_same _ _ _ hc]
  simp [unslot_boost, clearBoost_entries]

/-- The first fault of a context is recorded alone, and the context runs on until it stops (R306, R307). -/
theorem takeFault_first {s : State} {c : Nat} {f : Pending} (hc : c < s.ctxs.length) (hpend : (s.ctx c).pend = [])
    (hf : f.cause.code ≠ 0) : ((takeFault s c f).ctx c).pend = [f] ∧ ((takeFault s c f).ctx c).run = (s.ctx c).run := by
  unfold takeFault
  extract_lets s' strict
  have hs : s'.ctxs = s.ctxs := by
    unfold s'
    split <;> rfl
  clear_value s' strict
  have hctx : s'.ctx c = s.ctx c := by rw [State.ctx, hs, State.ctx]
  rw [upCtx_ctx_same _ _ _ (by rwa [hs]), hctx]
  extract_lets pend pcs
  have hp : pend = [f] := by simp [pend, hpend]
  clear_value pend pcs
  subst hp
  simp [firstFault, hf]

/-- A running context with one fault, of an earlier cycle, stops for it (R307). -/
theorem exec_faultStop {s : State} {c : Nat} {f : Pending} (hrun : (s.ctx c).run = .running) (hpend : (s.ctx c).pend = [f])
    (hf : f.cause.code ≠ 0) (ht : f.tide < s.tide) : exec (.faultStop c) s = .next (s.faultStop c) := by
  have hstop : tryFaultStop c s = some (s.faultStop c) := by
    unfold tryFaultStop
    simp [hrun, hpend, firstFault, hf, ht]
  show Host.Outcome.next ((tryFaultStop c s).getD s) = _
  rw [hstop, Option.getD_some]

/-- A context that takes its first fault stops for it in the next cycle. -/
theorem faultStop_of_takeFault {s : State} {c : Nat} {f : Pending} (hc : c < s.ctxs.length) (hrun : (s.ctx c).run = .running)
    (hpend : (s.ctx c).pend = []) (hf : f.cause.code ≠ 0) (ht : f.tide = s.tide) :
    ∃ u, exec (.faultStop c) { takeFault s c f with tide := s.tide + 1 } = .next u ∧ (u.ctx c).run = .stopping ∧
      (u.ctx c).boost.entries = [] := by
  obtain ⟨hp, hr⟩ := takeFault_first hc hpend hf
  have hlen : c < (takeFault s c f).ctxs.length := by rwa [(takeFault_sameStreams s c f).length]
  exact ⟨_, exec_faultStop (hr.trans hrun) hp hf (Nat.lt_succ_of_le (Nat.le_of_eq ht)), faultStop_boost _ c hlen⟩

/-- A word that raises its context's first fault stops the context in the next cycle. -/
theorem faultStop_of_trapAt {s : State} {c : Nat} {st : Stream} (i : Instr) {x : Cause} (hc : c < s.ctxs.length)
    (hrun : (s.ctx c).run = .running) (hpend : (s.ctx c).pend = []) (hx : x.code ≠ 0) :
    ∃ u, exec (.faultStop c) { s.trapAt c st i x with tide := s.tide + 1 } = .next u ∧ (u.ctx c).run = .stopping ∧
      (u.ctx c).boost.entries = [] := by
  have hctx : (s.upSeq c st fun q => { q with stall := none }).ctx c = (s.ctx c).upSeq st fun q => { q with stall := none } :=
    upCtx_ctx_same _ _ _ hc
  exact faultStop_of_takeFault (by simpa [State.upSeq] using hc) (by rw [hctx]; exact hrun) (by rw [hctx]; exact hpend) hx rfl

end Sys2Proof.Machine
end

section
namespace Sys2Proof.Machine

/-! ## Commit (R14, R134, R135) -/

/-- The entry through which level 1 reads a register is its own. -/
theorem find_level1 (b : Boost) (isP : Bool) (r : Nat) : b.find 1 isP r = b.entries.find? fun e => e.lv = 1 && e.isP = isP && e.reg = r := rfl

/-- The X sequencer after a commit of the entries of level 1: they give the registers and predicates their values, and no mark stays on them. -/
def Seq.committed (q : Seq) (b : Boost) : Seq :=
  { q with
    x := Vector.ofFn fun i => if i.val = 0 then q.x[i] else ((b.find 1 false i.val).map (·.val)).getD q.x[i]
    p := Vector.ofFn fun i => if i.val = 0 then q.p[i] else ((b.find 1 true i.val).map fun e => decide (e.val ≠ 0)).getD q.p[i]
    marks := q.marks.filter fun m => (b.find 1 false m.reg.toNat).isNone }

/-- The shadow levels after a commit: level 2 and its record have moved down. -/
def Boost.committed (b : Boost) : Boost :=
  { entries := (b.entries.filter fun e => e.lv = 2).map fun e => { e with lv := 1 }, rec1 := b.rec2, rec2 := none }

/-- The context after a commit. -/
def Ctx.committed (k : Ctx) : Ctx := { (k.upSeq .x fun q => q.committed k.boost) with boost := k.boost.committed }

/-- A commit that no load delays and no poisoned entry stops is `Ctx.committed`. -/
theorem commit_of_mayCommit {k : Ctx} (h : k.mayCommit = true) : k.boostLoads = false ∧ k.commit = .ok k.committed := by
  simp only [Ctx.mayCommit, Bool.and_eq_true, Bool.not_eq_true', List.all_eq_true, Bool.or_eq_true, decide_eq_true_eq] at h
  obtain ⟨hl, he⟩ := h
  have hbad : ((k.boost.entries.filter fun e => e.lv = 1).filter fun e => e.poison.isSome) = [] := by
    simp only [List.filter_eq_nil_iff, List.mem_filter, decide_eq_true_eq]
    rintro e ⟨hm, h1⟩
    rcases he e hm with h | h
    · exact absurd h1 h
    · simpa using h
  refine ⟨hl, ?_⟩
  unfold Ctx.commit
  simp only [hbad, List.foldl_nil]
  rfl

theorem committed_rx (q : Seq) (b : Boost) (r : BitVec 5) : (q.committed b).rx r =
    if r = 0 then 0 else ((b.find 1 false r.toNat).map (·.val)).getD (q.rx r) := by
  unfold Seq.rx
  by_cases hr : r = 0
  · rw [if_pos hr, if_pos hr]
  · have h0 : r.toNat ≠ 0 := fun h0 => hr (BitVec.eq_of_toNat_eq h0)
    simp only [if_neg hr, Seq.committed, Vector.getElem_ofFn, if_neg h0, Fin.getElem_fin]

theorem committed_rp (q : Seq) (b : Boost) (r : BitVec 3) : (q.committed b).rp r =
    if r = 0 then true else ((b.find 1 true r.toNat).map fun e => decide (e.val ≠ 0)).getD (q.rp r) := by
  unfold Seq.rp
  by_cases hr : r = 0
  · rw [if_pos hr, if_pos hr]
  · have h0 : r.toNat ≠ 0 := fun h0 => hr (BitVec.eq_of_toNat_eq h0)
    simp only [if_neg hr, Seq.committed, Vector.getElem_ofFn, if_neg h0, Fin.getElem_fin]

/-- What a commit leaves is what R14 says of it. -/
theorem committed_spec (k : Ctx) : Committed k k.committed := by
  have hseq : k.committed.seq .x = (k.seq .x).committed k.boost := rfl
  refine ⟨fun r => ?_, fun r => ?_, ?_, rfl, ⟨(k.seq .x).committed k.boost, rfl⟩, ?_, ?_⟩
  · rw [hseq, committed_rx, find_level1]
  · rw [hseq, committed_rp, find_level1, Option.map_map]
    rfl
  · simp only [hseq, Seq.committed, find_level1, Option.isNone_map]
  · simp only [hseq, Seq.committed]
  · simp only [hseq, Seq.committed]

/-- A commit that meets one poisoned entry gives its recorded cause. -/
theorem commit_of_poisoned {k : Ctx} {e : Shadow} {x : Cause}
    (h : (k.boost.entries.filter fun o => o.lv = 1 && o.poison.isSome) = [e]) (hx : e.poison = some x) : k.commit = .error x := by
  have hbad : ((k.boost.entries.filter fun e => e.lv = 1).filter fun e => e.poison.isSome) = [e] := by
    rw [List.filter_filter, ← h]
    simp only [Bool.and_comm]
  unfold Ctx.commit
  simp only [hbad, List.foldl_cons, List.foldl_nil, hx, Option.getD_some]

/-! ## Words that read and write no register (R76, R132, R137) -/

/-- A word that may execute has its turn, and its guard is true. -/
theorem turn_of_runs {s : State} {c : Nat} {st : Stream} {g : Guard} {xs ws : List (BitVec 5)} (h : s.runs c st g xs ws = true) :
    s.turnOf c st = true ∧ (s.seq c st).rp g.gp ≠ g.gn := by
  simp only [State.runs, Bool.and_eq_true, bne_iff_ne] at h
  exact ⟨h.1.1.1.1.1.1, h.1.1.1.1.2⟩

theorem engineBusy_nil (k : Ctx) (st : Stream) : engineBusy k st [] [] = false := by
  simp [engineBusy]

theorem markOf_nil (q : Seq) : markOf q [] = none := by
  have hnone : (q.marks.filter fun m => m.reg ≠ 0 && ([] : List (BitVec 5)).contains m.reg) = [] :=
    List.filter_eq_nil_iff.2 fun m _ => by simp
  simp only [markOf, hnone, oldestMark, List.foldl_nil]

/-- A word that names no register, and may stand in a boost span and in a slot, ends as its own body says when its guard is true. -/
theorem runSeq_free (i : Instr) {g : Guard} (body : Nat → Stream → State → Res) {s : State} {c : Nat} {st : Stream}
    (ht : s.turnOf c st = true) (hg : (s.seq c st).rp g.gp ≠ g.gn) :
    runSeq i g true false [] [] body s = finishRes i c st (body c st s) := by
  obtain ⟨-, b, hb⟩ := turnOf_turn ht
  unfold State.seq at hg
  simp [runSeq, hb, hg, engineBusy_nil, markOf_nil]

/-- NOP has no effect with either guard value (R132). -/
theorem exec_nop {s : State} {c : Nat} {st : Stream} (g : Guard) (ht : s.turnOf c st = true) : exec (.nop g) s = .next (s.retire c st) := by
  show runSeq (.nop g) g true false [] [] (fun _ _ s => .done s) s = _
  by_cases hg : (s.seq c st).rp g.gp = g.gn
  · exact runSeq_false _ _ _ _ _ _ _ ht hg
  · exact runSeq_free _ _ ht hg

theorem exec_clrb {s : State} {c : Nat} {st : Stream} {g : Guard} (ht : s.turnOf c st = true) (hg : (s.seq c st).rp g.gp ≠ g.gn) :
    exec (.clrb g) s = .next ((s.upCtx c Ctx.clearBoost).retire c st) :=
  runSeq_free (.clrb g) (fun c _ s => .done (s.upCtx c Ctx.clearBoost)) ht hg

/-- CMTB ends as Commit does, once no load writes a shadow entry (R137). -/
theorem exec_cmtb {s : State} {c : Nat} {st : Stream} {g : Guard} (ht : s.turnOf c st = true) (hg : (s.seq c st).rp g.gp ≠ g.gn)
    (hl : (s.ctx c).boostLoads = false) : exec (.cmtb g) s = match (s.ctx c).commit with
      | .ok k' => .next ((s.upCtx c fun _ => k').retire c st)
      | .error e => .next (s.trapAt c st (.cmtb g) e) := by
  show execCmtb g s = _
  unfold execCmtb
  rw [runSeq_free _ _ ht hg]
  dsimp only
  rw [hl, if_neg Bool.false_ne_true]
  cases (s.ctx c).commit <;> rfl

theorem exec_cmtb_commits {s : State} {c : Nat} {st : Stream} {g : Guard} (ht : s.turnOf c st = true)
    (hg : (s.seq c st).rp g.gp ≠ g.gn) (hm : (s.ctx c).mayCommit = true) :
    ∃ k', Committed (s.ctx c) k' ∧ exec (.cmtb g) s = .next ((s.upCtx c fun _ => k').retire c st) := by
  obtain ⟨hl, hk⟩ := commit_of_mayCommit hm
  exact ⟨_, committed_spec _, by rw [exec_cmtb ht hg hl, hk]⟩

theorem exec_cmtb_poisoned {s : State} {c : Nat} {st : Stream} {g : Guard} {e : Shadow} {x : Cause} (ht : s.turnOf c st = true)
    (hg : (s.seq c st).rp g.gp ≠ g.gn) (hl : (s.ctx c).boostLoads = false)
    (he : ((s.ctx c).boost.entries.filter fun o => o.lv = 1 && o.poison.isSome) = [e]) (hx : e.poison = some x) :
    exec (.cmtb g) s = .next (s.trapAt c st (.cmtb g) x) := by
  rw [exec_cmtb ht hg hl, commit_of_poisoned he hx]

end Sys2Proof.Machine
end

section
namespace Sys2Proof.Machine

/-! ## The encoding of NOP (R132) -/

theorem fld_eq_zero_iff (w : Word) (lo wd : Nat) : fld w lo wd = 0 ↔ ∀ i < wd, w.getLsbD (lo + i) = false := by
  constructor
  · intro h i hi
    simpa [hi] using congrArg (·.getLsbD i) h
  · intro h
    ext i hi
    simpa using h i hi

/-- A field is 0 exactly when both its parts are. -/
theorem fld_add_eq_zero (w : Word) (lo m n : Nat) : fld w lo (m + n) = 0 ↔ fld w lo m = 0 ∧ fld w (lo + m) n = 0 := by
  simp only [fld_eq_zero_iff]
  refine ⟨fun h => ⟨fun i hi => h i (by omega), fun i hi => ?_⟩, fun ⟨h, h'⟩ i hi => ?_⟩
  · rw [Nat.add_assoc]
    exact h (m + i) (by omega)
  · rcases Nat.lt_or_ge i m with hm | hm
    · exact h i hm
    · rw [show lo + i = lo + m + (i - m) by omega]
      exact h' (i - m) (by omega)

/-- The bits below BOOST and the guard are IMM, SUB, B, A and D. -/
theorem fld_below_guard (w : Word) :
    fld w 0 50 = 0 ↔ fld w 0 32 = 0 ∧ fld w 32 3 = 0 ∧ fld w 35 5 = 0 ∧ fld w 40 5 = 0 ∧ fld w 45 5 = 0 :=
  (fld_add_eq_zero w 0 32 18).trans <| and_congr_right' <| (fld_add_eq_zero w 32 3 15).trans <| and_congr_right' <|
    (fld_add_eq_zero w 35 5 10).trans <| and_congr_right' <| fld_add_eq_zero w 40 5 5

/-- A word with the opcode of NOP is NOP where BOOST and every field are 0, and no instruction else. -/
theorem decode_nop {w : Word} (ho : (fld w 56 8).toNat = 0x28) :
    if fld w 54 2 = 0 ∧ fld w 0 50 = 0 then decode w = .ok (.nop (guardOf w)) else ∃ e, decode w = .error e := by
  have hx : onlyX (fld w 56 8).toNat = true := ho ▸ rfl
  by_cases hs : fld w 32 3 = 0
  · have hs0 : (fld w 32 3).toNat = 0 := congrArg BitVec.toNat hs
    have hf : fieldsX w = some [(45, fld w 45 5 != 0), (40, fld w 40 5 != 0), (35, fld w 35 5 != 0), (0, fld w 0 32 != 0)] := by
      simp only [fieldsX, ho, hs0]
    have hi : buildX w = some (.nop (guardOf w)) := by simp only [buildX, ho, hs0]
    have hboost : ((Instr.nop (guardOf w)).boosted && !(Instr.nop (guardOf w)).boostable) = (fld w 54 2 != 0) := Bool.and_true _
    have hzero : fld w 0 50 = 0 ↔ ∀ p ∈ [(45, fld w 45 5 != 0), (40, fld w 40 5 != 0), (35, fld w 35 5 != 0), (0, fld w 0 32 != 0)],
        p.2 = false := by
      rw [fld_below_guard]
      simp only [hs, List.forall_mem_cons, bne_eq_false_iff_eq, List.not_mem_nil, false_implies, implies_true, and_true, true_and]
      exact ⟨fun ⟨hi, hb, ha, hd⟩ => ⟨hd, ha, hb, hi⟩, fun ⟨hd, ha, hb, hi⟩ => ⟨hi, hb, ha, hd⟩⟩
    have hr := reservedDetail_eq_none hx hf
    rw [← hzero] at hr
    split
    · rename_i h
      rw [decode_of_fields hx (hr.2 ⟨by rw [h.1]; decide, h.2⟩) hi, hboost, h.1]
      rfl
    · rename_i h
      by_cases hn : reservedDetail w = none
      · have hb : fld w 54 2 ≠ 0 := fun hb => h ⟨hb, (hr.1 hn).2⟩
        refine ⟨.boostIllegal, ?_⟩
        rw [decode_of_fields hx hn hi, hboost, if_pos (by simpa using hb)]
      · obtain ⟨d, hd⟩ := decode_reserved hx hn
        exact ⟨_, hd⟩
  · rw [if_neg fun h => hs ((fld_below_guard w).1 h.2).2.1]
    have hs0 : (fld w 32 3).toNat ≠ 0 := fun h0 => hs (BitVec.eq_of_toNat_eq h0)
    obtain ⟨n, hn⟩ := Nat.exists_eq_succ_of_ne_zero hs0
    obtain ⟨d, hd⟩ := decode_reservedSub hx (by simp only [fieldsX, ho, hn])
    exact ⟨_, hd⟩

/-! ## TRIG and EXIT (R130, R131) -/

theorem arrive_x (q : Seq) (n : Nat) : (q.arrive n).x = q.x := by
  induction n generalizing q with
  | zero => rfl
  | succ n ih =>
    unfold Seq.arrive
    split
    · rfl
    · split
      · extract_lets v u
        split
        · rfl
        · exact ih _
      · rfl

/-- The advance to the next word leaves the x registers alone. -/
theorem retire_x (q : Seq) : q.retire.x = q.x := by
  show q.advance.x = q.x
  unfold Seq.advance
  split
  · split
    · split
      · rfl
      · exact arrive_x ..
    · rfl
  · exact arrive_x ..

/-- TRIG sets the iteration's trigger bit once the stream's accesses have performed at MODULE scope. -/
theorem exec_trig {s : State} {c : Nat} {st : Stream} {g : Guard} (h : s.runs c st g [] [] = true) (hq : s.quiet c st = true)
    (ho : s.ownHome c st 3 = true) : exec (.trig g) s =
      .next (((s.sendHome c st 3).upCtx c fun k => { k with iter := k.iter.map fun it => { it with trig := true } }).retire c st) := by
  simp only [State.quiet, Bool.and_eq_true, decide_eq_true_eq] at hq
  show execTrig g s = _
  unfold execTrig
  rw [runSeq_runs _ _ _ _ _ _ _ h (by simp)]
  simp [hq, ho]

/-- What the stream has after TRIG. -/
theorem trig_effect (s : State) (c : Nat) (st : Stream) (hc : c < s.ctxs.length) :
    let t := ((s.sendHome c st 3).upCtx c fun k => { k with iter := k.iter.map fun it => { it with trig := true } }).retire c st
    (t.ctx c).iter = (s.ctx c).iter.map (fun it => { it with trig := true }) ∧ (t.seq c st).x = (s.seq c st).x := by
  have hsame := sendHome_sameStreams s c st 3
  generalize s.sendHome c st 3 = u at hsame
  have hu : c < u.ctxs.length := by rwa [hsame.length]
  have hlen : c < (u.upCtx c fun k => { k with iter := k.iter.map fun it => { it with trig := true } }).ctxs.length := by simpa using hu
  constructor
  · rw [State.retire, State.upSeq, upCtx_ctx_same _ _ _ hlen]
    show Ctx.iter (State.ctx _ c) = _
    rw [upCtx_ctx_same _ _ _ hu, ← hsame.iter]
  · rw [State.retire, upSeq_seq_same _ _ _ _ hlen, retire_x, State.seq, upCtx_ctx_same _ _ _ hu, ← hsame.seq]
    rfl

/-- The end of a stream: it has exited, and its loops with it. -/
def Seq.exit (q : Seq) : Seq := { q with exited := true, loops := [], loopBuf := [] }

theorem endRegion_none {s : State} {c : Nat} (h : (s.ctx c).region = none) : s.endRegion c = s := by
  simp only [State.endRegion, h]

/-- The state after EXIT, outside a region: the X stream clears its shadow levels (R131). -/
def State.exitStream (s : State) (c : Nat) (st : Stream) : State :=
  if st = .x then (s.upSeq c st Seq.exit).upCtx c Ctx.clearBoost else s.upSeq c st Seq.exit

theorem exec_exit {s : State} {c : Nat} {st : Stream} {g : Guard} (h : s.runs c st g [] [] = true) (hs : s.noSlot c st = true)
    (hl : (s.seq c st).loadQ = []) (hm : (s.seq c st).marks = []) (hr : (s.ctx c).region = none) :
    exec (.exit g) s = .next ((s.exitStream c st).retireJump c st) := by
  obtain ⟨hc, -⟩ := turnOf_turn (turn_of_runs h).1
  have hregion : ((s.upSeq c .c Seq.exit).ctx c).region = none := by
    rw [State.upSeq, upCtx_ctx_same _ _ _ hc]
    exact hr
  have hend : (if st = .c then (s.exitStream c st).endRegion c else s.exitStream c st) = s.exitStream c st := by
    split
    · rename_i hst
      subst hst
      exact endRegion_none hregion
    · rfl
  show execExit g s = _
  unfold execExit
  rw [runSeq_runs _ _ _ _ _ _ _ h fun _ => hs]
  simp only [hl, hm, oldestMark, List.any_nil, List.foldl_nil, Bool.false_eq_true, if_false]
  exact congrArg (fun u => Host.Outcome.next (State.retireJump u c st)) hend

theorem exitStream_length (s : State) (c : Nat) (st : Stream) : (s.exitStream c st).ctxs.length = s.ctxs.length := by
  unfold State.exitStream
  split <;> simp [State.upSeq]

theorem exitStream_seq (s : State) (c : Nat) (st : Stream) (hc : c < s.ctxs.length) :
    ((s.exitStream c st).seq c st).exited = true ∧ ((s.exitStream c st).seq c st).x = (s.seq c st).x := by
  unfold State.exitStream
  split
  · have hlen : c < (s.upSeq c st Seq.exit).ctxs.length := by simpa [State.upSeq] using hc
    rw [State.seq, upCtx_ctx_same _ _ _ hlen]
    obtain ⟨hx, -, he⟩ := clearBoost_seq ((s.upSeq c st Seq.exit).ctx c) st
    rw [hx, he]
    show (State.seq _ c st).exited = true ∧ (State.seq _ c st).x = _
    rw [upSeq_seq_same _ _ _ _ hc]
    exact ⟨rfl, rfl⟩
  · rw [upSeq_seq_same _ _ _ _ hc]
    exact ⟨rfl, rfl⟩

theorem exitStream_mem (s : State) (c : Nat) (st : Stream) : (s.exitStream c st).mem = s.mem := by
  unfold State.exitStream
  split <;> rfl

/-- What the stream has after EXIT. -/
theorem exit_effect (s : State) (c : Nat) (st : Stream) (hc : c < s.ctxs.length) :
    let t := (s.exitStream c st).retireJump c st
    (t.seq c st).exited = true ∧ (t.seq c st).x = (s.seq c st).x ∧ t.mem = s.mem := by
  obtain ⟨he, hx⟩ := exitStream_seq s c st hc
  intro t
  have ht : t.seq c st = { (s.exitStream c st).seq c st with stall := none, ord := ((s.exitStream c st).seq c st).ord + 1 } :=
    upSeq_seq_same _ _ _ _ (by rwa [exitStream_length])
  rw [ht]
  exact ⟨he, hx, exitStream_mem s c st⟩

/-! ## Votes (R139) -/

/-- A vote whose predicates no vector instruction has yet to write puts the OR or the AND over the selected elements. -/
theorem vote_runs {i : Instr} {all : Bool} {g : Guard} {pd ma mb : BitVec 3} {masked : Bool} {s : State} {c : Nat} {st : Stream}
    (h : s.runs c st g [] [] = true) (ha : predBusy (s.ctx c) ma = false) (hb : predBusy (s.ctx c) mb = false) :
    vote i all g pd ma mb masked s = .next (s.putP c st pd (voteOf (s.ctx c) all ma mb masked)) := by
  unfold vote
  rw [runSeq_runs _ _ _ _ _ _ _ h (by simp)]
  simp only [ha, hb, Bool.and_false, Bool.or_self, Bool.false_eq_true, if_false]
  rfl

theorem voteOf_any (k : Ctx) (ma mb : BitVec 3) (masked : Bool) : voteOf k false ma mb masked =
    (List.range k.velems).any fun i => (!masked || k.mbit mb.toNat i) && k.mbit ma.toNat i := by
  simp [voteOf, List.any_filter]

theorem voteOf_all (k : Ctx) (ma mb : BitVec 3) (masked : Bool) : voteOf k true ma mb masked =
    (List.range k.velems).all fun i => !(!masked || k.mbit mb.toNat i) || k.mbit ma.toNat i := by
  simp [voteOf, List.all_filter]

/-- Settles O18: each word by its own meaning; the words of the boost span, NOP, CMTB and CLRB, with or without a level in use. -/
theorem endsAndVotes : Obligations.EndsAndVotes := by
  unfold Obligations.EndsAndVotes
  refine ⟨fun s c st g pd ma mb masked h => ?_, fun s c g ht _ hg => ?_, fun w ho => decode_nop ho, rfl, fun s c st g ht _ => exec_nop g ht⟩
  · obtain ⟨ht, hg⟩ := turn_of_runs h
    obtain ⟨hc, -⟩ := turnOf_turn ht
    refine ⟨exec_nop g ht, fun hq ho => ⟨_, exec_trig h hq ho, trig_effect s c st hc⟩,
      fun hs hl hm hr => ⟨_, exec_exit h hs hl hm hr, exit_effect s c st hc⟩, exec_cmtb_commits ht hg, exec_clrb ht hg,
      fun ha hb => ⟨?_, ?_⟩⟩
    · rw [← voteOf_any]
      exact vote_runs h ha hb
    · rw [← voteOf_all]
      exact vote_runs h ha hb
  · obtain ⟨hc, -⟩ := turnOf_turn ht
    have hctx : (s.upCtx c Ctx.clearBoost).ctx c = (s.ctx c).clearBoost := upCtx_ctx_same _ _ _ hc
    obtain ⟨hx, hp, -⟩ := clearBoost_seq (s.ctx c) .x
    refine ⟨exec_cmtb_commits ht hg, fun e x hl he hx => ⟨exec_cmtb_poisoned ht hg hl he hx, faultStop_of_trapAt _ hc⟩,
      exec_clrb ht hg, ?_⟩
    simp only [State.seq, hctx]
    exact ⟨clearBoost_entries _, hx, hp, clearBoost_boostLoads _⟩

end Sys2Proof.Machine
end
